-- ==== Sys2Proof/Word.lean ====
section
/-! DEFINITION. The words of the panel: bytes, 32- and 64-bit words, sectors, error codes, sparse tables. -/

namespace Sys2Proof

/-- One byte. -/
abbrev Byte := BitVec 8

/-- A 16-bit half word. -/
abbrev Half := BitVec 16

/-- A 32-bit word: a general register, a 32-bit BAR0 register (R107, R356). -/
abbrev Word := BitVec 32

/-- A 64-bit word: an instruction, a descriptor word, a 64-bit register (R142, R88). -/
abbrev DWord := BitVec 64

/-- The 256 bytes of one sector, byte 0 in the lowest bits (R224, R257). -/
abbrev Sector := BitVec 2048

/-- A 32-bit error code: severity, unit, site, cause (R8). -/
abbrev Code := BitVec 32

/-- A sparse table by natural key: keys strictly rising, no entry equal to what an unlisted key reads as. -/
abbrev SMap (α : Type) := List (Nat × α)

/-- Memory as a sparse table of bytes by address. -/
abbrev Memory := List (Nat × Byte)

end Sys2Proof
end

