-- ==== Sys2Proof/Syntax.lean ====
section
/-! DEFINITION. The commands of the panel: one constructor per row of spec/opcode_table.json, with its operands. -/

namespace Sys2Proof

/-- A drill slot: slice (logical die × 8 + core), engine 0-3, slot 0-7 (R7, R107). -/
structure DrillRef where
  slice : Nat
  engine : Nat
  slot : Nat
  deriving DecidableEq, Repr

/-- What the engine's fetch buffer holds at the path's PC: the instruction word and its poison mark (R142, R164). -/
structure Fetched where
  word : DWord
  poisoned : Bool
  deriving DecidableEq, Repr

/-- A transfer queue of a die: 0-7 the cores', 8 the die reeve's (R174). -/
structure XQueue where
  die : Nat
  q : Nat
  deriving DecidableEq, Repr

/-- An entry that the panel has fetched (R361): function, submission queue, and the number of the fetch on that function, counted
from 0 (a slot number would not tell two entries apart once the slot has been reused). -/
structure EntryRef where
  fn : Nat
  sq : Nat
  num : Nat
  deriving DecidableEq, Repr

/-- A hedgerow port of a node: logical die 0-23, 0x1E headland A, 0x1F headland B; port N E S W or the headland's column (Table 11-3, R323). -/
structure PortRef where
  node : Nat
  port : Nat
  deriving DecidableEq, Repr

/-- A hedgerow message: its 128-bit header and data (Table 11-3), and the 256 bytes of its further data flit with their poison (R309). -/
structure HdgMsg where
  hdr : BitVec 128
  data : Option Sector
  poison : Bool
  more : Option (Sector × Bool)
  deriving DecidableEq, Repr

/-- The message that a switch handles: one in its input buffers, one in its reroute buffer, or one that a unit of the node injects (R317-R320). -/
inductive FwdSource where
  | held (index : Nat)
  | rerouted (index : Nat)
  | injected (m : HdgMsg)
  deriving DecidableEq, Repr

/-- The eleven atomic operations' new values (Table 05-10). -/
inductive AtomOp where
  | add | min | max | and | or | xor | xch | cas
  deriving DecidableEq, Repr

/-- The TYPE field of an atomic (Table 05-8). -/
inductive AtomTy where
  | u32 | s32 | f32 | bf16x2 | u64
  deriving DecidableEq, Repr

/-- One member of a combined atomic group: its thread and operands b and c (R128). -/
structure AtomMember where
  thread : Nat
  b : DWord
  c : DWord
  deriving DecidableEq, Repr

/-- A combined atomic group of one instruction (R128, Table 09-2): the drill and register it returns to, the operation, the
byte within the sector, ORD and the hint, the members in ascending thread order, whether the page is mapped uncached (R273); the context of the
drill (R458). -/
structure AtomGroup where
  drill : DrillRef
  context : Half
  dst : Nat
  op : AtomOp
  ty : AtomTy
  byte : Nat
  ord : Nat
  hint : Nat
  uncached : Bool
  members : List AtomMember
  deriving DecidableEq, Repr

/-- What a non-caching agent is (R257). -/
inductive NcAgent where
  | transfer (q : XQueue) (token : Nat)
  | reeve (die : Nat)
  | bar4
  | remote (peer : Nat)
  deriving DecidableEq, Repr

/-- How a non-caching write changes the bytes it covers (R181, R246). -/
inductive NcWriteKind where
  | write | addF32 | addBf16
  deriving DecidableEq, Repr

/-- An error that a read of one of the panel's own memories, or a receiver's FEC, found (R167, R482, Table 18-3). -/
inductive Upset where
  /-- a corrected error of a granary, data cache, register file or reeve memory of a die -/
  | corrected (die : Nat)
  /-- an uncorrectable error of a die's granary tags or directory, data-cache tags or reeve memory -/
  | tags (die : Nat)
  /-- an uncorrectable error of a granary sector's data -/
  | granary (sector : Nat)
  /-- an uncorrectable error of the data of a core's cached sector -/
  | line (slice sector : Nat)
  /-- an uncorrectable error of a register that the instruction `word` at the drill's path reads in the given threads -/
  | register (d : DrillRef) (threads word : DWord)
  /-- a seedbed word corrected; a granule with a multi-bit error -/
  | seedbedCorrected (slice : Nat)
  | seedbed (slice granule : Nat)
  /-- a parity error of the accumulator store -/
  | accumulator (slice : Nat)
  /-- a weight cell with another bit: the accumulator entry that it fed, and the value there -/
  | weight (slice entry : Nat) (value : Word)
  /-- a correction that the on-die ECC of a die's DRAM reports (Table 10-2) -/
  | onDie (die : Nat)
  /-- a codeword of DRAM (four to a sector) with one symbol in error, or with more: the next read of it finds out (R297, R298) -/
  | codeword (cw : Nat) (bad : Bool)
  /-- a channel whose next attempts, this many in a row, fail in command/address or data parity (R295) -/
  | parity (channel fails : Nat)
  /-- an FEC codeword of a scale-out port, corrected or uncorrectable (R326) -/
  | fec (port : Nat) (corrected : Bool)
  /-- a memory or lockstep fault of headland A, or of headland B -/
  | headland (b : Bool)
  deriving DecidableEq, Repr

/-- What start-up steps find out from silicon (Table 01-5): an input of STARTUP_STEP_COMPLETE. -/
structure StepResult where
  /-- step 3: headland B's image hashed as headland A announced (R521) -/
  hlbImageOk : Bool
  /-- step 5: positions that fail logic BIST, SRAM BIST -/
  logicFail : List Nat
  sramFail : List Nat
  /-- step 6: positions whose two training attempts fail; spare connections used, by position (R295) -/
  trainFail : List Nat
  spareUsed : List (Nat × Word)
  /-- step 8: lane groups that pass, by 4 × node position + port (positions 0-27, 28 headland A, 29 headland B) -/
  lanesPass : List (Nat × Byte)
  /-- step 9: positions whose image fails three times (R521) -/
  imageFail : List Nat
  /-- step 10: scale-out ports that train (R37) -/
  xltUp : Half
  deriving DecidableEq, Repr

/-- An Ethernet header: destination and source address, the IEEE 802.1Q tag if any, and the EtherType (R327). -/
structure EthHdr where
  dst : BitVec 48
  src : BitVec 48
  tag : Option Half
  type : Half
  deriving DecidableEq, Repr

/-- A Tuldoro Link Transport frame: the Ethernet header, the four header words and the payload (R329, Table 12-2). -/
structure TltFrame where
  eth : EthHdr
  w0 : DWord
  w1 : DWord
  w2 : DWord
  w3 : DWord
  payload : List Byte
  deriving DecidableEq, Repr

/-- A discovery frame: type comes with the command; the Ethernet header, nonce, panel identity, address, system ID, port, port map (Table 12-4). -/
structure Discovery where
  eth : EthHdr
  nonce : DWord
  panelId : BitVec 256
  valid : Bool
  address : BitVec 12
  sysid : Byte
  port : Nat
  portMap : Word
  deriving DecidableEq, Repr

/-- What the MAC sees of a received Ethernet frame (R326, R327, R329): its header, its bytes from the destination address to the FCS, whether the FCS
is right, whether it is PAUSE or PFC, and VER and TYPE of the TLT header. -/
structure MacFrame where
  eth : EthHdr
  bytes : Nat
  fcsOk : Bool
  pause : Bool
  ver : BitVec 4
  type : BitVec 4
  deriving DecidableEq, Repr

/-- Header of a PTP message (R344): Ethernet header and domain. -/
structure PtpHdr where
  eth : EthHdr
  domain : Byte
  deriving DecidableEq, Repr

/-- What one hypothesis's decoder step produced (R424, R425): computed by the model's code (R412), so an input. -/
structure HypStep where
  handle : Nat
  slot : Nat
  hyp : Nat
  /-- the token's UTF-8 text, or none for the wait token -/
  token : Option (List Byte)
  score : Int
  deriving DecidableEq, Repr

/-- Speech samples that VOC produced for a target slot (R430): computed by the model's code (R412), so an input. -/
structure SpeechOut where
  handle : Nat
  slot : Nat
  bytes : List Byte
  deriving DecidableEq, Repr

/-- A pool: panel system address and logical die (R402). -/
structure Pool where
  panel : BitVec 12
  die : Nat
  deriving DecidableEq, Repr

/-- BAR4 AtomicOp kinds (Table 13-1). -/
inductive BarAtomic where
  | fetchAdd | swap | cas
  deriving DecidableEq, Repr

/-- The host port's link partner as training finds it (Table 13-1): Flit mode, its highest data rate (1 = 32, 2 = 64, 3 = 128 GT/s), its lanes. -/
structure LinkPartner where
  flit : Bool
  rate : Nat
  lanes : Nat
  deriving DecidableEq, Repr

/-- What a configuration request does to the function: nothing that this model holds, put it in D3hot, or give BAR4 the window of 2^(30 + `g`)
bytes (Tables 13-1, 13-2). -/
inductive ConfigReq where
  | other
  | toD3hot
  | bar4Window (g : Nat)
  deriving DecidableEq, Repr

/-- What a debugger changes in a parked drill before it chooses the outcome (R137, R138): general registers of a thread, predicate and drill-uniform
registers by number, and whether it brings the live threads to one path at a PC. -/
structure DrillEdit where
  g : List (Nat × Nat × Word)
  p : List (Nat × DWord)
  u : List (Nat × Word)
  onePath : Option (BitVec 48)
  deriving DecidableEq, Repr

/-- What a BIST test cycle or reset step of a die finds (Table 18-5, R535): an input of PARTITION_RESET_STEP_DONE. -/
structure ResetResult where
  /-- step 5: the one training attempt passes, and the pseudo-channels with a spare connection in use after it (R295); step 6: agreed groups by port; step 7: the image verifies -/
  trainOk : Bool
  spareUsed : Word
  lanesPass : List (Nat × Byte)
  imageOk : Bool
  /-- test cycle between steps 4 and 5: domains whose signature mismatched, signatures, first failing SRAM word, first failing DRAM sector -/
  sigBad : BitVec 15
  sigs : List (Nat × DWord)
  sramFail : Option Word
  dramFail : Option Word
  deriving DecidableEq, Repr

/-- The commands: the rows of spec/opcode_table.json in the table's order. -/
inductive Instr where
  -- Module power, start-up and management
  | enableRise (mv lowMs : Nat) (sysclk : Bool)
  | converterRegulationTimeout
  | powerGood (mode : Bool) (addr : BitVec 2)
  | startupStepComplete (r : StepResult)
  | dieRecordAppend (pos : Nat) (rec : DWord)
  | enumResponseTimeout (pos : Nat)
  | configRequest (fn : Nat) (r : ConfigReq)
  | perstAssert
  | perstDeassert (p : LinkPartner)
  | hotReset
  | hostLinkLossTimeout
  | enableFall
  | inputOutOfRange (mv us fallUs : Nat)
  | sysclkLoss (ns : Nat)
  | getTelemetry
  | getErrors (index : Byte)
  | setCap (watts : Half)
  | getIdentity
  | i3cDynamicAddress (addr : BitVec 7)
  -- Integer and predicate class
  | mov (d : DrillRef) (f : Fetched)
  | movh (d : DrillRef) (f : Fetched)
  | iadd (d : DrillRef) (f : Fetched)
  | isub (d : DrillRef) (f : Fetched)
  | imul (d : DrillRef) (f : Fetched)
  | imulhi (d : DrillRef) (f : Fetched)
  | imla (d : DrillRef) (f : Fetched)
  | imin (d : DrillRef) (f : Fetched)
  | imax (d : DrillRef) (f : Fetched)
  | iabs (d : DrillRef) (f : Fetched)
  | and (d : DrillRef) (f : Fetched)
  | or (d : DrillRef) (f : Fetched)
  | xor (d : DrillRef) (f : Fetched)
  | not (d : DrillRef) (f : Fetched)
  | shl (d : DrillRef) (f : Fetched)
  | shr (d : DrillRef) (f : Fetched)
  | ones (d : DrillRef) (f : Fetched)
  | clz (d : DrillRef) (f : Fetched)
  | bitrev (d : DrillRef) (f : Fetched)
  | fldx (d : DrillRef) (f : Fetched)
  | fldi (d : DrillRef) (f : Fetched)
  | itest (d : DrillRef) (f : Fetched)
  | pick (d : DrillRef) (f : Fetched)
  | plogic (d : DrillRef) (f : Fetched)
  | pgather (d : DrillRef) (f : Fetched)
  | pscatter (d : DrillRef) (f : Fetched)
  | iadd64 (d : DrillRef) (f : Fetched)
  -- Floating and conversion classes
  | fadd (d : DrillRef) (f : Fetched)
  | fsub (d : DrillRef) (f : Fetched)
  | fmul (d : DrillRef) (f : Fetched)
  | fmac (d : DrillRef) (f : Fetched)
  | fmin (d : DrillRef) (f : Fetched)
  | fmax (d : DrillRef) (f : Fetched)
  | ftest (d : DrillRef) (f : Fetched)
  | frcp (d : DrillRef) (f : Fetched)
  | frsq (d : DrillRef) (f : Fetched)
  | fsqrt (d : DrillRef) (f : Fetched)
  | fex2 (d : DrillRef) (f : Fetched)
  | flg2 (d : DrillRef) (f : Fetched)
  | ftanh (d : DrillRef) (f : Fetched)
  | fsin (d : DrillRef) (f : Fetched)
  | fcos (d : DrillRef) (f : Fetched)
  | fdotbp (d : DrillRef) (f : Fetched)
  | cvt (d : DrillRef) (f : Fetched)
  | cvts (d : DrillRef) (f : Fetched)
  | qmx (d : DrillRef) (f : Fetched)
  -- Cross-lane class
  | lread (d : DrillRef) (f : Fetched)
  | pall (d : DrillRef) (f : Fetched)
  | pany (d : DrillRef) (f : Fetched)
  | pmask (d : DrillRef) (f : Fetched)
  | lreduce (d : DrillRef) (f : Fetched)
  | ltake (d : DrillRef) (f : Fetched)
  -- Memory and atomic classes
  | ld (d : DrillRef) (f : Fetched)
  | st (d : DrillRef) (f : Fetched)
  | pref (d : DrillRef) (f : Fetched)
  | aadd (d : DrillRef) (f : Fetched)
  | amin (d : DrillRef) (f : Fetched)
  | amax (d : DrillRef) (f : Fetched)
  | aand (d : DrillRef) (f : Fetched)
  | aor (d : DrillRef) (f : Fetched)
  | axor (d : DrillRef) (f : Fetched)
  | axch (d : DrillRef) (f : Fetched)
  | acas (d : DrillRef) (f : Fetched)
  | radd (d : DrillRef) (f : Fetched)
  -- Fences, waits, array, transfer and control classes
  | mfence (d : DrillRef) (f : Fetched)
  | twait (d : DrillRef) (f : Fetched)
  | tpoll (d : DrillRef) (f : Fetched)
  | tread (d : DrillRef) (f : Fetched)
  | lwait (d : DrillRef) (f : Fetched)
  | lwaitTimeout (d : DrillRef) (pc : BitVec 48)
  | dsync (d : DrillRef) (f : Fetched)
  | cbar (d : DrillRef) (f : Fetched)
  | amm (d : DrillRef) (f : Fetched)
  | await (d : DrillRef) (f : Fetched)
  | apoll (d : DrillRef) (f : Fetched)
  | afence (d : DrillRef) (f : Fetched)
  | xsub (d : DrillRef) (f : Fetched)
  | xwait (d : DrillRef) (f : Fetched)
  | xpoll (d : DrillRef) (f : Fetched)
  | xfence (d : DrillRef) (f : Fetched)
  | bra (d : DrillRef) (f : Fetched)
  | brind (d : DrillRef) (f : Fetched)
  | call (d : DrillRef) (f : Fetched)
  | exit (d : DrillRef) (f : Fetched)
  | nop (d : DrillRef) (f : Fetched)
  | trap (d : DrillRef) (f : Fetched)
  | dbreak (d : DrillRef) (f : Fetched)
  | sreg (d : DrillRef) (f : Fetched)
  -- Drill events
  | faultRecordWrite (die : Nat)
  | parkReplay (d : DrillRef) (edit : Option DrillEdit)
  | parkSkip (d : DrillRef) (edit : Option DrillEdit)
  | parkKill (d : DrillRef) (edit : Option DrillEdit)
  | launchRecordTake (slice : Nat)
  | drillDrainComplete (d : DrillRef)
  -- Array and transfer engines
  | arrayInstrStart (slice : Nat)
  | arrayTileSwap (slice : Nat)
  | arrayInstrComplete (slice : Nat)
  | canaryRecompute (slice : Nat)
  | transferStart (die engine : Nat)
  | transferChunkArrive (q : XQueue) (token : Word) (chunk : Nat)
  | transferComplete (q : XQueue) (token : Word)
  -- Coherence: home side, cache side
  | getS (sector cache hint : Nat)
  | getM (sector cache hint : Nat) (have_ : Bool)
  | putM (sector cache : Nat) (data : Sector) (poison : Bool)
  | atomReq (sector cache : Nat) (g : AtomGroup)
  | raddReq (sector cache : Nat) (g : AtomGroup)
  | invAck (sector cache : Nat)
  | recallData (sector cache : Nat) (data : Sector) (poison : Bool)
  | homeFillDone (sector : Nat)
  -- `hint` of Table 05-8, 3 for discard; `ro`: through a read-only region (R239)
  | nonCachingRead (sector : Nat) (src : NcAgent) (uncached : Bool) (hint : Nat) (ro : Bool)
  | nonCachingWrite (sector : Nat) (src : NcAgent) (kind : NcWriteKind) (uncached : Bool) (hint first len : Nat) (data : Sector) (poison : Bool)
  | inv (sector cache : Nat)
  | recall (sector cache : Nat) (toI : Bool)
  | dataS (sector cache : Nat) (data : Sector) (poison : Bool)
  | dataM (sector cache : Nat) (data : Sector) (poison : Bool)
  | grantM (sector cache : Nat)
  | wback (sector cache : Nat)
  | atomResp (sector cache : Nat) (g : AtomGroup) (olds : List DWord) (poison : Bool)
  | raddAck (sector cache : Nat) (g : AtomGroup) (poison : Bool)
  | coherenceSweepDone (home reset : Nat)
  | thrashWindowEnd (die : Nat)
  | granarySliceFlush (slice : Nat)
  -- Stacked memory
  | stackTempSample (die : Nat) (readout footprint : Option Nat)
  | bankRefresh (die pc bank : Nat)
  | eccWindowEnd (die : Nat)
  | patrolScrubRead (die codeword : Nat)
  | marginReadDelay (die : Nat) (w : Word)
  | marginWriteDelay (die : Nat) (w : Word)
  | marginReadReference (die : Nat) (w : Word)
  | marginWriteReference (die : Nat) (w : Word)
  | marginSupply (die : Nat) (w : Word)
  | memMarginSweepDone (die low high lane : Nat)
  -- Hedgerow fabric
  | flitReceive (p : PortRef) (flit : BitVec 2304)
  | nak (p : PortRef) (seq : BitVec 12)
  | ackProgressTimeout (p : PortRef)
  | laneLockLoss (p : PortRef) (group : Nat)
  | partnerTrainingSequence (p : PortRef)
  | groupTrainingDone (p : PortRef) (mask : Byte)
  | hdgOffer (p : PortRef) (mask : Byte)
  | hdgConfirm (p : PortRef) (mask : Byte)
  | agreementTimeout (p : PortRef)
  | switchForward (node : Nat) (src : FwdSource)
  | routeRecompute
  | replayWindowEnd (p : PortRef)
  -- Scale-out and time
  | tltWrite (port : Nat) (f : TltFrame)
  | writeAckSend (headland peer : Nat)
  | tltReadReq (port : Nat) (f : TltFrame)
  | tltReadResp (port : Nat) (f : TltFrame)
  | tltAck (port : Nat) (f : TltFrame)
  | retransmitTimeout (headland peer : Nat) (read : Bool) (seq : BitVec 24)
  | tltHello (port : Nat) (h : Discovery)
  | tltAssign (port : Nat) (h : Discovery)
  | tltRelease (port : Nat) (h : Discovery)
  | helloTimer (nonce : DWord)
  | scaleoutPortLinkLoss (port : Nat)
  | ptpSync (port : Nat) (h : PtpHdr) (twoStep : Bool) (logInterval : Int) (origin : Nat) (err : Int)
  | ptpAnnounce (port : Nat) (h : PtpHdr) (master : DWord) (rank : Nat)
  | ptpDelayResp (port : Nat) (h : PtpHdr) (rx : Nat)
  | holdoverTimeout
  | holdoverLimitExpiry
  -- Host interface
  | sqTail (fn q : Nat) (v : Word)
  | cqHead (fn q : Nat) (v : Word)
  | sqEntryFetch (fn q : Nat)
  | nopCommand (e : EntryRef)
  | createCq (e : EntryRef)
  | createSq (e : EntryRef)
  | deleteSq (e : EntryRef)
  | deleteCq (e : EntryRef)
  | quiesce (e : EntryRef)
  | quiesceTimeout (fn : Nat)
  | resume (e : EntryRef)
  | logStart (e : EntryRef)
  | logSnapshot (e : EntryRef)
  | logStop (e : EntryRef)
  | pin (e : EntryRef)
  | unpin (e : EntryRef)
  | interruptHoldTimeout (fn cq : Nat)
  | msixUnmask (fn vec : Nat)
  | atsInvalidate (pasid lo hi : Nat)
  | bar4Read (offset len : Nat)
  | bar4Write (offset : Nat) (data : List Byte)
  | bar4Atomicop (offset : Nat) (op : BarAtomic) (size : Nat) (a b : DWord)
  | vfEnableSet (n : Nat)
  | vfEnableClear
  | functionLevelReset (fn : Nat)
  | d3hotToD0 (fn : Nat)
  | aqEnable (fn : Nat)
  | aqDisable (fn : Nat)
  -- Compositions
  | bind (e : EntryRef)
  | rebind (e : EntryRef)
  | unbind (e : EntryRef)
  | map (e : EntryRef)
  | unmap (e : EntryRef)
  | moveRegion (e : EntryRef)
  | moveCopyDone (comp : Nat)
  | moveFinalCopyDone (comp : Nat)
  | meterRead (e : EntryRef)
  | epochCommit (comp : Nat)
  | sliceRelease (slice : Nat)
  | epochHoldTimeout (index : Nat)
  | ownershipClaim (comp handle : Nat) (src dst : Pool) (gen : Byte)
  | ownershipReply (comp handle : Nat) (pool owner : Pool) (gen : Byte)
  | ownershipQueryTimeout (comp handle : Nat)
  | meterAdd
  -- Serving loop
  | serveConfig (e : EntryRef)
  | serveStop (e : EntryRef)
  | streamOpen (e : EntryRef)
  | streamClose (e : EntryRef)
  | audio (e : EntryRef)
  | textIn (e : EntryRef)
  | outBuf (e : EntryRef)
  | load (e : EntryRef)
  | passStart (comp : Nat)
  | stageAdvance (comp : Nat) (steps : List HypStep) (speech : List SpeechOut)
  | emitNotices (comp : Nat)
  -- `pages`: by handle, the KV pages that the stream holds when the pass commits: allocated and freed by the model's code (R412, R427)
  | passCommit (comp : Nat) (pages : List (Nat × Nat))
  | passRollback (comp : Nat)
  -- Core loans and teardown
  | transferPauseTimeout (slice : Nat)
  | switchDrainDone (slice : Nat)
  | switchSaveDone (slice : Nat)
  | coreRestoreDone (slice : Nat)
  | contextRevoke (ctx : Half)
  | teardownComplete (ctx : Half)
  | teardownTimeout (ctx : Half)
  -- Power, thermal, reliability
  | governorTick (volt10mV watts : Nat) (est : List (Nat × Nat))
  | fastLimit (watts us : Nat)
  | dieTempSample (die : Nat) (temps : List (Option Nat))
  | headlandTempSample (headland : Nat) (temps : List Nat)
  | haywardSample (upsets : List Upset)
  | partitionResetStepDone (die : Nat) (r : ResetResult)
  | restartResume (comp : Nat)
  | refetchComplete (page : Nat)
  | refetchTimeout (page : Nat) (sourceFailed : Bool)
  -- Security, test and capture, set-up registers
  | fwStage (e : EntryRef)
  | fwApply (e : EntryRef)
  | fwActivate (e : EntryRef)
  | svnCommit (e : EntryRef)
  | attest (e : EntryRef)
  | debugChallenge (e : EntryRef) (random : BitVec 128)
  | debugUnlock (e : EntryRef)
  | debugLock (e : EntryRef)
  | debugUnlockExpiry
  | bist (e : EntryRef)
  | captureStart (e : EntryRef)
  | captureStop (e : EntryRef)
  | captureBufferHalf (comp : Nat)
  | replay (e : EntryRef)
  | lmarginTiming (die : Nat) (w : Word)
  | lmarginReference (die : Nat) (w : Word)
  | xmarginTiming (w : Word)
  | xmarginReference (w : Word)
  | linkMarginSweepDone (die : Option Nat) (low high : Nat)
  | grnPinCfgWrite (die : Nat) (w : Word)
  | xltPortMapNextWrite (w : Word)
  | timPtpCfgWrite (w : Word)
  -- `bar2`: a read of the function's BAR2, else of its BAR0
  | rcRegisterRead (req : Nat) (bar2 : Bool) (offset size : Nat)
  | registerWrite (req offset size : Nat) (v : DWord)
  -- Rows that stand last in the table
  | ethernetFrameDrop (port : Nat) (f : MacFrame)
  | scaleoutPortLinkUp (port : Nat)
  | ptpFollowUp (port : Nat) (h : PtpHdr) (origin : Nat)
  | ptpDelayReqTimer (port : Nat) (err : Int)
  | announceReceiptTimeout (port : Nat)
  | mctpControlMessage (code eid : Byte)
  deriving DecidableEq, Repr

end Sys2Proof
end

