-- ==== Sys2Proof/Config.lean ====
section
/-! DEFINITION. What an implementation fixes and the spec leaves open: uninterpreted constants, the free values. None has a body. -/

namespace Sys2Proof.Config

open Sys2Proof

/-- Free byte number `n` (the state's counter `fresh`): bytes the spec calls unspecified or undefined
(Table 03-7, Table 06-5, R301, R448). -/
opaque freeByte : Nat → Byte

/-- Byte at a device physical address of a stack whose contents a margining sweep has left undefined (R301), by the sweep's number. -/
opaque freeStack : Nat → Nat → Byte

/-- The delays and receiver references that training number `n` sets for a lane at a root step (R294). -/
opaque trainedSetting : Nat → Nat → Nat → Word

/-- Free word number `n`. -/
opaque freeWord : Nat → Word

/-- Free natural number: a choice among alternatives that the spec leaves open (a data-cache victim, R266). -/
opaque freeNat : Nat → Nat

/-- The value that an error-bounded floating operation of Table 05-4 (OP `op`) would return for `a`; `Float.lean` keeps it within
the table's bound and gives the special values of R153. -/
opaque approx : Nat → Word → Word

/-- Rank of a block's (or a product's) place in the order of additions that R48 leaves unspecified. -/
opaque addRank : Nat → Nat → Nat

/-- Significand bits, beyond the 24 of R47, of the adder for FP8, MXINT8 and BF16 products. -/
opaque extraBits : Nat → Nat

/-- The host I/O virtual address that a drill's composition address designates, if any: the spec lets drills reach host memory
(R110, R209, Table 07-1) and states no address form for it. -/
opaque hostAddress : DWord → Option DWord

/-- Whether a destination reads the ADDR word of a WRITE as the SLICE form of Table 06-3, where it could also be the REMOTE form: the header
of Table 12-2 does not tell them apart. -/
opaque frameIsSlice : DWord → Bool

/-- Whether a hedgerow header announces a further data flit: an AtomReq or AtomResp with more than 256 bytes of operands (R309); OP has no
encodings in Table 11-3. -/
opaque continues : BitVec 128 → Bool

/-- SHA3-512 of FIPS 202 (R513), which the spec names and does not restate. -/
opaque sha3 : List Byte → BitVec 512

/-- ML-DSA-87 of FIPS 204 (R513): public key of the pair generated from a 32-byte seed, 2,592 bytes; signature by that pair, 4,627 bytes;
verification. -/
opaque mldsaPublic : List Byte → BitVec 20736
opaque mldsaSign : List Byte → List Byte → BitVec 37016
opaque mldsaVerify : List Byte → List Byte → List Byte → Bool

/-- The steppings that an errata-table image holds an entry for (R25): its layout is not given. -/
opaque errataSteppings : List Byte → List Byte

end Sys2Proof.Config
end

