-- ==== Sys2Proof/Machine/Sparse.lean ====
section
/-! DEFINITION. Operations on sparse tables: reading with the value of an unlisted key, writing so that the form stays canonical, records by key. -/

namespace Sys2Proof.Machine

open Sys2Proof

/-- The entry listed at key `k`. -/
def find? {α : Type} : List (Nat × α) → Nat → Option α
  | [], _ => none
  | (i, a) :: m, k => if i = k then some a else find? m k

/-- The value at `k`: the listed entry, or what an unlisted key reads as. -/
def getD {α : Type} (d : α) (m : List (Nat × α)) (k : Nat) : α :=
  (find? m k).getD d

/-- The table without any entry at `k`. -/
def erase {α : Type} : List (Nat × α) → Nat → List (Nat × α)
  | [], _ => []
  | (i, a) :: m, k => if i = k then erase m k else (i, a) :: erase m k

/-- The table with `a` listed at `k`, keys strictly rising. -/
def insert {α : Type} : List (Nat × α) → Nat → α → List (Nat × α)
  | [], k, a => [(k, a)]
  | (i, b) :: m, k, a =>
    if k < i then (k, a) :: (i, b) :: m
    else if i = k then (k, a) :: m
    else (i, b) :: insert m k a

/-- Write `a` at `k` in a table whose unlisted keys read as `d`: writing `d` removes the entry. -/
def setD {α : Type} [DecidableEq α] (d : α) (m : List (Nat × α)) (k : Nat) (a : α) : List (Nat × α) :=
  if a = d then erase m k else insert m k a

/-- Keys strictly rising, all at or above `lo`. -/
def rising {α : Type} : Nat → List (Nat × α) → Bool
  | _, [] => true
  | lo, (i, _) :: m => decide (lo ≤ i) && rising (i + 1) m

/-- The canonical form of a table whose unlisted keys read as `d`. -/
def canonical {α : Type} [DecidableEq α] (d : α) (m : List (Nat × α)) : Bool :=
  rising 0 m && m.all fun e => decide (e.2 ≠ d)

/-- The keys listed. -/
def keys {α : Type} (m : List (Nat × α)) : List Nat := m.map (·.1)

/-- Apply `f` to every listed entry. -/
def mapVals {α : Type} (f : Nat → α → α) (m : List (Nat × α)) : List (Nat × α) :=
  m.map fun e => (e.1, f e.1 e.2)

/-- Memory in canonical form: unlisted bytes read as 0. -/
abbrev Memory.wf (m : Memory) : Bool := canonical (0 : Byte) m

/-- The byte at `a`. -/
def readByte (m : Memory) (a : Nat) : Byte := getD 0 m a

/-- Write the byte at `a`. -/
def writeByte (m : Memory) (a : Nat) (b : Byte) : Memory := setD 0 m a b

/-- The `n` bytes from `a` up, lowest first. -/
def readBytes (m : Memory) (a : Nat) : Nat → List Byte
  | 0 => []
  | n + 1 => readByte m a :: readBytes m (a + 1) n

/-- Write bytes from `a` up. -/
def writeBytes (m : Memory) (a : Nat) : List Byte → Memory
  | [] => m
  | b :: bs => writeBytes (writeByte m a b) (a + 1) bs

/-- Remove every byte listed in [lo, hi). -/
def clearRange (m : Memory) (lo hi : Nat) : Memory :=
  m.filter fun e => !(decide (lo ≤ e.1) && decide (e.1 < hi))

/-- Little-endian value of bytes, as a number. -/
def leNat : List Byte → Nat
  | [] => 0
  | b :: bs => b.toNat + 256 * leNat bs

/-- The `n` little-endian bytes of a number. -/
def natLe : Nat → Nat → List Byte
  | 0, _ => []
  | n + 1, v => BitVec.ofNat 8 v :: natLe n (v / 256)

/-- The little-endian 64-bit word at `a`. -/
def readDWord (m : Memory) (a : Nat) : DWord := BitVec.ofNat 64 (leNat (readBytes m a 8))

/-- The words at `a`, `a + 8`, … -/
def readDWords (m : Memory) (a : Nat) : Nat → List DWord
  | 0 => []
  | n + 1 => readDWord m a :: readDWords m (a + 8) n

/-- The bytes of 64-bit words, little-endian. -/
def dwordBytes (ws : List DWord) : List Byte := ws.flatMap fun w => natLe 8 w.toNat

/-- Bits [hi:lo] of a word as a number (R3). -/
def bits {w : Nat} (x : BitVec w) (hi lo : Nat) : Nat := (x.toNat >>> lo) % 2 ^ (hi - lo + 1)

/-- Bit `i` of a word. -/
def bit {w : Nat} (x : BitVec w) (i : Nat) : Bool := x.getLsbD i

/-- A 0/1 number from a Bool. -/
def b2n (b : Bool) : Nat := if b then 1 else 0

/-- The sector of bytes `bs`, byte 0 lowest. -/
def sectorOf (bs : List Byte) : Sector := BitVec.ofNat 2048 (leNat bs)

/-- Byte `i` of a sector. -/
def sectorByte (d : Sector) (i : Nat) : Byte := BitVec.ofNat 8 (d.toNat >>> (8 * i))

/-- The bytes `[i, i + n)` of a sector. -/
def sectorBytes (d : Sector) (i : Nat) : Nat → List Byte
  | 0 => []
  | n + 1 => sectorByte d i :: sectorBytes d (i + 1) n

/-- A sector with byte `i` replaced. -/
def setSectorByte (d : Sector) (i : Nat) (b : Byte) : Sector :=
  let m : Sector := BitVec.ofNat 2048 (255 <<< (8 * i))
  (d &&& ~~~ m) ||| BitVec.ofNat 2048 (b.toNat <<< (8 * i))

/-- A sector with bytes from `i` up replaced. -/
def setSectorBytes (d : Sector) (i : Nat) : List Byte → Sector
  | [] => d
  | b :: bs => setSectorBytes (setSectorByte d i b) (i + 1) bs

/-- The listed numbers below `n`, rising. -/
def upto (n : Nat) : List Nat := List.range n

/-- Replace the first element that satisfies `p`. -/
def replaceFirst {α : Type} (p : α → Bool) (f : α → α) : List α → List α
  | [] => []
  | a :: as => if p a then f a :: as else a :: replaceFirst p f as

/-- Remove the first element that satisfies `p`. -/
def removeFirst {α : Type} (p : α → Bool) : List α → List α
  | [] => []
  | a :: as => if p a then as else a :: removeFirst p as

/-- Insert a number into a list kept without repeats. -/
def addOnce (a : Nat) (l : List Nat) : List Nat := if l.contains a then l else l ++ [a]

end Sys2Proof.Machine
end

