-- ==== Sys2Proof/Machine/State.lean ====
section
/-! DEFINITION. The state of the panel as plain data, the reasons a step can stop, and the state after reset. -/

namespace Sys2Proof.Machine

open Sys2Proof

/-! ## Drills (R107-R141) -/

/-- Why a path does not run (R119). -/
inductive Wait where
  /-- runnable -/
  | runnable
  /-- lock-waiting on the watched 256-byte lines (R125) -/
  | lock (lines : List Nat)
  /-- sync-waiting at the path's PC (R127) -/
  | sync
  /-- blocked at a core barrier (R132) -/
  | barrier (unit : Nat)
  /-- blocked until array token `t` is complete (R91) -/
  | array (t : Word)
  /-- blocked until every own array instruction is complete: AFENCE (R91) -/
  | arrayAll
  /-- blocked until transfer token `t` is complete (R184) -/
  | transfer (t : Word)
  /-- blocked until tally counter `c` reaches `target` (R196) -/
  | tally (c : Nat) (target : Word)
  deriving DecidableEq, Repr

/-- A path: live threads sharing one PC and one wait state (R119). `since` orders the paths by when they last ran (R122). -/
structure Path where
  mask : DWord
  pc : BitVec 48
  wait : Wait
  since : Nat
  deriving DecidableEq, Repr

/-- The drill traps of Table 04-4. -/
inductive Trap where
  | illegal | registerRange | divergentCollective | barrierMismatch | syncMismatch | seedbedRange | misaligned
  | notMapped | readOnly | poisoned | software | report | breakpoint | arrayFault1 | arrayFault4 | arrayCheck
  deriving DecidableEq, Repr

/-- What the core recorded when it parked the drill (Table 04-5). -/
structure TrapRec where
  trap : Trap
  pc : BitVec 48
  faultMask : DWord
  pathMask : DWord
  instr : DWord
  detail : DWord
  deriving DecidableEq, Repr

/-- The states of Table 04-6 that a listed drill can be in (issuing and waiting are told apart by its paths). -/
inductive DrillStatus where
  | active
  | parked (r : TrapRec)
  /-- the last EXIT's PC, mask and word -/
  | draining (pc : BitVec 48) (mask word : DWord)
  deriving DecidableEq, Repr

/-- A load, LWAIT or atomic of a drill between issue and completion: its word, its active mask, the sectors (or atomic groups, by
number) whose answers are due, each thread's value as a number, and the threads that met poison with the address. An LWAIT's monitors are armed
from its issue on: the lines that they watch, and whether one of them has been written (R125). -/
structure MemWait where
  word : DWord
  active : DWord
  due : List Nat
  got : List (Nat × Nat)
  bad : List (Nat × DWord)
  watch : List Nat
  woken : Bool
  deriving DecidableEq, Repr

/-- A store or add-to-line that is not yet performed at its home: its sector (or RADD key), and the instruction: its PC and word, its threads
there and the lowest one's address (R206, R222, Table 18-6). -/
structure Unperf where
  key : Nat
  mask : DWord
  addr : DWord
  pc : BitVec 48
  word : DWord
  deriving DecidableEq, Repr

/-- One drill in its slot (R113, R115). -/
structure Drill where
  context : Half
  comp : Nat
  /-- the epoch under which the context's pass was launched (R163, R394) -/
  epoch : Byte
  /-- G1 ordering in force for this drill (R223) -/
  g1 : Bool
  tag : Half
  /-- low 32 bits of the pass served (SREG 9) -/
  pass : Word
  /-- general registers in use, 8 to 64 (Table 04-2) -/
  nregs : Nat
  /-- general registers by 64 × thread + register; unlisted reads 0 -/
  g : SMap Word
  /-- predicate registers by number, one bit per thread; unlisted reads 0 -/
  p : SMap DWord
  /-- drill-uniform registers by number; unlisted reads 0 -/
  u : SMap Word
  /-- the running path, if any -/
  cur : Option Path
  /-- every other path -/
  paths : List Path
  /-- taken backward branches left to the running path (R122) -/
  budget : Nat
  /-- instructions left in the rotation window, none outside a window (R123) -/
  window : Option Nat
  /-- stamp of the latest path change -/
  stamp : Nat
  /-- the load, atomic or LWAIT whose answers are due (R133, R147, R271) -/
  mem : Option MemWait
  /-- stores and add-to-lines not yet performed at their home (R206, R222) -/
  unperformed : List Unperf
  /-- the latest transfer token the drill took (R184) -/
  lastXfer : Option Word
  /-- the drill's failed array tokens not yet reported, oldest first: token and status (R95, R135) -/
  failed : List (Word × Nat)
  /-- the DSYNC that the drill executed last (R127, Table 04-5) -/
  dsync : DWord
  status : DrillStatus
  deriving DecidableEq, Repr

/-- A launch record: the four words of Table 04-2, and the epoch, pass and composition the reeve launched it for. -/
structure Launch where
  w0 : DWord
  w1 : DWord
  w2 : DWord
  w3 : DWord
  comp : Nat
  epoch : Byte
  pass : Word
  deriving DecidableEq, Repr

/-- A barrier unit: the drills waiting, and the context and uc of the first (R132). -/
structure Barrier where
  waiting : List DrillRef
  context : Half
  count : Nat
  deriving DecidableEq, Repr

/-- A tally counter: value, owner, frozen by teardown (R190, R193). -/
structure Tally where
  value : Word
  owner : Option Half
  frozen : Bool
  deriving DecidableEq, Repr

/-! ## The furrow array (R73-R106) -/

/-- How far the head array instruction has come (R79-R105). -/
inductive ArrayPhase where
  | queued
  /-- shadow load of tile `t` in progress or done -/
  | loading (t : Nat)
  /-- tile `t` streams; `t + 1` may load -/
  | streaming (t : Nat)
  deriving DecidableEq, Repr

/-- An array instruction between issue and completion (R93, R94): its token, drill, and descriptor as AMM read it. -/
structure ArrayInstr where
  token : Word
  drill : DrillRef
  context : Half
  comp : Nat
  desc : List DWord
  /-- the descriptor's granule was poisoned (R87) -/
  descPoisoned : Bool
  safeguard : Word
  phase : ArrayPhase
  /-- an operand read was poisoned -/
  poisonMet : Bool
  /-- FP32 accumulator entries by vector × 2048 + column (R76) -/
  acc : SMap Word
  /-- Y0 and Y1 by vector (R59) -/
  y0 : SMap Word
  y1 : SMap Word
  /-- vectors whose check is skipped for a NaN input (R60) -/
  nanVec : List Nat
  /-- the initial values read under ACC (R59) -/
  init : SMap Word
  /-- SAT, UFL and NAN events met so far (R63) -/
  sat : Nat
  ufl : Nat
  nan : Nat
  /-- weights and scales, activations and scales, ACC reads released (R100) -/
  freedW : Bool
  freedA : Bool
  freedI : Bool
  /-- position in the pass's issue order on this slice (R66) -/
  index : Nat
  /-- order in which the core's range tracker registered it (R98, R186) -/
  seq : Nat
  /-- chosen for the pass's canary: it holds its read extents until the canary ends (R66, R100) -/
  canary : Bool
  deriving DecidableEq, Repr

/-- A completed instruction of a canary pass, with the operand bytes it read: the one that R66 chooses is recomputed; `held`: the chosen one
before its recompute, which holds its read extents and the queued instructions (R67, R97, R100). -/
structure CanaryWork where
  instr : ArrayInstr
  ops : Memory
  held : Bool
  deriving DecidableEq, Repr

/-- A weight set of the array: the tile's weights, scales and outlier table as loaded (R73, R79). -/
structure WeightSet where
  token : Word
  tile : Nat
  w : List Byte
  sc : List Byte
  ol : List Byte
  deriving DecidableEq, Repr

/-! ## Transfers (R174-R197) -/

/-- How far a transfer has come. -/
inductive XferPhase where
  | waiting
  | running (engine : Nat)
  | paused
  deriving DecidableEq, Repr

/-- Whom a transfer serves: a drill, or a LOAD through the reeve's queue (R174, R413). -/
inductive XferUse where
  | drill (d : DrillRef)
  | load (e : EntryRef)
  deriving DecidableEq, Repr

/-- A transfer between submission and completion: the descriptor of Table 06-2 and its progress. -/
structure Xfer where
  token : Word
  use : XferUse
  context : Half
  comp : Nat
  epoch : Byte
  desc : List DWord
  descPoisoned : Bool
  /-- submitted with an odd granule (R176) -/
  oddDesc : Bool
  phase : XferPhase
  /-- chunks issued, chunks performed or failed, by index -/
  issued : Nat
  done : List Nat
  /-- nonzero statuses met (Table 06-5) -/
  bad : List Nat
  /-- read extent released (R186) -/
  freedR : Bool
  /-- order in which the core's range tracker registered it (R98, R186) -/
  seq : Nat
  deriving DecidableEq, Repr

/-- A completed transfer whose token is not yet reported complete: token order (R184). -/
structure XferDone where
  token : Word
  status : Nat
  deriving DecidableEq, Repr

/-! ## Data caches (R257-R267) -/

/-- The cache-side states of Table 09-3 other than I. -/
inductive CState where
  | s | m | isD | isDI | imD | smD | miA
  deriving DecidableEq, Repr

/-- A load of one thread waiting in a miss entry: `bytes` bytes at `byte` of the sector, and the address the thread gave; `late`: it came behind a
store that waits in the entry, or after an Inv, and the data then on its way is too old for it (R201-R204). `dead`: its drill waits for it no
longer, but its answer is still due (R459). -/
structure WaitLoad where
  drill : DrillRef
  context : Half
  thread : Nat
  byte : Nat
  bytes : Nat
  addr : DWord
  hint : Nat
  late : Bool
  dead : Bool
  deriving DecidableEq, Repr

/-- A store of one instruction waiting in a miss entry: (byte, value) pairs to write. -/
structure WaitStore where
  drill : DrillRef
  context : Half
  hint : Nat
  bytes : List (Nat × Byte)
  deriving DecidableEq, Repr

/-- One data-cache line: state, data, poison, the waiting operations in order, a deferred Recall's toI (R266, R267). -/
structure CLine where
  st : CState
  data : Sector
  poison : Bool
  loads : List WaitLoad
  stores : List WaitStore
  deferred : Option Bool
  lru : Nat
  deriving DecidableEq, Repr

/-! ## Cores -/

/-- How a core switch or loan stands (R445-R453). -/
inductive LoanPhase where
  | none_ | requested | draining | saving | lent | restoring
  deriving DecidableEq, Repr

/-- The saved image of a switched-out context (R450). -/
structure SavedCore where
  context : Half
  seedbed : Memory
  sbPoison : List Nat
  drills : List (Nat × Drill)
  active : Option WeightSet
  shadow : Option WeightSet
  queue : List ArrayInstr
  arrayNext : Word
  arrayDone : Word
  xferNext : Word
  xferDone : Word
  barriers : SMap Barrier
  xfers : List Xfer
  early : List XferDone
  /-- kept with it: the held launch queue, the live mark, the pass's counts of array instructions and its canary work -/
  launches : List Launch
  liveMark : Nat
  passInstrs : Nat
  passTotal : Nat
  canaries : List CanaryWork
  deriving DecidableEq, Repr

/-- One core (slice): R107, R111, R132, R166, R190. -/
structure Core where
  /-- launch queue, head first (R111) -/
  launches : List Launch
  /-- drills by 8 × engine + slot; a free slot is unlisted -/
  drills : List (Nat × Drill)
  barriers : SMap Barrier
  /-- seedbed bytes by address below 4 MiB (R166) -/
  seedbed : Memory
  /-- poisoned seedbed granules (R167) -/
  sbPoison : List Nat
  /-- highest seedbed byte written since the context took the core, plus 1 (R450) -/
  liveMark : Nat
  tallies : SMap Tally
  /-- array instructions outstanding, oldest first (R94); latest issued and completed tokens (R93) -/
  queue : List ArrayInstr
  arrayNext : Word
  arrayDone : Word
  /-- array instructions issued in the pass (R66) -/
  passInstrs : Nat
  /-- how many the slice issues in the whole pass: a free value drawn at the pass's start, before the machine has shown it (log 12) -/
  passTotal : Nat
  canaries : List CanaryWork
  /-- the array's active and shadow weight sets (R73, R80) -/
  active : Option WeightSet
  shadow : Option WeightSet
  /-- transfers outstanding in token order; latest issued and completed tokens; finished out of order (R184) -/
  xfers : List Xfer
  xferNext : Word
  xferDone : Word
  early : List XferDone
  /-- extents registered with the range tracker so far (R98, R186) -/
  seq : Nat
  /-- the data cache, by sector number (R266) -/
  cache : List (Nat × CLine)
  /-- clean host-memory lines, by host line number (R209) -/
  hostLines : List (Nat × Sector)
  lru : Nat
  /-- loan and switch (R445-R453): borrower, phase, request time, saved image -/
  loan : LoanPhase
  borrower : Option Nat
  loanAt : Nat
  saved : Option SavedCore
  /-- power domain on (R474) -/
  domainOn : Bool
  /-- zeroed since start-up, re-admission or test cycle, and held by none since; tenant that held it last (R386) -/
  lastTenant : Option Nat
  /-- amounts not yet added (R406), by 16 × composition + index: 0 ns bound, 1-10 of Table 14-6, 11-14 the ns of words 2-5 of a TYPE 1
  record (Table 14-7); the device time up to which they are counted -/
  meters : SMap Nat
  boundAt : Nat
  deriving DecidableEq, Repr

/-! ## Homes, granary, stack (R224-R304) -/

/-- A directory entry (Table 09-1). -/
inductive Dir where
  | un
  /-- exact pointers, at most four slices -/
  | sh (slices : List Nat)
  /-- coarse: one bit per logical die -/
  | coarse (dies : BitVec 24)
  | ex (owner : Nat)
  deriving DecidableEq, Repr

/-- A granary sector (R224, R262); `pins`: the compositions that pin it (R241). -/
structure GSec where
  data : Sector
  dirty : Bool
  poison : Bool
  pins : List Nat
  dir : Dir
  deriving DecidableEq, Repr

/-- A line's class (R233); P is read off its pinned sectors. -/
inductive GClass where
  | e | n | k
  deriving DecidableEq, Repr

/-- A line of the granary: its class, recency, the slice whose way it takes, when each composition's pin was made, its valid sectors 0-3 (R224,
R229). A leased line's sectors stand in `Die.leases` (R250). -/
structure GLine where
  cls : GClass
  lru : Nat
  way : Nat
  pinAt : SMap Nat
  secs : List (Nat × GSec)
  deriving DecidableEq, Repr

/-- Who waits at a home for an access that is whole in one step: a drill's load, store or atomic that its cache does not serve; chunk of a transfer;
the BAR4 access in front; a PIN; the reeve for a page; a frame of another panel (R257, R265). -/
inductive Waiter where
  | drill (d : DrillRef)
  | chunk (q : XQueue) (token : Word) (i : Nat)
  | bar4
  | pin (e : EntryRef)
  | page (n : Nat)
  | frame (conn : Nat) (read : Bool) (seq : BitVec 24)
  /-- a reeve, which takes no place: it asks again -/
  | reeve
  deriving DecidableEq, Repr

/-- A request at a home (Table 09-4 rows). -/
inductive HomeReq where
  | getS (x hint : Nat)
  | getM (x hint : Nat) (have_ : Bool)
  | putM (x : Nat) (data : Sector) (poison : Bool)
  | atom (x : Nat) (g : AtomGroup)
  | radd (x : Nat) (g : AtomGroup)
  | read (src : NcAgent) (uncached : Bool) (hint : Nat) (ro : Bool)
  /-- PREF of a core: a read whose data goes nowhere; `debug`: its discard poisons (Table 08-1, R239) -/
  | pref (x hint : Nat) (uncached debug : Bool)
  | write (src : NcAgent) (kind : NcWriteKind) (uncached : Bool) (hint first len : Nat) (data : Sector) (poison : Bool)
  | victim
  /-- the place of a waiter in the arrival order -/
  | ticket (w : Waiter)
  /-- a request from a core whose partition resets: it ends without an answer (R274) -/
  | dropped
  deriving DecidableEq, Repr

/-- A transaction in progress on a sector (R259, R268): what it still awaits. -/
structure Trans where
  req : HomeReq
  /-- cores whose InvAck is due -/
  acks : List Nat
  /-- owner whose data is due, and the Recall's toI -/
  owner : Option (Nat × Bool)
  fill : Bool
  memOp : Bool
  /-- the owner answered by PutM (R269) -/
  byPutM : Bool
  deriving DecidableEq, Repr

/-- A leased sector of another panel's memory (R250-R254), kept by composition address sector. -/
structure Lease where
  comp : Nat
  epoch : Byte
  slice : Nat
  data : Sector
  poison : Bool
  t0 : Nat
  t1 : Nat
  /-- fetch pending, and the loads waiting for it (R252) -/
  pending : Bool
  loads : List WaitLoad
  /-- the lease has ended while its fetch was pending: the data serves the waiting loads only (R253) -/
  ended : Bool
  deriving DecidableEq, Repr

/-- A page under refetch (R486): the composition that owns its region, when it began, and the LOADs to the page that the reeve had received
before it, by die and token (R490). -/
structure Refetch where
  comp : Nat
  began : Nat
  after : List (Nat × Word)
  deriving DecidableEq, Repr

/-- STATE of RLY_PART_STATE (Table 18-10). -/
inductive PartState where
  | inService | resetting | outOfService
  deriving DecidableEq, Repr

/-- A partition's reset or test cycle under way (R498, R536). -/
structure ResetRun where
  step : Nat
  code : Code
  /-- a BIST test cycle: FULL, DRAM -/
  bist : Option (Bool × Bool)
  /-- FW_APPLY: load the pending image (R523) -/
  update : Bool
  deriving DecidableEq, Repr

/-- A fault record as the core writes it (Table 04-5). -/
structure FaultRec where
  w : List DWord
  slice : Nat
  deriving DecidableEq, Repr

/-- Hedgerow port state (Table 11-5) and link layer (R310-R313). -/
inductive PortSt where
  | off | training | active | down
  deriving DecidableEq, Repr

/-- A message in a switch: the port it came by (4: none, the node's own), the SEQ of its first flit, and the buffer credits that its flits hold
and that leave with it: a VC, or 8 for the shared pool (R313). -/
structure Held where
  port : Nat
  seq : BitVec 12
  credits : List Nat
  msg : HdgMsg
  deriving DecidableEq, Repr

/-- A message in the reroute buffer: the port whose next hop was not active, and whether a new table has given it a route (R320). -/
structure Rerouted where
  port : Nat
  msg : HdgMsg
  ready : Bool
  deriving DecidableEq, Repr

/-- A flit kept in the replay buffer until acknowledged (R311): the link-header fields it was sent with (Table 11-2), the lane group it was placed
on (R310), and whether it is the further data flit of its message (R309). -/
structure SentFlit where
  seq : BitVec 12
  ack : BitVec 12
  cvc : Nat
  ccnt : Nat
  group : Nat
  cont : Bool
  msg : HdgMsg
  deriving DecidableEq, Repr

/-- An idle flit, or a link-management flit that NAKs a SEQ, as a port has sent it (an output): it has no SEQ and is never replayed (R310, R311). -/
structure LinkFlit where
  group : Nat
  nak : Option (BitVec 12)
  ack : BitVec 12
  cvc : Nat
  ccnt : Nat
  deriving DecidableEq, Repr

/-- One hedgerow port. -/
structure HPort where
  st : PortSt
  fails : Nat
  agreed : Byte
  localMask : Byte
  /-- the agreement in progress: OFFER sent and received, CONFIRM sent and received -/
  offerOut : Option Byte
  offerIn : Option Byte
  confirmOut : Option Byte
  confirmIn : Option Byte
  /-- bypass groups that passed (R316) -/
  bypassUp : Byte
  txSeq : BitVec 12
  rxSeq : BitVec 12
  /-- a gap is open and has been NAKed: later flits are dropped (R311) -/
  gap : Bool
  /-- flits accepted since the port last sent an ACKSEQ (R310) -/
  ackDue : Bool
  /-- the lane group whose turn is next (R310) -/
  nextGroup : Nat
  /-- NAKs in a row for one SEQ (R312) -/
  nakSeq : BitVec 12
  nakRun : Nat
  replay : List SentFlit
  /-- idle and link-management flits sent -/
  linkOut : List LinkFlit
  /-- unacknowledged messages of a port that left the active state, for which the reroute buffer has no room yet (R320) -/
  left : List HdgMsg
  /-- credits held for sending, and credits to return, by VC 0-7 and 8 for the shared pool (R313) -/
  credits : SMap Nat
  owed : SMap Nat
  /-- replays in the current 1 s window, and its threshold (R322) -/
  winReplays : Nat
  thr : Nat
  deriving DecidableEq, Repr

/-- A route-table entry (R317, Table 11-5); `port`: the column a headland sends on (R319). -/
structure Route where
  hops : Nat
  mrow : Nat
  mcol : Nat
  port : Nat
  deriving DecidableEq, Repr

/-- The switch of a die, or a headland: messages waiting, the reroute buffer (R320), messages delivered to its units, the route table by
destination. -/
structure Switch where
  inbox : List Held
  reroute : List Rerouted
  delivered : List HdgMsg
  routes : List (Nat × Route)
  deriving DecidableEq, Repr

/-- A stack margining sweep or link sweep (R301, R539): running, done, error, results. -/
structure Sweep where
  steps : Nat
  done : Bool
  busy : Bool
  err : Bool
  low : Nat
  high : Nat
  lane : Nat
  deriving DecidableEq, Repr

/-- One compute die by logical number. -/
structure Die where
  /-- granary lines by DPA line number (R224) -/
  gran : List (Nat × GLine)
  lru : Nat
  /-- transactions by sector, and each segment's pending requests in arrival order (R259) -/
  trans : List (Nat × Trans)
  pend : List (Nat × HomeReq)
  /-- transactions completed, by segment (Table 18-4) -/
  segDone : SMap Nat
  /-- sweep running for a reset die (R274) -/
  sweep : List Nat
  leases : List (Nat × Lease)
  /-- accesses and misses of unpinned sectors in the 1 ms window; condition held in the last window (R245) -/
  accesses : Nat
  misses : Nat
  thrashing : Bool
  /-- transfer engines 0-15: the queue each works for (R174); next queue in rotation -/
  engines : SMap (Option Nat)
  rotation : Nat
  /-- the reeve queue's transfers and tokens -/
  reeveXfers : List Xfer
  reeveNext : Word
  reeveDone : Word
  reeveEarly : List XferDone
  /-- fault records delivered, and records of drills that parked while the queue was full (R136) -/
  faults : List FaultRec
  faultWait : List FaultRec
  ports : SMap HPort
  sw : Switch
  /-- refetches by 4 KiB DPA page number (R486) -/
  refetch : List (Nat × Refetch)
  part : PartState
  run : Option ResetRun
  rgen : BitVec 4
  resets : Nat
  /-- device times of resets that count under R499, and of test cycles (R538) -/
  resetTimes : List Nat
  testTimes : List Nat
  partCode : Code
  updating : Bool
  /-- the compute-die image it runs: digest and version (R523, R524) -/
  image : BitVec 512
  imageVer : Half
  /-- clock and thermal: step in force, governor step, ceiling, DUTY, ticks below 97 °C, logic sensors reported (R466-R473) -/
  step : Nat
  gov : Nat
  ceil : Nat
  duty : Nat
  coolTicks : Nat
  td : Nat
  hot : Bool
  sensorBad : List Nat
  est : Nat
  /-- stack: Ts, refresh rate row 0-2, samples below the row's bound, throttle reported, self-refresh, ECC window (R290-R298) -/
  ts : Nat
  rate : Nat
  coolSamples : Nat
  throttle : Bool
  stackOff : Bool
  eccWin : Nat
  eccReported : Bool
  /-- refresh rows: last rate applied by pseudo-channel × 48 + bank; refreshes issued (R292) -/
  bankRate : SMap Nat
  /-- threshold in force for this 1 s window; scrub period in force for this pass; next codeword (R300, Table 10-8) -/
  eccThr : Nat
  scrubPer : Nat
  scrubNext : Nat
  spares : Word
  /-- what training stored for every lane at every root step: the number of the free values (R294) -/
  trained : Option Nat
  margin : Sweep
  /-- the stack's contents are undefined since a margining sweep (R301): the sweep's number, and the sectors written since -/
  undef : Option (Nat × List Nat)
  lmargin : Sweep
  lmarginLane : Option (Nat × Nat)
  /-- BIST results (Table 20-6) -/
  bistStatus : Word
  sramFailReg : Word
  dramFailReg : Word
  sigs : SMap DWord
  cohErr : Code
  /-- five attempts on a channel have failed: the partition is about to reset (R295) -/
  ifFault : Bool
  /-- FC cycles in tenths since partition reset (R163, R469) -/
  fcTenths : Nat
  /-- its position -/
  pos : Nat
  deriving DecidableEq, Repr

/-! ## Compositions (R379-R408) -/

/-- A region (Table 14-3). -/
structure Region where
  vbase : Nat
  size : Nat
  shared : Bool
  set : Nat
  ro : Bool
  uncached : Bool
  code : Bool
  shareable : Bool
  offset : Nat
  srcComp : Nat
  srcVbase : Nat
  golden : Nat
  replica : Nat
  deriving DecidableEq, Repr

/-- One epoch's map: slices, sets 0-7 (global channels in member order), regions, safeguard, ordering (R380, R392). -/
structure EpochMap where
  epoch : Byte
  slices : List Nat
  sets : List (Nat × List Nat)
  regions : List Region
  safeguard : Word
  g1 : Bool
  discardPoison : Bool
  prio : Nat
  deriving DecidableEq, Repr

/-- MOVE_REGION's phases (R400). -/
inductive MovePhase where
  | copying | switching | final
  deriving DecidableEq, Repr

/-- A region move under way (R399, R400). -/
structure Move where
  entry : EntryRef
  vbase : Nat
  set : Nat
  offset : Nat
  phase : MovePhase
  /-- marked sectors, by sector offset within the region -/
  marks : List Nat
  deriving DecidableEq, Repr

/-- A command that waits to change the epoch: the new map and the entry to complete (R392). -/
structure EpochChange where
  entry : Option EntryRef
  map : EpochMap
  rebind : Bool
  deriving DecidableEq, Repr

/-- A frame of a stream's buffer: capture time, silence, whether text, bytes (R419-R422). -/
structure Frame where
  time : Nat
  silence : Bool
  restart : Bool
  bytes : List Byte
  deriving DecidableEq, Repr

/-- An AUDIO or TEXT_IN command fetched and not yet gathered. -/
structure PendFrame where
  entry : EntryRef
  tag : Word
  handle : Word
  time : Nat
  bytes : List Byte
  text : Bool
  /-- gathered by the pass in progress: completes at its COMMIT -/
  gathered : Bool
  deriving DecidableEq, Repr

/-- A beam hypothesis: index, score, uncommitted tokens oldest first, tokens in all (R424, R425). -/
structure Hyp where
  index : Nat
  score : Int
  tail : List (List Byte)
  toks : Nat
  deriving DecidableEq, Repr

/-- An output buffer (R430). -/
structure OutBuf where
  entry : EntryRef
  addr : DWord
  len : Nat
  filled : Nat
  /-- nothing more fits (R431) -/
  full : Bool
  deriving DecidableEq, Repr

/-- A target slot of a stream: live hypotheses, committed text of the pass, waiting output, buffers by kind (R430-R432). -/
structure TSlot where
  hyps : List Hyp
  /-- tokens committed in the pass, not yet emitted -/
  fresh : List Byte
  waitText : List Byte
  waitSpeech : List Byte
  textBufs : List OutBuf
  speechBufs : List OutBuf
  dropText : Bool
  dropSpeech : Bool
  deriving DecidableEq, Repr

/-- The committed part of a stream that ROLLBACK restores (R417). -/
structure StreamState where
  frames : List Frame
  slots : List (Nat × TSlot)
  pages : Nat
  deriving DecidableEq, Repr

/-- An open stream (R409): what STREAM_OPEN gave it, its pool's die, committed and working versions. -/
structure Stream where
  handle : Word
  openEntry : EntryRef
  order : Nat
  rate : Nat
  format : Nat
  beam : Nat
  sprio : Nat
  source : Nat
  textOut : Bool
  speechOut : Bool
  outRate : Bool
  targets : BitVec 24
  admitted : Bool
  deferrals : Nat
  closing : Option EntryRef
  lastPass : Bool
  pool : Nat
  /-- number of the free value that is the state record's composition address: the spec does not place the record (R412) -/
  record : Nat
  /-- pages reserved for it in the pass (R427) -/
  reserved : Nat
  /-- capture time expected next (R421), newest frame's end (Table 15-7 LAG) -/
  expect : Option Nat
  newest : Nat
  /-- frames buffered and output state: committed and written version (R417) -/
  kept : StreamState
  work : StreamState
  /-- the state record met poison: reinitialise (R484) -/
  restart : Bool
  deriving DecidableEq, Repr

/-- An entry of a stage's work list (R412): handle, target slot, hypothesis index, number of the state record's address. -/
structure WorkItem where
  handle : Word
  slot : Nat
  hyp : Nat
  record : Nat
  deriving DecidableEq, Repr

/-- A notice that the pass's EMIT is to write (Table 15-7): stream, slot, SUB, DROP, END, and the end of the newest frame it depends on. -/
structure Notice where
  handle : Word
  slot : Nat
  sub : Nat
  drop : Bool
  fin : Nat
  newest : Nat
  deriving DecidableEq, Repr

/-- Table 15-4. -/
inductive ServeState where
  | stopped | wait | gather | reserve | encode | decode | vocode | emit | commit | rollback | failed
  deriving DecidableEq, Repr

/-- A composition's serving loop (R409-R439). -/
structure Serve where
  st : ServeState
  /-- FEAT 0, ENC 1, DEC 2, VOC 3 launched (R412) -/
  stage : Nat
  s0 : Nat
  ktab : Nat
  kvbase : Nat
  kvsize : Nat
  pframes : Nat
  lookahead : Nat
  grace : Nat
  deferMax : Nat
  commitLag : Nat
  report : Nat
  recBytes : Nat
  encPages : Nat
  maxTok : Nat
  stopEntry : Option EntryRef
  pass : Nat
  streams : List Stream
  /-- fetched commands waiting for their pass -/
  pendFrames : List PendFrame
  /-- free pages by logical die; reserved pages by logical die (R426, R427) -/
  free : SMap Nat
  reserved : SMap Nat
  /-- failures of this pass (R417), rerun flag for REPLAY (R434) -/
  failures : Nat
  failedNow : Bool
  /-- the run met poison in the KV page region: it runs again, and the failure does not count (R484) -/
  excused : Bool
  /-- pages of streams ended in the pass, by logical die: free at its COMMIT (R427) -/
  returning : SMap Nat
  rerun : Bool
  /-- pass flags CHK and POISON (R433) -/
  chk : Bool
  poison : Bool
  /-- the pass's canary report has been delivered (R66) -/
  canaryDone : Bool
  /-- in a run of overruns (R415); pass p-1 overran -/
  overrun : Bool
  /-- entries into GATHER and COMMIT (Table 15-8), refused frames, joins admitted and deferred, hypotheses stepped -/
  gatherAt : Nat
  refused : Nat
  admitted : Nat
  deferred : Nat
  stepped : Nat
  /-- streams ended in the pass, and the eight bytes of each live hypothesis for its TYPE 5 record (Table 20-5) -/
  ended : Nat
  hypWords : List DWord
  /-- the pass's output was dropped: reported (R432); its notices -/
  dropped : Bool
  notices : List Notice
  /-- the stage's work list by slice (R412, R448) -/
  lists : List (Nat × List WorkItem)
  /-- the pass requested loans at its GATHER (R446) -/
  asking : Bool
  /-- counter deltas summed until the next report (R437): SAT UFL NAN CHK CHKSKIP -/
  deltas : List Nat
  /-- the restart of R507 is in progress -/
  restarting : Bool
  nextOrder : Nat
  deriving DecidableEq, Repr

/-- A yoke table entry (R380): the bind fields, maps of the two live epochs, drain counters by slice, contexts, serving loop. -/
structure Comp where
  fn : Nat
  tenant : Nat
  eventCq : Nat
  /-- the PASID where PV is 1; the PASID field as bound (R383) -/
  pasid : Option Nat
  pasidField : Nat
  acct : Bool
  span : Bool
  auth : BitVec 12
  cur : EpochMap
  prev : Option EpochMap
  context : Half
  change : Option EpochChange
  /-- a committed command that completes once the previous epoch has drained, and whether it is REBIND (R392, R396) -/
  settling : Option (EntryRef × Bool)
  move : Option Move
  /-- pins that follow a moved region: composition, old sector, new sector (R400) -/
  pinMoves : List (Nat × Nat × Nat)
  /-- UNBIND or a function reset under way; the entry to complete -/
  unbinding : Bool
  unbindEntry : Option EntryRef
  serve : Serve
  /-- panels a frame has been exchanged with since BIND (R508) -/
  peers : List Nat
  /-- slices leaving (R396) -/
  leaving : List Nat
  /-- reset dies whose read-only pages the restart has not refilled (R504, R507) -/
  lost : List Nat
  /-- record of R407 TYPE 1: words 2-5 -/
  record : SMap Nat
  deriving DecidableEq, Repr

/-- A Neley capture of one composition (R541-R543). -/
structure Capture where
  fn : Nat
  dest : DWord
  pasid : Option Nat
  size : Nat
  wrap : Bool
  payload : Bool
  /-- recording since the first boundary; entry to complete there -/
  active : Bool
  entry : Option EntryRef
  buffer : List (List Byte)
  written : Nat
  /-- ring offset of the next record, of the oldest record; wrapped -/
  tail : Nat
  oldest : Nat
  wrapped : Bool
  seq : Word
  lost : Nat
  lostNow : Nat
  snapAge : Nat
  deriving DecidableEq, Repr

/-- A REPLAY in progress (R545): its entry, the records still to come, the SEQ of the first that differed (R546). -/
structure ReplayRun where
  entry : EntryRef
  records : List (List Byte)
  diverged : Option Word
  deriving DecidableEq, Repr

/-- An ownership entry (Table 14-4). -/
structure Owner where
  comp : Nat
  pool : Pool
  gen : Byte
  time : Nat
  deriving DecidableEq, Repr

/-- A pool's copy of a stream record (R403). -/
inductive CopySt where
  | given | pending | owned
  deriving DecidableEq, Repr

/-- A TLT frame kept on the panel: the port it came by, its composition, since when (R397). -/
structure HeldFrame where
  port : Nat
  frame : TltFrame
  comp : Nat
  since : Nat
  deriving DecidableEq, Repr

/-- A context being torn down (R456-R459). -/
structure Teardown where
  comp : Nat
  tr : Nat
  revoked : Bool
  /-- what follows: unbind, restart, quiesce limit, function reset -/
  unbind : Bool
  restart : Bool
  deriving DecidableEq, Repr

/-! ## Scale-out (R324-R343) -/

/-- What a sent frame is for: a transfer's chunks from `chunk` up, a lease fetch of a die, or a notice. -/
inductive SentUse where
  | xfer (q : XQueue) (token : Word) (chunk : Nat)
  | lease (die key : Nat)
  deriving DecidableEq, Repr

/-- A sent WRITE or READ_REQ frame not yet acknowledged; `rto` in µs and `retries`: XLT_RETX_CFG when it was last sent (R353). -/
structure SentFrame where
  seq : BitVec 24
  frame : TltFrame
  sentAt : Nat
  tries : Nat
  rto : Nat
  retries : Nat
  port : Nat
  use : SentUse
  deriving DecidableEq, Repr

/-- The connection of one headland and one peer (R332-R336): both directions. -/
structure Conn where
  txNext : BitVec 24
  txGen : BitVec 4
  window : List SentFrame
  reads : List SentFrame
  readTag : BitVec 24
  rxGen : BitVec 4
  /-- every SEQ below is acknowledged; outcomes in the window; frames performed and not yet acknowledged -/
  rxBase : BitVec 24
  rxSeen : List (Nat × Nat)
  ackDue : Bool
  peerPorts : Half
  nextPort : Nat
  deriving DecidableEq, Repr

/-- An Ethernet frame the panel has sent (an output), its header with it: TLT data, discovery, or a PTP Delay_Req with its timestamp. -/
inductive SentEth where
  | tlt (port : Nat) (f : TltFrame)
  | disc (port : Nat) (type : Nat) (d : Discovery)
  | delayReq (port : Nat) (h : PtpHdr) (tx : Nat)
  deriving DecidableEq, Repr

/-! ## Host interface (R354-R378) -/

/-- A submission queue. -/
structure Sq where
  base : DWord
  size : Nat
  pasid : Option Nat
  cq : Nat
  head : Nat
  tail : Nat
  /-- SQHEAD of the latest completion written -/
  told : Nat
  stopped : Bool
  deleting : Option EntryRef
  deriving DecidableEq, Repr

/-- A completion entry's four words and its record (Table 13-7). -/
structure Cqe where
  w0 : DWord
  w1 : DWord
  w2 : DWord
  w3 : DWord
  record : Option (List DWord)
  /-- the composition it concerns, for its capture (R542) -/
  comp : Option Nat
  deriving DecidableEq, Repr

/-- A completion queue. -/
structure Cq where
  base : DWord
  recBase : DWord
  size : Nat
  pasid : Option Nat
  vector : Nat
  aggr : Nat
  hold : Nat
  head : Nat
  tail : Nat
  phase : Bool
  stopped : Bool
  /-- KIND 0 entries reserved for fetched commands (R364) -/
  reserved : Nat
  /-- entries buffered on the panel while the ring is full, oldest first -/
  buffer : List Cqe
  /-- entries dropped since the last LOST; reported -/
  lost : Bool
  /-- unsignalled entries and the device time of the oldest (R365) -/
  unsignalled : Nat
  oldestAt : Nat
  deriving DecidableEq, Repr

/-- How far a PIN has come: the next sector of its range, sectors pinned and demoted (R241, R242). -/
structure PinRun where
  next : Nat
  pinned : Nat
  demoted : Nat
  deriving DecidableEq, Repr

/-- A fetched entry not yet complete: its words, the CQ it completes on, when it was fetched; entries of a function stand in fetch order. -/
structure Entry where
  ref : EntryRef
  w : List DWord
  cq : Nat
  at_ : Nat
  started : Bool
  pins : PinRun := ⟨0, 0, 0⟩
  /-- its place in the panel's order of fetches (R381) -/
  seq : Nat := 0
  deriving DecidableEq, Repr

/-- Dirty-page logging of a function (R371, R372). -/
structure DirtyLog where
  lo : Nat
  hi : Nat
  pasid : Option Nat
  pages : List Nat
  outside : Bool
  deriving DecidableEq, Repr

/-- One function: PF 0, VF 1-24. -/
structure Fn where
  sqs : List (Nat × Sq)
  cqs : List (Nat × Cq)
  entries : List Entry
  nextOrder : Nat
  log : Option DirtyLog
  quiesced : Bool
  quiescing : Option EntryRef
  /-- QUIESCE's 100 ms have passed and compositions are being torn down: it will end with status 0x07 (R374) -/
  quiesceLate : Bool
  aqEn : Bool
  aqErr : Bool
  aqRemoving : Bool
  /-- power state D3hot (Table 13-1); resetting (configuration answered with CRS, R375) -/
  d3hot : Bool
  resetting : Bool
  /-- MSI-X vectors pending while masked; the mask bits are in the MSI-X table (RegFile) -/
  pendingVec : List Nat
  deriving DecidableEq, Repr

/-- What the panel sends to the outside that no memory holds (outputs). -/
inductive Out where
  | msix (fn vec : Nat)
  | drs
  | config (fn : Nat) (crs : Bool)
  | bar4 (data : List Byte) (poisoned : Bool)
  | bar4UR
  | bar4CA
  | readVal (v : DWord)
  | unsupported
  | atsDone (pasid lo hi : Nat)
  | mctp (words : List DWord) (code : Byte)
  | ncData (src : NcAgent) (sector : Nat) (data : Sector) (poison : Bool)
  | ncDone (src : NcAgent) (sector : Nat) (status : Nat)
  deriving DecidableEq, Repr

/-- A coherence message under way (Table 09-2): to the home or to a cache. -/
inductive CohMsg where
  | getS (hint : Nat) | getM (hint : Nat) (have_ : Bool) | putM (data : Sector) (poison : Bool) | atomReq (g : AtomGroup) | raddReq (g : AtomGroup)
  | inv | recall (toI : Bool) | invAck | recallData (data : Sector) (poison : Bool)
  | dataS (data : Sector) (poison : Bool) | dataM (data : Sector) (poison : Bool) | grantM | wbAck
  | atomResp (g : AtomGroup) (olds : List DWord) (poison : Bool) | raddAck (g : AtomGroup) (poison : Bool)
  deriving DecidableEq, Repr

/-- A coherence message with its sector and cache. -/
structure NetMsg where
  sector : Nat
  cache : Nat
  msg : CohMsg
  deriving DecidableEq, Repr

/-! ## Module (R461-R476, R513-R534, R561-R581) -/

/-- The converters and power-good (R569-R571). -/
inductive Conv where
  | off | starting | on | blocked
  deriving DecidableEq, Repr

/-- What manufacture and flash hold, kept across power-off (R464, R514, R515). -/
structure NonVol where
  /-- fused state of each position, as headland A's copy has it (R20) -/
  fuses : SMap (BitVec 2)
  hlaClass : Byte
  hlaStep : Byte
  hlbClass : Byte
  hlbStep : Byte
  serial : DWord
  mac : BitVec 48
  rootDig : BitVec 512
  uds : BitVec 256
  fwRevoke : Half
  dbgRevoke : Half
  hlSvnMin : Nat
  cdSvnMin : Nat
  debugDisable : Bool
  rootKey : Memory
  idCert : Memory
  bank0 : Memory
  bank1 : Memory
  activeBank : Bool
  portMap : Word
  lastShutdown : Code
  deriving DecidableEq, Repr

/-- The bundle as booted or staged: manifest digest, versions (Table 19-2). -/
structure Bundle where
  dm : BitVec 512
  hlSvn : Nat
  cdSvn : Nat
  iface : Half
  hlaVersion : Half
  cdVersion : Half
  cdDigest : BitVec 512
  steppings : List Byte
  deriving DecidableEq, Repr

/-- STATE of TIM_STATE. -/
inductive TimState where
  | free | acquiring | locked | holdover
  deriving DecidableEq, Repr

/-- The device time counter and its clock (R344-R349). -/
structure Time where
  running : Bool
  now : Nat
  st : TimState
  port : Option Nat
  offset : Int
  /-- an offset still to be slewed, in ten-thousandths of a ns; a backward offset being removed at half rate; the half tick -/
  slew : Int
  back : Nat
  half : Bool
  /-- Sync messages in a row below 50 ns; a two-step Sync waiting for its Follow_Up: port, receive time -/
  good : Nat
  pendSync : Option (Nat × Nat)
  /-- Delay_Req send time, path delay -/
  reqAt : Option Nat
  delay : Nat
  /-- receive time less origin of the latest Sync -/
  ms : Int
  /-- the disciplined rate's deviation from the reference clock in ppb; billionths of a ns not yet counted (R347, R349) -/
  rate : Int
  acc : Int
  /-- device time of the latest Sync and the interval that it announced, in ns (R349) -/
  syncAt : Nat
  syncEvery : Option Nat
  /-- best master announced and its rank by port -/
  masters : List (Nat × (DWord × Nat))
  /-- holdover begun at; reported -/
  heldAt : Nat
  heldReported : Bool
  deriving DecidableEq, Repr

/-- The root of trust's running state (R517, R522-R533). -/
structure Sec where
  booted : Option Bundle
  bootBank : Bool
  pending : Option Bundle
  /-- the bank that holds the pending bundle (R522) -/
  pendBank : Bool
  /-- FW_APPLY in progress: its entry and dies -/
  applying : Option (EntryRef × List Nat)
  challenge : Option (BitVec 128 × Nat)
  scope : Half
  lastScope : Half
  expiry : Nat
  debugNow : Bool
  debugSince : Bool
  code : Code
  udsLocked : Bool
  /-- identity and attestation public keys derived at start-up (R517) -/
  idKey : List Byte
  attKey : List Byte
  attCertSig : List Byte
  panelId : BitVec 256
  deriving DecidableEq, Repr

/-- One error-log entry (R481). -/
structure LogEntry where
  code : Code
  time : Nat
  deriving DecidableEq, Repr

/-- The hayward's memory between samples (R491-R494), by node key: samples without progress; what showed its progress at the latest
sample; samples in a row in a wait-for cycle without progress. -/
structure Hayward where
  still : List (Nat × Nat)
  seen : List (Nat × List Nat)
  cyc : List (Nat × Nat)
  /-- by composition, the device time until which its nodes are ignored: 50 ms after a reset or refetch ended (R494) -/
  grace : List (Nat × Nat)
  /-- millisecond of the latest sample (R491) -/
  last : Nat
  deriving DecidableEq, Repr

/-- The module's pins, converters and management endpoint (R561-R576). -/
structure Module where
  conv : Conv
  enable : Bool
  /-- the 52 V input in mV (R462) -/
  inputMv : Nat
  pwrgd : Bool
  /-- SHDN_ALERT# released high (R572) -/
  shdnHigh : Bool
  /-- PERST# asserted -/
  perst : Bool
  /-- straps sampled at power-good (R562): SMBus (1) or I3C (0), MGMT_ADDR -/
  mgmtMode : Bool
  mgmtAddr : BitVec 2
  dynAddr : Option (BitVec 7)
  eid : Byte
  /-- MGMT_ALERT# low (R576): severe log entries not yet read -/
  alerts : List Nat
  /-- host link up (R376), and the partner it trains with -/
  linkUp : Bool
  partner : LinkPartner
  /-- configuration requests are answered with CRS (R33, R34) -/
  crs : Bool
  /-- the port-map record that a write replaced, and when: the new one is in flash within 100 ms (R559) -/
  mapOld : Option (Word × Nat)
  deriving DecidableEq, Repr

/-- Start-up and what it decided (R13-R40, R583, R584). -/
structure Startup where
  /-- the step in progress, 1-12; 0 before power-good -/
  step : Nat
  done : Bool
  failed : Bool
  /-- first severity-0xE code of this start-up (GLB_STARTUP_CODE) -/
  code : Code
  /-- die records by position (Table 01-2) -/
  recs : SMap DWord
  /-- next position on the enumeration chain (R20) -/
  chain : Nat
  /-- spare connections that stack training used, by position (R295) -/
  spares : SMap Word
  fallow : BitVec 28
  /-- compute feature level (R26) -/
  level : Byte
  /-- lane roles by 4 × position + port, and by 112 + 4 × headland + column (R28) -/
  roles : SMap Half
  /-- port map in force (R325) -/
  portMap : Word
  deriving DecidableEq, Repr

/-- Stored BAR0 registers (R549): RW values, RC counters and latest-value RO registers by offset; the halves of R553 by requester. -/
structure RegFile where
  vals : SMap DWord
  heldLow : List (Nat × (Nat × Word))
  latched : List (Nat × (Nat × Word))
  deriving DecidableEq, Repr

/-- Device memory behind the granaries, and host memory as the panel reaches it. -/
structure Mem where
  /-- DRAM bytes by DPA (R282) -/
  dram : Memory
  /-- sectors whose codewords carry POISON (R297) -/
  poison : List Nat
  /-- codewords with an error that no read has met, four to a sector: correctable or not (R298) -/
  errs : List (Nat × Bool)
  /-- by global channel, the attempts in a row that will fail in parity (R295) -/
  parity : SMap Nat
  /-- host bytes by (PASID + 1) × 2^64 + IOVA, PASID 0 space for requests without one (R366) -/
  host : Memory
  /-- host ranges [lo, hi) of such keys that translation refuses (R367) -/
  denied : List (Nat × Nat)
  deriving DecidableEq, Repr

/-- The yoke controller on headland A (R379-R408, R440-R461). -/
structure Yoke where
  comps : List (Nat × Comp)
  /-- ownership table by comp × 2^32 + handle (R402), the pools' copies by (key × 2^17 + panel × 2^5 + die) (R403) -/
  owners : List (Nat × Owner)
  copies : List (Nat × CopySt)
  /-- device time since both pools answered "not mine" (R404) -/
  notMine : List (Nat × Nat)
  /-- next context ID in rotation, and when IDs' teardowns completed (R441) -/
  ctxNext : Half
  ctxFreed : List (Half × Nat)
  teardowns : List (Half × Teardown)
  revoked : List Half
  lastTd : Half
  tdTimeout : Bool
  /-- tenant sums by 16 × tenant + index, and time of the latest addition (R406) -/
  tenants : SMap Nat
  meterTime : Nat
  deriving DecidableEq, Repr

/-- A request that the panel has sent to host memory (R355): its PASID, its bytes in one 4 KiB page, and whether it carries a translation. -/
structure HostReq where
  write : Bool
  pasid : Option Nat
  iova : Nat
  len : Nat
  translated : Bool
  deriving DecidableEq, Repr

/-- A request to BAR4, with the device physical address it arrived for, or a queue doorbell of BAR2: they are performed in the order of their
arrival (R215, Table 13-11). -/
inductive BarOp where
  | read (dpa len : Nat)
  | write (dpa : Nat) (data : List Byte)
  | atomic (dpa : Nat) (op : BarAtomic) (size : Nat) (a b : DWord)
  | sqTail (fn q : Nat) (v : Word)
  | cqHead (fn q : Nat) (v : Word)
  deriving DecidableEq, Repr

/-- The host interface (R354-R378). -/
structure HostIf where
  fns : List (Nat × Fn)
  /-- NumVFs while VF Enable is 1, else 0 (R369) -/
  vfs : Nat
  outs : List Out
  eventId : Word
  /-- BAR4 requests and doorbells that are not yet performed, oldest first (R215) -/
  barQ : List BarOp
  /-- BAR4's window is 2^(30 + `bar4Window`) bytes (Table 13-2) -/
  bar4Window : Nat
  /-- Address Translation Cache: 4 KiB pages with their PASID, oldest first (R367) -/
  atc : List Nat
  /-- requests sent to host memory (an output, R355) -/
  sent : List HostReq
  /-- entries fetched so far, on all functions (R381) -/
  fetches : Nat
  deriving DecidableEq, Repr

/-- Scale-out (R324-R343). -/
structure ScaleOut where
  up : Half
  sysAddr : Option (BitVec 12 × Byte)
  /-- the NONCE of this unassigned start; none until the next HELLO chooses one (Table 12-4, R343) -/
  nonce : Option DWord
  /-- connections by 4096 × headland + peer -/
  conns : List (Nat × Conn)
  held : List HeldFrame
  /-- frames received that something under way keeps from being performed, oldest first (R265, R333) -/
  waiting : List HeldFrame
  eth : List SentEth
  deriving DecidableEq, Repr

/-- Panel-wide power measurements (R462-R473). -/
structure Power where
  inputW : Nat
  volt10 : Nat
  /-- Th by headland; headlands whose report stands -/
  th : SMap Nat
  thHot : List Nat
  dutyReported : Bool
  deriving DecidableEq, Repr

/-- Error log and hayward (R481, R491). -/
structure Rel where
  log : SMap LogEntry
  head : Nat
  hay : Hayward
  deriving DecidableEq, Repr

/-- Test and capture (R539-R546). -/
structure Tst where
  captures : List (Nat × Capture)
  replays : List (Nat × ReplayRun)
  xmargin : Sweep
  xlane : Option Nat
  /-- BIST commands in progress: entry, dies under test, passed, failed (R536, Table 20-2) -/
  bists : List (EntryRef × (List Nat × (List Nat × List Nat)))
  deriving DecidableEq, Repr

/-- The whole panel: the queue of waiting commands, and every piece of state the spec names. -/
structure State where
  /-- commands waiting, first in first out -/
  pending : List Instr
  mod : Module
  nv : NonVol
  start : Startup
  regs : RegFile
  mem : Mem
  /-- cores by slice, compute dies by logical number, headland hedgerow ports by 4 × headland + column -/
  cores : List (Nat × Core)
  dies : List (Nat × Die)
  hlPorts : SMap HPort
  /-- the headlands' switches, A 0 and B 1 -/
  hlSw : SMap Switch
  /-- coherence messages under way (R264) -/
  net : List NetMsg
  yoke : Yoke
  host : HostIf
  link : ScaleOut
  time : Time
  pwr : Power
  rel : Rel
  sec : Sec
  tst : Tst
  /-- the MODEL'S OWN field: how many free values have been read -/
  fresh : Nat
  deriving DecidableEq, Repr

/-! ## The state after reset: the module without power, as manufacture left it (R32, R39) -/

/-- A core that holds nothing (R166, R168, Table 04-6). -/
def Core.reset : Core where
  launches := []
  drills := []
  barriers := []
  seedbed := []
  sbPoison := []
  liveMark := 0
  tallies := []
  queue := []
  arrayNext := 0
  arrayDone := 0
  passInstrs := 0
  passTotal := 0
  canaries := []
  active := none
  shadow := none
  xfers := []
  xferNext := 0
  xferDone := 0
  early := []
  seq := 0
  cache := []
  hostLines := []
  lru := 0
  loan := .none_
  borrower := none
  loanAt := 0
  saved := none
  domainOn := false
  lastTenant := none
  meters := []
  boundAt := 0

/-- A sweep register that has run nothing: MEM_MARGIN_STAT and TST_*MARGIN_STAT read 0 (Table 10-8, Table 20-6). -/
def Sweep.reset : Sweep where
  steps := 0
  done := false
  busy := false
  err := false
  low := 0
  high := 0
  lane := 0

/-- A hedgerow port before training: HDG_PORT_STATE reads 0 (Table 11-5). -/
def HPort.reset : HPort where
  st := .off
  fails := 0
  agreed := 0
  localMask := 0
  offerOut := none
  offerIn := none
  confirmOut := none
  confirmIn := none
  bypassUp := 0
  txSeq := 0
  rxSeq := 0
  gap := false
  ackDue := false
  nextGroup := 0
  nakSeq := 0
  nakRun := 0
  replay := []
  linkOut := []
  left := []
  credits := []
  owed := []
  winReplays := 0
  thr := 0x10000

/-- A switch that holds nothing. -/
def Switch.reset : Switch where
  inbox := []
  reroute := []
  delivered := []
  routes := []

/-- A compute die at power-up: step 8, DUTY 16 (PWR_DIE_STATE resets to 0x8880_0010), all else empty. -/
def Die.reset : Die where
  gran := []
  lru := 0
  trans := []
  segDone := []
  pend := []
  sweep := []
  leases := []
  accesses := 0
  misses := 0
  thrashing := false
  engines := []
  rotation := 0
  reeveXfers := []
  reeveNext := 0
  reeveDone := 0
  reeveEarly := []
  faults := []
  faultWait := []
  ports := []
  sw := .reset
  refetch := []
  part := .inService
  run := none
  rgen := 0
  resets := 0
  resetTimes := []
  testTimes := []
  partCode := 0
  updating := false
  image := 0
  imageVer := 0
  step := 8
  gov := 8
  ceil := 8
  duty := 16
  coolTicks := 0
  td := 0
  hot := false
  sensorBad := []
  est := 0
  ts := 0
  rate := 0
  coolSamples := 0
  throttle := false
  stackOff := false
  eccWin := 0
  eccReported := false
  bankRate := []
  eccThr := 0x400
  scrubPer := 0x18
  scrubNext := 0
  spares := 0
  trained := none
  margin := .reset
  undef := none
  lmargin := .reset
  lmarginLane := none
  bistStatus := 0
  sramFailReg := 0
  dramFailReg := 0
  sigs := []
  cohErr := 0
  ifFault := false
  fcTenths := 0
  pos := 0

/-- A stopped serving loop: YOK_SERVE_STATE reads 0 (Table 15-11). -/
def Serve.reset : Serve where
  st := .stopped
  stage := 0
  s0 := 0
  ktab := 0
  kvbase := 0
  kvsize := 0
  pframes := 0
  lookahead := 0
  grace := 0
  deferMax := 0
  commitLag := 0
  report := 0
  recBytes := 0
  encPages := 0
  maxTok := 0
  stopEntry := none
  pass := 0
  streams := []
  pendFrames := []
  free := []
  reserved := []
  failures := 0
  failedNow := false
  excused := false
  returning := []
  rerun := false
  chk := false
  poison := false
  canaryDone := false
  overrun := false
  gatherAt := 0
  refused := 0
  admitted := 0
  deferred := 0
  stepped := 0
  ended := 0
  hypWords := []
  dropped := false
  notices := []
  lists := []
  asking := false
  deltas := []
  restarting := false
  nextOrder := 0

/-- A function before AQ_EN (Table 13-11). -/
def Fn.reset : Fn where
  sqs := []
  cqs := []
  entries := []
  nextOrder := 0
  log := none
  quiesced := false
  quiescing := none
  quiesceLate := false
  aqEn := false
  aqErr := false
  aqRemoving := false
  d3hot := false
  resetting := false
  pendingVec := []

/-- Non-volatile state. The fuse map is the one of chapter 01's worked example; DESIGN CHOICE: the spec gives no fuse contents. -/
def NonVol.reset : NonVol where
  fuses := [(6, 2), (13, 1), (19, 2), (25, 1)]
  hlaClass := 0
  hlaStep := 0
  hlbClass := 0
  hlbStep := 0
  serial := 0
  mac := 0
  rootDig := 0
  uds := 0
  fwRevoke := 0
  dbgRevoke := 0
  hlSvnMin := 0
  cdSvnMin := 0
  debugDisable := false
  rootKey := []
  idCert := []
  bank0 := []
  bank1 := []
  activeBank := false
  portMap := 0x22222222
  lastShutdown := 0

/-- The module without power. -/
def Module.reset : Module where
  conv := .off
  enable := false
  inputMv := 0
  pwrgd := false
  shdnHigh := false
  perst := true
  mgmtMode := false
  mgmtAddr := 0
  dynAddr := none
  eid := 0
  alerts := []
  linkUp := false
  partner := { flit := false, rate := 0, lanes := 0 }
  crs := true
  mapOld := none

/-- Start-up not begun: GLB_STARTUP_STATUS reads 0 (Table 01-7). -/
def Startup.reset : Startup where
  step := 0
  done := false
  failed := false
  code := 0
  recs := []
  chain := 0
  spares := []
  fallow := 0
  level := 0
  roles := []
  portMap := 0

/-- The yoke controller with an empty table (step 12 of Table 01-5); context IDs begin at 1 (R441: 0x0000 is never live). -/
def Yoke.reset : Yoke where
  comps := []
  owners := []
  copies := []
  notMine := []
  ctxNext := 1
  ctxFreed := []
  teardowns := []
  revoked := []
  lastTd := 0
  tdTimeout := false
  tenants := []
  meterTime := 0

/-- The device time counter stopped at 0 (R346). -/
def Time.reset : Time where
  running := false
  now := 0
  st := .free
  port := none
  offset := 0
  slew := 0
  back := 0
  half := false
  good := 0
  pendSync := none
  reqAt := none
  delay := 0
  ms := 0
  rate := 0
  acc := 0
  syncAt := 0
  syncEvery := none
  masters := []
  heldAt := 0
  heldReported := false

/-- The root of trust before boot; debug locked (Table 19-7). -/
def Sec.reset : Sec where
  booted := none
  bootBank := false
  pending := none
  pendBank := false
  applying := none
  challenge := none
  scope := 0
  lastScope := 0
  expiry := 0
  debugNow := false
  debugSince := false
  code := 0
  udsLocked := false
  idKey := []
  attKey := []
  attCertSig := []
  panelId := 0

/-- The hayward before its first sample. -/
def Hayward.reset : Hayward where
  still := []
  seen := []
  cyc := []
  grace := []
  last := 0

/-- The panel right after reset: no command waits, the module has no power, every register is at its reset value. -/
def State.reset : State where
  pending := []
  mod := .reset
  nv := .reset
  start := .reset
  regs := { vals := [], heldLow := [], latched := [] }
  mem := { dram := [], poison := [], errs := [], parity := [], host := [], denied := [] }
  cores := []
  dies := []
  hlPorts := []
  hlSw := []
  net := []
  yoke := .reset
  host := { fns := [], vfs := 0, outs := [], eventId := 0, barQ := [], bar4Window := 0, atc := [], sent := [], fetches := 0 }
  link := { up := 0, sysAddr := none, nonce := none, conns := [], held := [], waiting := [], eth := [] }
  time := .reset
  pwr := { inputW := 0, volt10 := 0, th := [], thHot := [], dutyReported := false }
  rel := { log := [], head := 0, hay := .reset }
  sec := .reset
  tst := { captures := [], replays := [], xmargin := .reset, xlane := none, bists := [] }
  fresh := 0

/-- Why the machine stops with a fault. -/
inductive Fault where
  /-- A coherence or memory-controller command names a sector at or beyond the end of the panel's DRAM (R9). Raised by the
  home-side and cache-side meanings. Safe: no such sector exists. -/
  | absentSector
  deriving DecidableEq, Repr

/-- Why a command has no meaning. -/
inductive Refusal where
  /-- The command is not modelled yet: raised by exec's arms only. Safe. -/
  | notModelled (mnemonic : String)
  deriving DecidableEq, Repr

end Sys2Proof.Machine
end

