-- ==== Sys2Proof/Machine/Regs.lean ====
section
/-! DEFINITION. The BAR0 registers: names, offsets, access types and reset values (Tables 01-7, 02-9, 06-7, 08-3, 09-8, 10-8, 11-5, 12-6, 13-11, 14-9, 15-11, 16-5, 17-10, 18-10, 19-7, 20-6, 21-1 to 21-3), and the store of those that hold a value. -/

namespace Sys2Proof.Machine

open Sys2Proof

/-- Every register of BAR0, by its name; MSIX_TABLE and MSIX_PBA are the PF's MSI-X structures (R378). -/
inductive Reg where
  | glbId | glbHlStep | glbSerial | glbMacBase | glbFwVersion | glbScratch
  | glbRegErr | glbRegErrAddr | glbRegErrCnt | glbStartupStatus | glbStartupCode | glbFallowMap
  | glbFeatureLevel | glbDiePos | glbDieRec | xltPortMap | xltPortMapNext | xltPortUp
  | xltSysAddr | xltEthertype | xltVlan | xltRetxCfg | xltConnFail | xltDrop
  | xltFecCe | xltFecUe | xltFcsErr | xltRetx | timNow | timState
  | timOffset | timPtpCfg | timStepThr | timHoldLimit | timSteps | yokSliceState
  | yokCompState | yokCompDrain | yokOwnEntries | yokOwnQueries | yokOwnDrops | yokSchedCfg
  | yokTdStatus | yokTdOut | yokPreempt | yokServeState | yokServePass | yokServeOverrun
  | yokServeDefer | yokCtx | yokLoan | pwrCapHost | pwrCapBmc | pwrCapEff
  | pwrInput | pwrMargin | pwrFast | pwrDomainsA | pwrDomainsB | pwrLastShutdown
  | pwrHlTemp | rlyPartState | rlyPartCode | rlyHayCfg | rlyHayHangs | rlyRestarts
  | rlyWpageRefetch | rlyWpageFail | rlyLogHead | rlyLogCode | rlyLogTime | secState
  | secSvnMin | secRevoked | secDebugScope | secDebugExpiry | secCode | secPanelId
  | secDieFw | tstXmarginCmd | tstXmarginStat | tstCapState | tstCapSeq | tstCapLost
  | hstFnCtrl | hstFnStatus | hstAqSqBase | hstAqCqBase | hstAqSize | hstAqPasid
  | hstFnDies | hstFnErr | hstCqDrop | hstDbDrop | hstLink | hstLinkEvents
  | hstBar4Ctrl | hstBar4Base | msixTable | msixPba | glbDieInfo | hdgLaneRole
  | hdgPortState | hdgCrcErr | hdgReplay | hdgReplayThr | hdgRoute | rlyArrSat
  | rlyArrUfl | rlyArrNan | rlyArrChk | rlyArrChkskip | rlyArrLastchk | memXferCap
  | memXferBusy | rlySbdCe | rlySbdUe | memXferOut | grnPinCfg | grnThrashCfg
  | grnLeaseCfg | grnPinUsed | grnPinDemote | grnThrashLast | grnDiscardDirty | grnLeaseFail
  | grnCohInv | grnCohRecall | grnCohCoarse | grnCohPend | grnCohErr | memRefreshState
  | memStackTemp | memStackTpeak | memTempFail | memEccCe | memEccUe | memEccThr
  | memOdeccCe | memParityRetry | memScrubCfg | memRate | memSpareUsed | memMarginCmd
  | memMarginStat | pwrDieState | pwrFmax | pwrDieEst | pwrDieTemp | pwrDieTpeak
  | pwrStepChg | pwrDomains | pwrThrottle | rlySramCe | rlySramUe | tstBistStatus
  | tstSramFail | tstDramFail | tstSig | tstLmarginCmd | tstLmarginStat
  deriving DecidableEq, Repr

/-- Access types (Table 00-6); no register of the map has W1C or W1S. -/
inductive Access where
  | rw | ro | rc | wo
  deriving DecidableEq, Repr

/-- Where a register lies: in each die block or once, its offset there, its repetitions, its width, its reset value. -/
structure RegRow where
  access : Access
  perDie : Bool
  base : Nat
  stride : Nat
  count : Nat
  wide : Bool
  reset : Nat
  deriving DecidableEq, Repr

def panelRow (a : Access) (base stride count : Nat) (wide : Bool) (reset : Nat) : RegRow := ⟨a, false, base, stride, count, wide, reset⟩
def dieRow (a : Access) (base stride count : Nat) (wide : Bool) (reset : Nat) : RegRow := ⟨a, true, base, stride, count, wide, reset⟩

/-- The map of Table 21-1. -/
def Reg.row (r : Reg) : RegRow :=
  match r with
  | .glbId => panelRow .ro 0x0 4 1 false 0x24180100
  | .glbHlStep => panelRow .ro 0x4 4 1 false 0
  | .glbSerial => panelRow .ro 0x8 8 1 true 0
  | .glbMacBase => panelRow .ro 0x10 8 1 true 0
  | .glbFwVersion => panelRow .ro 0x18 4 1 false 0
  | .glbScratch => panelRow .rw 0x1C 4 1 false 0
  | .glbRegErr => panelRow .ro 0x20 4 1 false 0
  | .glbRegErrAddr => panelRow .ro 0x24 4 1 false 0
  | .glbRegErrCnt => panelRow .rc 0x28 4 1 false 0
  | .glbStartupStatus => panelRow .ro 0x100 4 1 false 0
  | .glbStartupCode => panelRow .ro 0x104 4 1 false 0
  | .glbFallowMap => panelRow .ro 0x108 4 1 false 0
  | .glbFeatureLevel => panelRow .ro 0x10C 4 1 false 0
  | .glbDiePos => panelRow .ro 0x200 4 24 false 0x1F
  | .glbDieRec => panelRow .ro 0x400 8 28 true 0
  | .xltPortMap => panelRow .ro 0x2000 4 1 false 0
  | .xltPortMapNext => panelRow .rw 0x2004 4 1 false 0x22222222
  | .xltPortUp => panelRow .ro 0x2008 4 1 false 0
  | .xltSysAddr => panelRow .ro 0x200C 4 1 false 0
  | .xltEthertype => panelRow .rw 0x2010 4 1 false 0x88B5
  | .xltVlan => panelRow .rw 0x2014 4 1 false 0
  | .xltRetxCfg => panelRow .rw 0x2018 4 1 false 0x1028
  | .xltConnFail => panelRow .rc 0x201C 4 1 false 0
  | .xltDrop => panelRow .rc 0x2020 4 1 false 0
  | .xltFecCe => panelRow .rc 0x2100 16 16 false 0
  | .xltFecUe => panelRow .rc 0x2104 16 16 false 0
  | .xltFcsErr => panelRow .rc 0x2108 16 16 false 0
  | .xltRetx => panelRow .rc 0x210C 16 16 false 0
  | .timNow => panelRow .ro 0x3000 8 1 true 0
  | .timState => panelRow .ro 0x3008 4 1 false 0
  | .timOffset => panelRow .ro 0x300C 4 1 false 0
  | .timPtpCfg => panelRow .rw 0x3010 4 1 false 0x100
  | .timStepThr => panelRow .rw 0x3014 4 1 false 0x2710
  | .timHoldLimit => panelRow .rw 0x3018 4 1 false 0x3C
  | .timSteps => panelRow .rc 0x301C 4 1 false 0
  | .yokSliceState => panelRow .ro 0x4000 4 192 false 0
  | .yokCompState => panelRow .ro 0x4400 8 64 false 0
  | .yokCompDrain => panelRow .ro 0x4404 8 64 false 0
  | .yokOwnEntries => panelRow .ro 0x4600 4 1 false 0
  | .yokOwnQueries => panelRow .rc 0x4604 4 1 false 0
  | .yokOwnDrops => panelRow .rc 0x4608 4 1 false 0
  | .yokSchedCfg => panelRow .rw 0x4610 4 1 false 0x1
  | .yokTdStatus => panelRow .ro 0x4614 4 1 false 0
  | .yokTdOut => panelRow .ro 0x4618 4 1 false 0
  | .yokPreempt => panelRow .rc 0x461C 4 1 false 0
  | .yokServeState => panelRow .ro 0x4800 16 64 false 0
  | .yokServePass => panelRow .ro 0x4804 16 64 false 0
  | .yokServeOverrun => panelRow .rc 0x4808 16 64 false 0
  | .yokServeDefer => panelRow .rc 0x480C 16 64 false 0
  | .yokCtx => panelRow .ro 0x4C00 4 64 false 0
  | .yokLoan => panelRow .ro 0x4D00 4 192 false 0
  | .pwrCapHost => panelRow .rw 0x5000 4 1 false 0x5DC
  | .pwrCapBmc => panelRow .ro 0x5004 4 1 false 0x5DC
  | .pwrCapEff => panelRow .ro 0x5008 4 1 false 0x5DC
  | .pwrInput => panelRow .ro 0x500C 4 1 false 0
  | .pwrMargin => panelRow .rw 0x5010 4 1 false 0x14
  | .pwrFast => panelRow .rc 0x5014 4 1 false 0
  | .pwrDomainsA => panelRow .ro 0x5018 4 1 false 0
  | .pwrDomainsB => panelRow .ro 0x501C 4 1 false 0
  | .pwrLastShutdown => panelRow .ro 0x5020 4 1 false 0
  | .pwrHlTemp => panelRow .ro 0x5024 4 1 false 0
  | .rlyPartState => panelRow .ro 0x6000 4 24 false 0
  | .rlyPartCode => panelRow .ro 0x6080 4 24 false 0
  | .rlyHayCfg => panelRow .rw 0x6100 4 1 false 0x1
  | .rlyHayHangs => panelRow .rc 0x6104 4 1 false 0
  | .rlyRestarts => panelRow .rc 0x6108 4 1 false 0
  | .rlyWpageRefetch => panelRow .rc 0x610C 4 1 false 0
  | .rlyWpageFail => panelRow .rc 0x6110 4 1 false 0
  | .rlyLogHead => panelRow .ro 0x6200 4 1 false 0
  | .rlyLogCode => panelRow .ro 0x6400 4 256 false 0
  | .rlyLogTime => panelRow .ro 0x6800 8 256 true 0
  | .secState => panelRow .ro 0x7000 4 1 false 0
  | .secSvnMin => panelRow .ro 0x7004 4 1 false 0
  | .secRevoked => panelRow .ro 0x7008 4 1 false 0
  | .secDebugScope => panelRow .ro 0x700C 4 1 false 0
  | .secDebugExpiry => panelRow .ro 0x7010 8 1 true 0
  | .secCode => panelRow .ro 0x7018 4 1 false 0
  | .secPanelId => panelRow .ro 0x7020 4 8 false 0
  | .secDieFw => panelRow .ro 0x7080 4 24 false 0
  | .tstXmarginCmd => panelRow .wo 0x8000 4 1 false 0
  | .tstXmarginStat => panelRow .ro 0x8004 4 1 false 0
  | .tstCapState => panelRow .ro 0x8010 16 64 false 0
  | .tstCapSeq => panelRow .ro 0x8014 16 64 false 0
  | .tstCapLost => panelRow .rc 0x8018 16 64 false 0
  | .hstFnCtrl => panelRow .rw 0x100000 4096 25 false 0
  | .hstFnStatus => panelRow .ro 0x100004 4096 25 false 0
  | .hstAqSqBase => panelRow .rw 0x100008 4096 25 true 0
  | .hstAqCqBase => panelRow .rw 0x100010 4096 25 true 0
  | .hstAqSize => panelRow .rw 0x100018 4096 25 false 0x3F003F
  | .hstAqPasid => panelRow .rw 0x10001C 4096 25 false 0
  | .hstFnDies => panelRow .ro 0x100020 4096 25 false 0
  | .hstFnErr => panelRow .ro 0x100024 4096 25 false 0
  | .hstCqDrop => panelRow .rc 0x100028 4096 25 false 0
  | .hstDbDrop => panelRow .rc 0x10002C 4096 25 false 0
  | .hstLink => panelRow .ro 0x120000 4 1 false 0
  | .hstLinkEvents => panelRow .rc 0x120004 4 1 false 0
  | .hstBar4Ctrl => panelRow .rw 0x120008 4 1 false 0
  | .hstBar4Base => panelRow .rw 0x120010 8 1 true 0
  | .msixTable => panelRow .rw 0x130000 4 8192 false 0
  | .msixPba => panelRow .ro 0x138000 8 32 true 0
  | .glbDieInfo => dieRow .ro 0x0 4 1 false 0
  | .hdgLaneRole => dieRow .ro 0x10000 4 4 false 0
  | .hdgPortState => dieRow .ro 0x10010 4 4 false 0
  | .hdgCrcErr => dieRow .rc 0x10020 4 4 false 0
  | .hdgReplay => dieRow .rc 0x10030 4 4 false 0
  | .hdgReplayThr => dieRow .rw 0x10040 4 1 false 0x10000
  | .hdgRoute => dieRow .ro 0x10100 4 32 false 0
  | .rlyArrSat => dieRow .rc 0x30000 32 8 false 0
  | .rlyArrUfl => dieRow .rc 0x30004 32 8 false 0
  | .rlyArrNan => dieRow .rc 0x30008 32 8 false 0
  | .rlyArrChk => dieRow .rc 0x3000C 32 8 false 0
  | .rlyArrChkskip => dieRow .rc 0x30010 32 8 false 0
  | .rlyArrLastchk => dieRow .ro 0x30014 32 8 false 0xFFF
  | .memXferCap => dieRow .rw 0x40000 4 1 false 0x33
  | .memXferBusy => dieRow .ro 0x40004 4 1 false 0
  | .rlySbdCe => dieRow .rc 0x40008 4 1 false 0
  | .rlySbdUe => dieRow .rc 0x4000C 4 1 false 0
  | .memXferOut => dieRow .ro 0x40100 4 8 false 0
  | .grnPinCfg => dieRow .rw 0x50000 4 1 false 0xA0C
  | .grnThrashCfg => dieRow .rw 0x50004 4 1 false 0x8001
  | .grnLeaseCfg => dieRow .rw 0x50008 4 1 false 0x64
  | .grnPinUsed => dieRow .ro 0x50010 4 1 false 0
  | .grnPinDemote => dieRow .rc 0x50014 4 1 false 0
  | .grnThrashLast => dieRow .ro 0x50018 4 1 false 0
  | .grnDiscardDirty => dieRow .rc 0x5001C 4 1 false 0
  | .grnLeaseFail => dieRow .rc 0x50020 4 1 false 0
  | .grnCohInv => dieRow .rc 0x50100 4 1 false 0
  | .grnCohRecall => dieRow .rc 0x50104 4 1 false 0
  | .grnCohCoarse => dieRow .ro 0x50108 4 1 false 0
  | .grnCohPend => dieRow .rc 0x5010C 4 1 false 0
  | .grnCohErr => dieRow .ro 0x50110 4 1 false 0
  | .memRefreshState => dieRow .ro 0x60000 4 1 false 0
  | .memStackTemp => dieRow .ro 0x60004 4 1 false 0
  | .memStackTpeak => dieRow .rc 0x60008 4 1 false 0
  | .memTempFail => dieRow .rc 0x6000C 4 1 false 0
  | .memEccCe => dieRow .rc 0x60010 4 1 false 0
  | .memEccUe => dieRow .rc 0x60014 4 1 false 0
  | .memEccThr => dieRow .rw 0x60018 4 1 false 0x400
  | .memOdeccCe => dieRow .rc 0x6001C 4 1 false 0
  | .memParityRetry => dieRow .rc 0x60020 4 1 false 0
  | .memScrubCfg => dieRow .rw 0x60024 4 1 false 0x18
  | .memRate => dieRow .ro 0x60028 4 1 false 0x5C
  | .memSpareUsed => dieRow .ro 0x6002C 4 1 false 0
  | .memMarginCmd => dieRow .wo 0x60030 4 1 false 0
  | .memMarginStat => dieRow .ro 0x60034 4 1 false 0
  | .pwrDieState => dieRow .ro 0x70000 4 1 false 0x88800010
  | .pwrFmax => dieRow .rw 0x70004 4 1 false 0x8
  | .pwrDieEst => dieRow .ro 0x70008 4 1 false 0
  | .pwrDieTemp => dieRow .ro 0x7000C 4 1 false 0
  | .pwrDieTpeak => dieRow .rc 0x70010 4 1 false 0
  | .pwrStepChg => dieRow .rc 0x70014 4 1 false 0
  | .pwrDomains => dieRow .ro 0x70018 4 1 false 0
  | .pwrThrottle => dieRow .rc 0x7001C 4 1 false 0
  | .rlySramCe => dieRow .rc 0x80000 4 1 false 0
  | .rlySramUe => dieRow .rc 0x80004 4 1 false 0
  | .tstBistStatus => dieRow .ro 0x90000 4 1 false 0
  | .tstSramFail => dieRow .ro 0x90004 4 1 false 0
  | .tstDramFail => dieRow .ro 0x90008 4 1 false 0
  | .tstSig => dieRow .ro 0x90010 8 15 true 0
  | .tstLmarginCmd => dieRow .wo 0x90100 4 1 false 0
  | .tstLmarginStat => dieRow .ro 0x90104 4 1 false 0

def Reg.all0 : List Reg :=
  [.glbId, .glbHlStep, .glbSerial, .glbMacBase, .glbFwVersion, .glbScratch, .glbRegErr, .glbRegErrAddr, .glbRegErrCnt, .glbStartupStatus, .glbStartupCode, .glbFallowMap, .glbFeatureLevel, .glbDiePos, .glbDieRec, .xltPortMap, .xltPortMapNext, .xltPortUp, .xltSysAddr, .xltEthertype, .xltVlan, .xltRetxCfg, .xltConnFail, .xltDrop, .xltFecCe, .xltFecUe, .xltFcsErr, .xltRetx, .timNow, .timState, .timOffset, .timPtpCfg, .timStepThr, .timHoldLimit, .timSteps, .yokSliceState, .yokCompState, .yokCompDrain, .yokOwnEntries, .yokOwnQueries]
def Reg.all1 : List Reg :=
  [.yokOwnDrops, .yokSchedCfg, .yokTdStatus, .yokTdOut, .yokPreempt, .yokServeState, .yokServePass, .yokServeOverrun, .yokServeDefer, .yokCtx, .yokLoan, .pwrCapHost, .pwrCapBmc, .pwrCapEff, .pwrInput, .pwrMargin, .pwrFast, .pwrDomainsA, .pwrDomainsB, .pwrLastShutdown, .pwrHlTemp, .rlyPartState, .rlyPartCode, .rlyHayCfg, .rlyHayHangs, .rlyRestarts, .rlyWpageRefetch, .rlyWpageFail, .rlyLogHead, .rlyLogCode, .rlyLogTime, .secState, .secSvnMin, .secRevoked, .secDebugScope, .secDebugExpiry, .secCode, .secPanelId, .secDieFw, .tstXmarginCmd]
def Reg.all2 : List Reg :=
  [.tstXmarginStat, .tstCapState, .tstCapSeq, .tstCapLost, .hstFnCtrl, .hstFnStatus, .hstAqSqBase, .hstAqCqBase, .hstAqSize, .hstAqPasid, .hstFnDies, .hstFnErr, .hstCqDrop, .hstDbDrop, .hstLink, .hstLinkEvents, .hstBar4Ctrl, .hstBar4Base, .msixTable, .msixPba, .glbDieInfo, .hdgLaneRole, .hdgPortState, .hdgCrcErr, .hdgReplay, .hdgReplayThr, .hdgRoute, .rlyArrSat, .rlyArrUfl, .rlyArrNan, .rlyArrChk, .rlyArrChkskip, .rlyArrLastchk, .memXferCap, .memXferBusy, .rlySbdCe, .rlySbdUe, .memXferOut, .grnPinCfg, .grnThrashCfg]
def Reg.all3 : List Reg :=
  [.grnLeaseCfg, .grnPinUsed, .grnPinDemote, .grnThrashLast, .grnDiscardDirty, .grnLeaseFail, .grnCohInv, .grnCohRecall, .grnCohCoarse, .grnCohPend, .grnCohErr, .memRefreshState, .memStackTemp, .memStackTpeak, .memTempFail, .memEccCe, .memEccUe, .memEccThr, .memOdeccCe, .memParityRetry, .memScrubCfg, .memRate, .memSpareUsed, .memMarginCmd, .memMarginStat, .pwrDieState, .pwrFmax, .pwrDieEst, .pwrDieTemp, .pwrDieTpeak, .pwrStepChg, .pwrDomains, .pwrThrottle, .rlySramCe, .rlySramUe, .tstBistStatus, .tstSramFail, .tstDramFail, .tstSig, .tstLmarginCmd]
def Reg.all4 : List Reg :=
  [.tstLmarginStat]

/-- All registers, in the order of the map. -/
def Reg.all : List Reg := Reg.all0 ++ Reg.all1 ++ Reg.all2 ++ Reg.all3 ++ Reg.all4

/-- Start of the per-die block (R549). -/
def dieBlock (d : Nat) : Nat := 0x01000000 + d * 0x00200000

/-- Whether a register belongs to the hedgerow layout, which the headlands repeat at 0x600 + headland × 0x200 (R323). -/
def RegRow.isHdg (r : RegRow) : Bool := r.perDie && decide (0x10000 ≤ r.base) && decide (r.base < 0x10180)

/-- The BAR0 offset of instance `i` of a register in block `b`: a logical die, or 24 and 25 for headlands A and B (R323, R549). -/
def Reg.off (r : Reg) (b i : Nat) : Nat :=
  if r.row.perDie then
    if b < 24 then dieBlock b + r.row.base + r.row.stride * i
    else 0x600 + (b - 24) * 0x200 + (r.row.base - 0x10000) + r.row.stride * i
  else r.row.base + r.row.stride * i

/-- A decoded offset: register, block, instance, and whether the high half of a 64-bit register is meant (R553). -/
structure RegAt where
  reg : Reg
  blk : Nat
  idx : Nat
  high : Bool
  deriving DecidableEq, Repr

/-- Whether offset `o` within its block is an instance of row `r`: the instance and half. -/
def RegRow.index? (r : RegRow) (o : Nat) : Option (Nat × Bool) :=
  if r.base ≤ o ∧ (o - r.base) / r.stride < r.count then
    match (o - r.base) % r.stride with
    | 0 => some ((o - r.base) / r.stride, false)
    | 4 => if r.wide then some ((o - r.base) / r.stride, true) else none
    | _ => none
  else none

/-- The first register of a list at offset `o` of block `b`. -/
def findReg (p : RegRow → Bool) (b o : Nat) : List Reg → Option RegAt
  | [] => none
  | r :: rs =>
    if p r.row then
      match r.row.index? o with
      | some (i, h) => some ⟨r, b, i, h⟩
      | none => findReg p b o rs
    else findReg p b o rs

/-- The register at a BAR0 offset; none where the space is reserved (R549). VF MSI-X tables lie beyond BAR0, at
0x1000_0000 + VF × 0x1_0000 (see `bar0Key`). -/
def regAt (off : Nat) : Option RegAt :=
  if 0x10000000 ≤ off then
    let f := (off - 0x10000000) / 0x10000
    let o := off % 0x10000
    if 0x8000 ≤ o ∧ o < 0x8400 ∧ o % 4 = 0 then some ⟨.msixTable, 100 + f, (o - 0x8000) / 4, false⟩
    else if o = 0xC000 ∨ o = 0xC004 then some ⟨.msixPba, 100 + f, 0, decide (o = 0xC004)⟩
    else none
  else if 0x01000000 ≤ off then
    let d := (off - 0x01000000) / 0x00200000
    if d < 24 then findReg (·.perDie) d ((off - 0x01000000) % 0x00200000) Reg.all else none
  else if 0x600 ≤ off ∧ off < 0xA00 then
    findReg (·.isHdg) (24 + (off - 0x600) / 0x200) (0x10000 + (off - 0x600) % 0x200) Reg.all
  else findReg (fun r => !r.perDie) 0 off Reg.all

/-- The key of an offset that function `req` uses in its own BAR0 (R378, Table 13-2): the PF's is BAR0 itself. -/
def bar0Key (req off : Nat) : Option Nat :=
  if req = 0 then (if off < 0x10000000 then some off else none)
  else if off < 0x1000 then some (0x00100000 + req * 0x1000 + off)
  else if off < 0x10000 then some (0x10000000 + req * 0x10000 + off)
  else none

/-- The reset value at a key: that of its register; an MSI-X vector-control word starts masked (PRESUMED: PCIe MSI-X). -/
def resetAt (off : Nat) : DWord :=
  match regAt off with
  | none => 0
  | some a => if a.reg = .msixTable then (if a.idx % 4 = 3 then 1 else 0) else BitVec.ofNat 64 a.reg.row.reset

/-- The stored value at a key. -/
def RegFile.get (f : RegFile) (off : Nat) : DWord :=
  match find? f.vals off with
  | some v => v
  | none => resetAt off

/-- Store a value at a key: the reset value is not listed. -/
def RegFile.set (f : RegFile) (off : Nat) (v : DWord) : RegFile :=
  { f with vals := if v = resetAt off then erase f.vals off else insert f.vals off v }

/-- The stored value of instance `i` of register `r` in block `b`. -/
def State.reg (s : State) (r : Reg) (b i : Nat) : Nat := (s.regs.get (r.off b i)).toNat

/-- Store a register's value. -/
def State.setReg (s : State) (r : Reg) (b i v : Nat) : State :=
  { s with regs := s.regs.set (r.off b i) (BitVec.ofNat 64 v) }

/-- Add to a counter, which stops at 0xFFFF_FFFF. -/
def State.count (s : State) (r : Reg) (b i n : Nat) : State :=
  s.setReg r b i (min 0xFFFFFFFF (s.reg r b i + n))

/-- The MSI-X table entry `v` of function `f`: the key of its vector-control word. -/
def msixCtrl (f v : Nat) : Nat :=
  if f = 0 then 0x00130000 + 16 * v + 12 else 0x10000000 + f * 0x10000 + 0x8000 + 16 * v + 12

end Sys2Proof.Machine
end

