-- ==== Sys2Proof/Machine/Ops.lean ====
section
/-! DEFINITION. The named operations over the state: reading and writing a core, a die, a composition, a function; the panel's readiness; host memory; the error log, events, completions and their interrupts (R361-R366, R371, R479-R481). -/

namespace Sys2Proof.Machine

open Sys2Proof

/-! ## Parts of the state by number -/

def State.core (s : State) (k : Nat) : Core := getD .reset s.cores k
def State.setCore (s : State) (k : Nat) (c : Core) : State := { s with cores := setD .reset s.cores k c }
def State.modCore (s : State) (k : Nat) (f : Core → Core) : State := s.setCore k (f (s.core k))

def State.die (s : State) (d : Nat) : Die := getD .reset s.dies d
def State.setDie (s : State) (d : Nat) (x : Die) : State := { s with dies := setD .reset s.dies d x }
def State.modDie (s : State) (d : Nat) (f : Die → Die) : State := s.setDie d (f (s.die d))

def State.comp? (s : State) (c : Nat) : Option Comp := find? s.yoke.comps c
def State.setComp (s : State) (c : Nat) (x : Comp) : State := { s with yoke := { s.yoke with comps := insert s.yoke.comps c x } }
def State.dropComp (s : State) (c : Nat) : State := { s with yoke := { s.yoke with comps := erase s.yoke.comps c } }
def State.modComp (s : State) (c : Nat) (f : Comp → Comp) : State :=
  match s.comp? c with
  | some x => s.setComp c (f x)
  | none => s

def State.fn (s : State) (f : Nat) : Fn := getD .reset s.host.fns f
def State.setFn (s : State) (f : Nat) (x : Fn) : State := { s with host := { s.host with fns := setD .reset s.host.fns f x } }
def State.modFn (s : State) (f : Nat) (g : Fn → Fn) : State := s.setFn f (g (s.fn f))

/-- One more output of the panel that no memory holds. -/
def State.out (s : State) (o : Out) : State := { s with host := { s.host with outs := s.host.outs ++ [o] } }

/-- Use up `n` free values (the model's own counter): the number of the first, and the state after. -/
def State.takeFresh (s : State) (n : Nat) : Nat × State := (s.fresh, { s with fresh := s.fresh + n })

/-- `n` bytes that the spec calls unspecified. -/
def freeBytes (k : Nat) : Nat → List Byte
  | 0 => []
  | n + 1 => Config.freeByte k :: freeBytes (k + 1) n

/-- The logical die of a slice (R7). -/
def dieOf (slice : Nat) : Nat := slice / 8

/-- The slices of a die. -/
def slicesOf (d : Nat) : List Nat := (upto 8).map fun c => 8 * d + c

/-- In service: start-up completed and no panel fault since (R32, R38, R479). -/
def State.inService (s : State) : Bool := s.start.done && !s.start.failed && s.mod.pwrgd

/-- The partition of logical die `d` is in service (R497, R499). -/
def State.dieUp (s : State) (d : Nat) : Bool := decide ((s.die d).part = .inService)

/-- The record still in flash while a write of XLT_PORT_MAP_NEXT may not be stored yet (R559). -/
def State.mapUnstored (s : State) : Option Word :=
  (s.mod.mapOld.filter fun e => decide (s.time.now < e.2 + 100000000)).map (·.1)

/-- The compute dies and their stacks are powered and sampled: in service, and in start-up from step 8 on (R290, R472). -/
def State.sampling (s : State) : Bool := s.inService || (s.mod.pwrgd && decide (8 ≤ s.start.step) && !s.start.failed)

/-- The state of a slice (R379): the composition that holds it, and whether it is leaving. -/
def State.owner? (s : State) (slice : Nat) : Option (Nat × Bool) :=
  match s.yoke.comps.find? (fun e => e.2.cur.slices.contains slice) with
  | some (c, _) => some (c, false)
  | none =>
    match s.yoke.comps.find? (fun e => e.2.leaving.contains slice) with
    | some (c, _) => some (c, true)
    | none => none

/-- The compositions that hold a slice on die `d`. -/
def State.compsOnDie (s : State) (d : Nat) : List Nat :=
  (s.yoke.comps.filter fun e => e.2.cur.slices.any fun k => decide (dieOf k = d)).map (·.1)

/-- The lowest slice of a composition on a die. -/
def State.lowestOn (s : State) (c d : Nat) : Option Nat := (s.comp? c).bind fun x => (slicesOf d).find? fun k => x.cur.slices.contains k

/-- The compositions in the order in which the reeves serve them: ascending PRIO, at equal PRIO ascending composition ID (R444). -/
def State.byPrio (s : State) : List Nat :=
  (upto 8).flatMap fun p => (s.yoke.comps.filter fun e => decide (e.2.cur.prio = p)).map (·.1)

/-- The context is revoked: its revocation time has come, or its teardown is over and the ID not yet assigned again (R456, R460). -/
def State.revokedCtx (s : State) (ctx : Half) : Bool :=
  s.yoke.revoked.contains ctx || s.yoke.teardowns.any fun t => decide (t.1 = ctx) && decide (t.2.tr ≤ s.time.now)

/-- The composition whose live context is `ctx`. -/
def State.compOfCtx (s : State) (ctx : Half) : Option Nat :=
  (s.yoke.comps.find? fun e => e.2.context = ctx).map (·.1)

/-- The context that holds a core: the borrower's while it is lent (R448), else the owner's. -/
def State.coreComp (s : State) (k : Nat) : Option Nat :=
  match (s.core k).loan, (s.core k).borrower with
  | .lent, some b => some b
  | _, _ => (s.owner? k).map (·.1)

/-- Signed debug unlock is in force and grants scope bit `i` (Table 19-5). -/
def State.debugScope (s : State) (i : Nat) : Bool := s.sec.debugNow && bit s.sec.scope i

/-- Count `n` under key `i` of a core's meters. -/
def State.meterKey (s : State) (k i n : Nat) : State :=
  s.modCore k fun c => { c with meters := setD 0 c.meters i (getD 0 c.meters i + n) }

/-- Count `n` of metered resource `i` on slice `k`, charged to the composition that holds the core (Table 14-6, R455). -/
def State.meter (s : State) (k i n : Nat) : State :=
  match s.coreComp k with
  | some c => s.meterKey k (16 * c + i) n
  | none => s

/-- Hedgerow flits of an access that moves `n` bytes across the fabric: its data, and a request or an answer without data (R309, Table 14-6). -/
def accessFlits (n : Nat) : Nat := max 1 ((n + 255) / 256) + 1

/-- Count `n` bytes of host or scale-out traffic of slice `k`, and the flits that carry them to or from a headland. -/
def State.meterOut (s : State) (k i n : Nat) : State := (s.meter k i n).meter k 6 (accessFlits n)

/-- Count `n` host bytes that a reeve moves for composition `c`, on the composition's lowest slice of the die. -/
def State.meterReeve (s : State) (c d n : Nat) : State :=
  match s.lowestOn c d with
  | some k => (s.meterKey k (16 * c + 8) n).meterKey k (16 * c + 6) (accessFlits n)
  | none => s

/-! ## Host memory (R355, R366, R367) -/

/-- The key of host byte `iova` under a PASID. -/
def hostKey (pasid : Option Nat) (iova : Nat) : Nat :=
  match pasid with
  | some p => (p + 1) * 2 ^ 64 + iova
  | none => iova

/-- Translation lets the `n` bytes at `iova` be accessed. -/
def State.hostOk (s : State) (pasid : Option Nat) (iova n : Nat) : Bool :=
  decide (iova + n ≤ 2 ^ 64) &&
    s.mem.denied.all fun r => decide (hostKey pasid iova + n ≤ r.1) || decide (r.2 ≤ hostKey pasid iova)

/-- The 4 KiB pages that `n` bytes at `iova` touch. -/
def pagesOf (iova n : Nat) : List Nat :=
  if n = 0 then [] else (upto ((iova + n - 1) / 4096 - iova / 4096 + 1)).map fun i => iova / 4096 + i

/-- The Address Translation Cache's entries (R367). -/
def atcSize : Nat := 16384

/-- One request to host memory within a page: translated where the Address Translation Cache holds the page. Else the translation that it has asked
for enters the cache, and the oldest entry leaves a full one. DESIGN CHOICE: when an entry is made and which one leaves (log 55). -/
def HostIf.request (h : HostIf) (write : Bool) (pasid : Option Nat) (iova n page : Nat) : HostIf :=
  let lo := max iova (4096 * page)
  let k := hostKey pasid (4096 * page) / 4096
  let hit := h.atc.contains k
  { h with sent := h.sent ++ [{ write := write, pasid := pasid, iova := lo, len := min (iova + n) (4096 * page + 4096) - lo, translated := hit }],
           atc := if hit then h.atc else (h.atc ++ [k]).drop (h.atc.length + 1 - atcSize) }

/-- The requests that an access to `n` bytes of host memory sends, page by page (R355). -/
def State.hostSend (s : State) (write : Bool) (pasid : Option Nat) (iova n : Nat) : State :=
  { s with host := (pagesOf iova n).foldl (fun h p => h.request write pasid iova n p) s.host }

/-- Read host memory, or fail in translation. -/
def State.hostRead (s : State) (pasid : Option Nat) (iova n : Nat) : Option (List Byte) :=
  if s.hostOk pasid iova n then some (readBytes s.mem.host (hostKey pasid iova) n) else none

/-- Read `n` little-endian words of host memory. -/
def State.hostWords (s : State) (pasid : Option Nat) (iova n : Nat) : Option (List DWord) :=
  if s.hostOk pasid iova (8 * n) then some (readDWords s.mem.host (hostKey pasid iova) n) else none

/-- Read host memory by requests of the panel. -/
def State.hostFetch (s : State) (pasid : Option Nat) (iova n : Nat) : Option (State × List Byte) :=
  (s.hostRead pasid iova n).map fun bs => (s.hostSend false pasid iova n, bs)

/-- Write host memory, unlogged: none where translation refuses. -/
def State.hostPut (s : State) (pasid : Option Nat) (iova : Nat) (bs : List Byte) : Option State :=
  if s.hostOk pasid iova bs.length then
    some ({ s with mem := { s.mem with host := writeBytes s.mem.host (hostKey pasid iova) bs } }.hostSend true pasid iova bs.length)
  else none

/-- Mark a logged write (R371): whether it went outside the range for the first time since the last snapshot. -/
def DirtyLog.mark (l : DirtyLog) (pasid : Option Nat) (iova n : Nat) : DirtyLog × Bool :=
  if l.pasid = pasid then
    let ps := pagesOf iova n
    let inside := ps.filter fun p => decide (l.lo ≤ 4096 * p) && decide (4096 * p < l.hi)
    let out := inside.length ≠ ps.length
    ({ l with pages := inside.foldl (fun a p => addOnce p a) l.pages, outside := l.outside || out }, out && !l.outside)
  else (l, false)

/-- Write host memory for function `f`, marking its dirty log: none where translation refuses; else the state, and whether
0x10D0_00F5 falls due. -/
def State.hostWrite (s : State) (f : Nat) (pasid : Option Nat) (iova : Nat) (bs : List Byte) : Option (State × Bool) :=
  match s.hostPut pasid iova bs with
  | none => none
  | some s1 =>
    match (s.fn f).log with
    | some l =>
      let (l', due) := l.mark pasid iova bs.length
      some (s1.modFn f fun x => { x with log := some l' }, due)
    | none => some (s1, false)

/-! ## The error log (R8, R481) -/

/-- An error code: severity, unit, site, cause (R8). -/
def mkCode (base site : Nat) : Code := BitVec.ofNat 32 (base + site * 0x1000)

/-- Severity [31:28] of a code. -/
def severity (c : Code) : Nat := c.toNat / 2 ^ 28

/-- Write a code to the 256-entry log; a severe one is offered over MCTP, and one that names a function is its latest
(R481, R576, Table 13-11). -/
def State.logCode (s : State) (c : Code) : State :=
  let i := s.rel.head % 256
  let s := { s with rel := { s.rel with log := insert s.rel.log i { code := c, time := s.time.now }, head := (i + 1) % 256 } }
  let s := if 8 ≤ severity c then { s with mod := { s.mod with alerts := addOnce i s.mod.alerts } } else s
  let site := bits c 19 12
  if bits c 27 20 = 0x0D then s.setReg .hstFnErr 0 (if site < 25 then site else 0) c.toNat else s

/-! ## Capture records (R541-R543) -/

/-- A record: its 16-byte header and its payload padded to a multiple of 8 bytes (R542). -/
def recordBytes (type : Nat) (seq : Word) (time : Nat) (payload : List Byte) : List Byte :=
  natLe 8 (type * 2 ^ 56 + payload.length % 65536 * 2 ^ 32 + seq.toNat) ++ natLe 8 time ++ payload ++
    List.replicate ((8 - payload.length % 8) % 8) 0

/-- Bytes gathered on headland A and not yet written to the host. -/
def Capture.held (k : Capture) : Nat := (k.buffer.map List.length).sum

/-- Gather one record; after a loss the gap record comes first (R543). -/
def Capture.gather (k : Capture) (type time : Nat) (payload : List Byte) : Capture :=
  let gap := if k.lost = 0 then [] else [recordBytes 9 k.seq time (natLe 8 k.lost)]
  let seq := k.seq + BitVec.ofNat 32 gap.length
  let k' := { k with buffer := k.buffer ++ gap ++ [recordBytes type seq time payload], seq := seq + 1, lost := 0 }
  if 0x100000 < k'.held then { k with lost := k.lost + 1, lostNow := k.lostNow + 1 } else k'

/-- Record an event of composition `c`, if its capture runs. -/
def State.record (s : State) (c type : Nat) (payload : List Byte) : State :=
  match find? s.tst.captures c with
  | none => s
  | some k =>
    if !k.active then s
    else
      let k' := k.gather type s.time.now payload
      let s := { s with tst := { s.tst with captures := insert s.tst.captures c k' } }
      if k'.lostNow = k.lostNow then s else s.count .tstCapLost 0 c 1

/-- A code whose chapter sends it to the headland A reeve and over MCTP (R352). -/
def State.logMctp (s : State) (c : Code) : State :=
  let i := s.rel.head % 256
  let s := s.logCode c
  { s with mod := { s.mod with alerts := addOnce i s.mod.alerts } }

/-! ## Completion queues (R362-R365) -/

/-- An entry's bytes. -/
def Cqe.bytes (e : Cqe) : List Byte := dwordBytes [e.w0, e.w1, e.w2, e.w3]

/-- An event or report, and where it goes: the CQ `cq` of function `f` (R363). -/
structure Due where
  f : Nat
  cq : Nat
  kind : Nat
  code : Code
  id : Word
  w2lo : Nat
  w3 : DWord
  record : Option (List DWord)
  /-- words 2 and 3 whole, for KIND 2 and 3 -/
  raw : Option (DWord × DWord)
  /-- the composition it concerns -/
  comp : Option Nat
  /-- STATUS of a stream-status notice (R436) -/
  status : Nat := 0
  deriving DecidableEq, Repr

/-- The reporting panel's system address, 0 before assignment (Table 13-7). -/
def State.panelAddr (s : State) : Nat := match s.link.sysAddr with
  | some (a, _) => a.toNat
  | none => 0

/-- Word 1 of a completion entry without LOST, RECORD and PHASE. -/
def cqWord1 (code : Code) (status kind panel : Nat) : DWord :=
  BitVec.ofNat 64 (code.toNat * 2 ^ 32 + (status % 256) * 2 ^ 24 + (kind % 16) * 2 ^ 20 + (panel % 4096) * 2 ^ 8)

/-- Send a CQ's MSI-X message, or set its pending bit while the vector is masked (R365). -/
def State.signal (s : State) (f q : Nat) : State :=
  match find? (s.fn f).cqs q with
  | none => s
  | some c =>
    let s := s.modFn f fun x => { x with cqs := insert x.cqs q { c with unsignalled := 0 } }
    if bit (s.regs.get (msixCtrl f c.vector)) 0 then
      s.modFn f fun x => { x with pendingVec := addOnce c.vector x.pendingVec }
    else s.out (.msix f c.vector)

/-- Whether the ring has a slot the panel may write: one always stays unwritten (R362). -/
def Cq.room (c : Cq) : Bool := decide ((c.tail + 1) % c.size ≠ c.head)

/-- Write one entry to its ring slot: RECORD and the record first, then PHASE and LOST, then the interrupt rule (R362-R365). The codes
that fall due come back: a write outside the dirty log's range, or a failed write, which stops the queue. -/
def State.ringWrite (s : State) (f q : Nat) (e : Cqe) : State × List Code :=
  match find? (s.fn f).cqs q with
  | none => (s, [])
  | some c =>
    let put (s : State) (c : Cq) := s.modFn f fun x => { x with cqs := insert x.cqs q c }
    let s0 := put s { c with stopped := true }
    let stop := (if q = 0 then s0.modFn f fun x => { x with aqErr := true } else s0, [mkCode 0x40D000F1 f])
    let withRec := e.record.isSome && decide (c.recBase ≠ 0)
    let r := match e.record with
      | some ws => if withRec then s.hostWrite f c.pasid (c.recBase.toNat + 64 * c.tail) (dwordBytes ws) else some (s, false)
      | none => some (s, false)
    match r with
    | none => stop
    | some (s1, due1) =>
      let w1 := e.w1.toNat + 4 * b2n c.lost + 2 * b2n withRec + b2n c.phase
      let e := { e with w1 := BitVec.ofNat 64 w1 }
      match s1.hostWrite f c.pasid (c.base.toNat + 32 * c.tail) e.bytes with
      | none => stop
      | some (s2, due2) =>
        let tail := (c.tail + 1) % c.size
        let c := { c with tail := tail, phase := if tail = 0 then !c.phase else c.phase, lost := false,
                          unsignalled := c.unsignalled + 1, oldestAt := if c.unsignalled = 0 then s.time.now else c.oldestAt }
        let s3 := put s2 c
        let s3 := match e.comp with
          | some k =>
            let s3 := if bits e.w1 23 20 = 1 then s3.record k 4 (natLe 8 (bits e.w1 63 32 * 2 ^ 32)) else s3
            s3.record k 2 (e.bytes ++ natLe 8 (q % 65536))
          | none => s3
        let now := decide (c.aggr + 1 ≤ c.unsignalled) || (bits e.w1 23 20 == 1 && decide (8 ≤ bits e.w1 63 60))
        (if now then s3.signal f q else s3, if due1 || due2 then [mkCode 0x10D000F5 f] else [])

/-- Give an entry to its CQ: into the ring, else the panel's buffer of 256 (KIND 0 entries are never dropped), else dropped and
counted, and reported once for each run of drops (R364). -/
def State.cqPush (s : State) (f q : Nat) (e : Cqe) : State × List Code :=
  match find? (s.fn f).cqs q with
  | none => (s, [])
  | some c =>
    if c.stopped then (s, [])
    else if c.buffer.isEmpty && c.room then s.ringWrite f q e
    else if bits e.w1 23 20 = 0 ∨ (c.buffer.filter fun b => bits b.w1 23 20 ≠ 0).length < 256 then
      (s.modFn f fun x => { x with cqs := insert x.cqs q { c with buffer := c.buffer ++ [e] } }, [])
    else
      let s := (s.modFn f fun x => { x with cqs := insert x.cqs q { c with lost := true } }).count .hstCqDrop 0 f 1
      (s, if c.lost then [] else [mkCode 0x10D000F2 f])

/-- Move buffered entries into the ring while it has room. -/
def State.cqDrain : Nat → State → Nat → Nat → State × List Code
  | 0, s, _, _ => (s, [])
  | n + 1, s, f, q =>
    match find? (s.fn f).cqs q with
    | none => (s, [])
    | some c =>
      match c.buffer with
      | [] => (s, [])
      | e :: rest =>
        if c.room && !c.stopped then
          let s := s.modFn f fun x => { x with cqs := insert x.cqs q { c with buffer := rest } }
          let (s1, l1) := s.ringWrite f q e
          let (s2, l2) := State.cqDrain n s1 f q
          (s2, l1 ++ l2)
        else (s, [])

/-- The entry of an event, canary report or output notice (Tables 13-7, 13-9). -/
def State.dueEntry (s : State) (d : Due) : Cqe :=
  let w1 := cqWord1 d.code d.status d.kind s.panelAddr
  match d.raw with
  | some (w2, w3) => { w0 := 0xFFFF, w1 := w1, w2 := w2, w3 := w3, record := d.record, comp := d.comp }
  | none => { w0 := 0xFFFF, w1 := w1, w2 := BitVec.ofNat 64 (d.id.toNat * 2 ^ 32 + d.w2lo % 2 ^ 32), w3 := d.w3, record := d.record, comp := d.comp }

/-- An event for the admin CQ of function `f`. -/
def State.adminDue (s : State) (f : Nat) (c : Code) : Due :=
  { f := f, cq := 0, kind := 1, code := c, id := s.host.eventId, w2lo := 0, w3 := BitVec.ofNat 64 s.time.now, record := none, raw := none, comp := none }

/-! ## What a replay produces (R545, R546) -/

/-- A record's fields (R542). -/
def recType (r : List Byte) : Nat := leNat ((r.drop 7).take 1)
def recSeq (r : List Byte) : Word := BitVec.ofNat 32 (leNat (r.take 4))
def recTime (r : List Byte) : Nat := leNat ((r.drop 8).take 8)
def recLen (r : List Byte) : Nat := leNat ((r.drop 4).take 2)
def recWord (r : List Byte) (i : Nat) : DWord := readDWord ((r.drop 16).mapIdx fun j b => (j, b)) (8 * i)

/-- Two completion entries agree: STATUS, KIND and the code but for its site, which may name another composition, and the tag of a command's.
Times, event numbers and values that kernels compute are not reproduced (R546). -/
def sameEntry (r : List Byte) (e : Cqe) : Bool :=
  decide (bits (recWord r 1) 63 52 = bits e.w1 63 52) && decide (bits (recWord r 1) 43 20 = bits e.w1 43 20) && (decide (bits e.w1 23 20 ≠ 0) || decide (bits (recWord r 0) 63 32 = bits e.w0 63 32))

/-- A composition under replay writes no host output: what it completes or reports is compared with the next TYPE 0x02 record. -/
def State.replayOut (s : State) (c : Nat) (e : Cqe) : State :=
  match find? s.tst.replays c with
  | none => s
  | some r =>
    let r' := match r.records.find? fun x => decide (recType x = 2) with
      | none => r
      | some x =>
        if sameEntry x e then { r with records := removeFirst (fun y => decide (y = x)) r.records }
        else { r with diverged := some (r.diverged.getD (recSeq x)) }
    { s with tst := { s.tst with replays := insert s.tst.replays c r' } }

/-- A composition is under replay. -/
def State.replaying (s : State) (c : Nat) : Bool := (find? s.tst.replays c).isSome

/-- Submission queue numbers from here up stand for those in a replay's records. -/
def replaySq : Nat := 0x10000

/-- Deliver entries, and the reports that delivering them makes due: those of the host interface go to the function's admin CQ.
Each such report falls due once for a stop, a run of drops or a snapshot period, so four rounds reach the end. -/
def State.deliver : Nat → State → List Due → State
  | 0, s, _ => s
  | n + 1, s, ds =>
    let (s, more) := ds.foldl (fun (a : State × List (Nat × Code)) d =>
      let (s1, cs) := match d.comp with
        | some c => if a.1.replaying c then (a.1.replayOut c (a.1.dueEntry d), []) else a.1.cqPush d.f d.cq (a.1.dueEntry d)
        | none => a.1.cqPush d.f d.cq (a.1.dueEntry d)
      (s1, a.2 ++ cs.map fun c => (d.f, c))) (s, [])
    match more with
    | [] => s
    | _ =>
      let (s, ds) := more.foldl (fun (a : State × List Due) fc =>
        let s1 := a.1.logCode fc.2
        ({ s1 with host := { s1.host with eventId := s1.host.eventId + 1 } }, a.2 ++ [s1.adminDue fc.1 fc.2])) (s, [])
      State.deliver n s ds

/-- Deliver codes already due on function `f` (from a ring or host write). -/
def State.dueCodes (s : State) (f : Nat) (cs : List Code) : State :=
  cs.foldl (fun s c =>
    let s1 := s.logCode c
    State.deliver 4 { s1 with host := { s1.host with eventId := s1.host.eventId + 1 } } [s1.adminDue f c]) s

/-- The event of a code for composition `c`: its event CQ, the low 32 bits of its pass (R363, Table 13-9). -/
def State.compDue (s : State) (c : Nat) (code : Code) (payload : Option Nat) (record : Option (List DWord)) : List Due :=
  match s.comp? c with
  | none => []
  | some x => [{ f := x.fn, cq := x.eventCq, kind := 1, code := code, id := s.host.eventId,
                 w2lo := payload.getD (x.serve.pass % 2 ^ 32), w3 := BitVec.ofNat 64 s.time.now, record := record, raw := none, comp := some c }]

/-- Report a code to compositions, all with one EVENT_ID (R363, R481). -/
def State.reportComps (s : State) (code : Code) (cs : List Nat) (payload : Option Nat := none) (record : Option (List DWord) := none) : State :=
  let s := s.logCode code
  let ds := cs.flatMap fun c => s.compDue c code payload record
  State.deliver 4 { s with host := { s.host with eventId := s.host.eventId + 1 } } ds

/-- Report a code to every composition with a slice on the site's die (R481). -/
def State.reportDie (s : State) (d : Nat) (code : Code) : State := s.reportComps code (s.compsOnDie d)

/-- Report a code on the admin CQ of function `f`. -/
def State.reportFn (s : State) (f : Nat) (code : Code) : State :=
  let s := s.logCode code
  State.deliver 4 { s with host := { s.host with eventId := s.host.eventId + 1 } } [s.adminDue f code]

/-- Report a panel-level code on the PF admin CQ (R481). -/
def State.reportPF (s : State) (code : Code) : State := s.reportFn 0 code

/-- A write that gives a register's field a reserved encoding or a value out of range leaves the register as it is; the panel reports it
and notes the code, the offset and the count (R6, R554). `site`: the logical die, 0xFF global block, 0xFE host block. -/
def State.refuseWrite (s : State) (site off : Nat) : State :=
  let c := mkCode 0x11500200 site
  let s := ((s.setReg .glbRegErr 0 0 c.toNat).setReg .glbRegErrAddr 0 0 off).count .glbRegErrCnt 0 0 1
  if site < 24 then s.reportDie site c else s.reportPF c

/-! ## Commands on submission queues (R361, R364) -/

/-- The fetched entry `e`. -/
def State.entry? (s : State) (e : EntryRef) : Option Entry := (s.fn e.fn).entries.find? fun x => x.ref = e

/-- Word `i` of an entry. -/
def Entry.word (x : Entry) (i : Nat) : DWord := x.w.getD i 0

/-- Fields of word 0 (Table 13-4). -/
def Entry.opcode (x : Entry) : Nat := bits (x.word 0) 63 56
def Entry.comp (x : Entry) : Nat := bits (x.word 0) 55 50
def Entry.fence (x : Entry) : Bool := bit (x.word 0) 49
def Entry.tag (x : Entry) : Nat := bits (x.word 0) 31 0

/-- The opcodes whose COMP field names a composition (Tables 13-5, 14-1, 15-1, 20-2). -/
def compOp (op : Nat) : Bool :=
  decide (op = 0x18 ∨ op = 0x19 ∨ op = 0x1B ∨ op = 0x1C ∨ op = 0x1D) || decide (0x20 ≤ op ∧ op ≤ 0x27) || decide (0x40 ≤ op ∧ op ≤ 0x48)

/-- Opcodes that no command has (Tables 13-5, 14-1, 15-1, 19-3, 20-2). -/
def reservedOp (op : Nat) : Bool :=
  !(decide (op ≤ 4) || decide (8 ≤ op ∧ op ≤ 0x0C) || decide (0x10 ≤ op ∧ op ≤ 0x1D) || decide (0x20 ≤ op ∧ op ≤ 0x25) || decide (op = 0x27) ||
    decide (0x40 ≤ op ∧ op ≤ 0x46) || decide (op = 0x48))

/-- An entry with a reserved opcode, or with the reserved bit of word 0 set (Tables 13-4, 13-5). -/
def Entry.reserved (x : Entry) : Bool := reservedOp x.opcode || bit (x.word 0) 48

/-- Write the completion of a fetched entry and forget the entry. -/
def State.completeRaw (s : State) (e : EntryRef) (status : Nat) (w2 w3 : Nat) (code : Code) : State :=
  match s.entry? e with
  | none => s
  | some x =>
    let head := ((find? (s.fn e.fn).sqs e.sq).map (·.head)).getD 0
    let c : Cqe := { w0 := BitVec.ofNat 64 (x.tag * 2 ^ 32 + (head % 65536) * 2 ^ 16 + e.sq % 65536),
                     w1 := cqWord1 code status 0 s.panelAddr, w2 := BitVec.ofNat 64 w2, w3 := BitVec.ofNat 64 w3, record := none,
                     comp := if compOp x.opcode then some x.comp else none }
    let s := s.modFn e.fn fun f =>
      { f with entries := removeFirst (fun y => decide (y.ref = e)) f.entries,
               sqs := (match find? f.sqs e.sq with
                 | some q => insert f.sqs e.sq { q with told := q.head }
                 | none => f.sqs),
               cqs := (match find? f.cqs x.cq with
                 | some q => insert f.cqs x.cq { q with reserved := q.reserved - 1 }
                 | none => f.cqs) }
    if replaySq ≤ e.sq then s.replayOut x.comp c
    else
      let (s, cs) := s.cqPush e.fn x.cq c
      s.dueCodes e.fn cs

/-- An ATTEST fetched earlier has not been performed: its report shows the panel before any command fetched after it (R528). -/
def State.attestDue (s : State) (x : Entry) : Bool :=
  s.host.fns.any fun f => f.2.entries.any fun y => decide (y.opcode = 0x14) && decide (y.ref.sq = 0) && !y.started && decide (y.seq < x.seq)

/-- Whether FENCE lets the entry start (Table 13-4): a fenced entry waits for every earlier entry of its SQ to complete, and no
entry starts before an earlier fenced one has started. -/
def State.fenced (s : State) (x : Entry) : Bool :=
  (s.fn x.ref.fn).entries.all fun y =>
    decide (y.ref.sq ≠ x.ref.sq) || decide (x.ref.num ≤ y.ref.num) || (!x.fence && (!y.fence || y.started))

/-- The entry may start: FENCE lets it, and no ATTEST fetched earlier waits. -/
def State.fenceOk (s : State) (x : Entry) : Bool := s.fenced x && !s.attestDue x

/-- Reserved entries of an SQ complete with status 0x01, each once FENCE lets it start. -/
def State.settleReserved : Nat → State → Nat → Nat → State
  | 0, s, _, _ => s
  | n + 1, s, f, q =>
    match (s.fn f).entries.find? fun x => decide (x.ref.sq = q) && x.reserved && s.fenced x with
    | none => s
    | some x => State.settleReserved n (s.completeRaw x.ref 1 0 0 0) f q

/-- A DELETE_SQ whose SQ has no fetched entry left ends, and so does the admin pair that AQ_EN = 0 removes, once its completions are written (R364,
Table 13-11). -/
def State.settleSq (s : State) (f q : Nat) : State :=
  if (s.fn f).entries.any fun x => decide (x.ref.sq = q) then s
  else
    match find? (s.fn f).sqs q with
    | none => s
    | some sq =>
      match sq.deleting with
      | some d => (s.modFn f fun x => { x with sqs := erase x.sqs q }).completeRaw d 0 0 0 0
      | none =>
        if q = 0 ∧ (s.fn f).aqRemoving ∧ (find? (s.fn f).cqs 0).all (fun c => c.stopped || c.buffer.isEmpty) then
          (s.modFn f fun x => { x with sqs := erase x.sqs 0, cqs := erase x.cqs 0, aqEn := false, aqRemoving := false }).setReg
            .hstFnCtrl 0 f 0
        else s

/-- States of the serving loop in which a pass is in progress (Table 15-4). -/
def ServeState.running : ServeState → Bool
  | .gather | .reserve | .encode | .decode | .vocode | .emit | .commit => true
  | _ => false

/-- A composition has stopped at a pass boundary. -/
def ServeState.still (v : ServeState) : Bool := !v.running && decide (v ≠ .rollback)

/-- A quiescing function is quiesced once its compositions have stopped, none of them is being torn down, and no other entry it has fetched is open;
QUIESCE completes, with status 0x07 where its time limit has passed (R373, R374). -/
def State.settleQuiesce (s : State) (f : Nat) : State :=
  match (s.fn f).quiescing with
  | none => s
  | some e =>
    let stopped (c : Nat × Comp) : Bool := c.2.serve.st.still && s.yoke.teardowns.all fun t => decide (t.2.comp ≠ c.1)
    if (s.fn f).entries.all (fun y => decide (y.ref = e)) && s.yoke.comps.all fun c => decide (c.2.fn ≠ f) || stopped c then
      let late := (s.fn f).quiesceLate
      (s.modFn f fun x => { x with quiescing := none, quiesceLate := false, quiesced := true }).completeRaw e (if late then 7 else 0) 0 0 0
    else s

/-- Complete a fetched entry with a status and payload words (Tables 13-7, 13-8). -/
def State.complete (s : State) (e : EntryRef) (status : Nat) (w2 : Nat := 0) (w3 : Nat := 0) (code : Code := 0) : State :=
  let s := s.completeRaw e status w2 w3 code
  let s := s.settleReserved (s.fn e.fn).entries.length e.fn e.sq
  ((s.settleSq e.fn e.sq).settleSq e.fn 0).settleQuiesce e.fn

/-- Mark an entry started. -/
def State.startEntry (s : State) (e : EntryRef) : State :=
  s.modFn e.fn fun f => { f with entries := f.entries.map fun y => if y.ref = e then { y with started := true } else y }

/-- The admin opcodes that a quiesced function accepts (R374). -/
def quiescedOk (op : Nat) : Bool := [0x03, 0x04, 0x08, 0x09, 0x0A, 0x0B, 0x0C].contains op

/-- The opcodes that carry a time in word 1; a NOP completes whatever it holds (Tables 13-4, 13-5, 15-2). -/
def timedOp (op : Nat) : Bool := [0x00, 0x40, 0x44, 0x45].contains op

/-- Perform a command whose entry has been fetched; but for UNBIND the reeve takes none from a queue for a composition under replay (R545). It
must carry opcode `op`; on the wrong kind of queue it completes with status 0x02, and so does one that a quiesced function does not accept (Table
13-5, R374); a TIME where none belongs is an invalid entry (Table 13-4). -/
def State.command (s : State) (e : EntryRef) (op : Nat) (admin : Option Bool) (body : Entry → State → State) : State :=
  match s.entry? e with
  | none => s
  | some x =>
    if x.opcode ≠ op ∨ x.started ∨ !s.fenceOk x ∨ (e.sq < replaySq ∧ compOp op ∧ op ≠ 0x22 ∧ s.replaying x.comp) then s
    else
      let s := s.startEntry e
      if admin.any fun a => decide (a ≠ decide (e.sq % replaySq = 0)) then s.complete e 2
      else if e.sq = 0 ∧ (s.fn e.fn).quiesced ∧ !quiescedOk op then s.complete e 2
      else if !timedOp op ∧ x.word 1 ≠ 0 then s.complete e 1
      else body x s

/-- The slices of function `f`: its dies (R369, HST_FN_DIES). -/
def State.fnDies (s : State) (f : Nat) : List Nat :=
  if s.host.vfs = 0 then (if f = 0 then upto 24 else [])
  else if f = 0 ∨ s.host.vfs < f then []
  else (upto 24).filter fun d => decide ((f - 1) * 24 / s.host.vfs ≤ d) && decide (d < f * 24 / s.host.vfs)

/-- The public key of the ML-DSA-87 pair of a seed, and a signature by it, as bytes (R513). -/
def mldsaKey (seed : List Byte) : List Byte := natLe 2592 (Config.mldsaPublic seed).toNat
def mldsaSig (seed msg : List Byte) : List Byte := natLe 4627 (Config.mldsaSign seed msg).toNat

end Sys2Proof.Machine
end

