-- ==== Sys2Proof/Machine/Address.lean ====
section
/-! DEFINITION. Addresses: channels and interleave sets (R282-R286), regions and epochs (R389-R394), panel fields (R179), the homes and sets of sectors (R226, R227). -/

namespace Sys2Proof.Machine

open Sys2Proof

/-- Bytes of a channel and of the panel's DRAM (R9, R282). -/
def channelBytes : Nat := 0x90000000
def dramBytes : Nat := 0xD800000000

/-- The logical die whose stack holds a device physical address (R282). -/
def dieOfDpa (dpa : Nat) : Nat := dpa / channelBytes / 16

/-- The slice that owns a device physical address (R283). -/
def sliceOfDpa (dpa : Nat) : Nat := dpa / (2 * channelBytes)

/-- The home die of a sector number, and its owning slice (R226, R257). -/
def homeOf (sector : Nat) : Nat := dieOfDpa (256 * sector)
def ownerSlice (sector : Nat) : Nat := sliceOfDpa (256 * sector)

/-- The 12-bit granary index of a line: segment in [11:10], set in [9:0] (R227). -/
def granIndex (dpa : Nat) : Nat :=
  (dpa >>> 10) % 4096 ^^^ (dpa >>> 22) % 4096 ^^^ (dpa >>> 34) % 64

/-- XOR of the `j`-bit chunks of a line number (R286). -/
def foldChunks (j : Nat) : Nat → Nat → Nat
  | 0, _ => 0
  | n + 1, l => if l = 0 then 0 else (l % 2 ^ j) ^^^ foldChunks j n (l >>> j)

/-- The device physical address of set offset `x` in an interleave set of 2^j channels (R286). -/
def setPlace (chs : List Nat) (x : Nat) : Nat :=
  let j := Nat.log2 chs.length
  let l := x / 1024
  let e := if j = 0 then 0 else foldChunks j 40 l
  chs.getD e 0 * channelBytes + (l >>> j) * 1024 + x % 1024

/-- The set offset that a device physical address has in a set, if the set holds its channel: the inverse of `setPlace`. -/
def setOffset? (chs : List Nat) (dpa : Nat) : Option Nat :=
  let j := Nat.log2 chs.length
  let e := chs.idxOf (dpa / channelBytes)
  if chs.length ≤ e then none
  else
    let o := dpa % channelBytes
    let hi := (o / 1024) <<< j
    let low := if j = 0 then 0 else e ^^^ foldChunks j 40 (hi >>> j)
    some ((hi + low) * 1024 + o % 1024)

/-- The channels of set `n` in a map. -/
def EpochMap.set (m : EpochMap) (n : Nat) : List Nat := (find? m.sets n).getD []

/-- Bytes of a set. -/
def setBytes (chs : List Nat) : Nat := chs.length * channelBytes

/-- The region that holds offset `a` (R390). -/
def EpochMap.region? (m : EpochMap) (a : Nat) : Option Region :=
  m.regions.find? fun r => decide (r.vbase ≤ a) && decide (a < r.vbase + r.size)

/-- The map that an epoch routes under, while that epoch is live (R392, R394). -/
def Comp.mapOf (c : Comp) (e : Byte) : Option EpochMap :=
  if e = c.cur.epoch then some c.cur
  else match c.prev with
    | some m => if m.epoch = e then some m else none
    | none => none

/-- A translated device address: where it lies and how its page is mapped; the composition, region and offset that a refetch
restores it through (a KIND 01 mapping names the region it shares, R485). -/
structure Xlat where
  dpa : Nat
  ro : Bool
  uncached : Bool
  code : Bool
  comp : Nat
  region : Region
  off : Nat
  deriving DecidableEq, Repr

/-- The place behind offset `b` of composition `c`'s current map, through the regions that are themselves shared: its device physical address, and
the composition, region and offset it lies at (R390). -/
def State.sharedPlace (s : State) : Nat → Nat → Nat → Option (Nat × Nat × Region × Nat)
  | 0, _, _ => none
  | n + 1, c, b =>
    match s.comp? c with
    | none => none
    | some y =>
      match y.cur.region? b with
      | none => none
      | some r =>
        if r.shared then s.sharedPlace n r.srcComp (r.srcVbase + (b - r.vbase))
        else some (setPlace (y.cur.set r.set) (r.offset + (b - r.vbase)), c, r, b - r.vbase)

/-- The longest chain of shared regions: every region of every composition. -/
def shareDepth : Nat := 64 * 64

/-- Translate offset `a` of composition `c`'s space on this panel under epoch `e` (R390, R394). -/
def State.translate (s : State) (c : Nat) (e : Byte) (a : Nat) : Option Xlat :=
  match s.comp? c with
  | none => none
  | some x =>
    match x.mapOf e with
    | none => none
    | some m =>
      match m.region? a with
      | none => none
      | some r =>
        if r.shared then
          (s.sharedPlace shareDepth r.srcComp (r.srcVbase + (a - r.vbase))).map fun y =>
            { dpa := y.1, ro := true, uncached := r.uncached, code := r.code, comp := y.2.1, region := y.2.2.1, off := y.2.2.2 }
        else
          some { dpa := setPlace (m.set r.set) (r.offset + (a - r.vbase)), ro := r.ro, uncached := r.uncached, code := r.code,
                 comp := c, region := r, off := a - r.vbase }

/-- What the panel field of a composition address names (R179). -/
inductive PanelField where
  | here | other | nowhere
  deriving DecidableEq, Repr

/-- Decode the panel field for composition `c`. -/
def State.panelField (s : State) (c : Nat) (a : DWord) : PanelField :=
  let p := bits a 59 48
  match s.comp? c with
  | none => .nowhere
  | some x =>
    if bits a 63 60 ≠ 0 then .nowhere
    else
      match s.link.sysAddr, x.span with
      | some (own, _), true => if p = own.toNat then .here else .other
      | some (own, _), false => if p = 0 ∨ p = own.toNat then .here else .nowhere
      | none, _ => if p = 0 then .here else .nowhere

/-- Accesses of the newest epoch to a writable region wait at translation while its move is in the final phase (R400). -/
def Comp.holds (c : Comp) (e : Byte) (r : Region) : Bool :=
  match c.move with
  | some m => decide (m.phase = .final) && decide (e = c.cur.epoch) && decide (m.vbase = r.vbase) && !r.ro
  | none => false

/-- Whether an access through a translation is held (R400). -/
def State.heldAt (s : State) (c : Nat) (e : Byte) (x : Xlat) : Bool :=
  match s.comp? c with
  | some k => decide (x.comp = c) && k.holds e x.region
  | none => false

/-- The replica's place for a read through a read-only region whose home is under reset (R504). -/
def State.replicaOf (s : State) (x : Xlat) : Option Nat :=
  if x.ro ∧ x.region.replica ≠ 0 then
    match s.comp? x.comp with
    | none => none
    | some y =>
      match y.cur.region? x.region.replica with
      | none => none
      | some r => some (setPlace (y.cur.set r.set) (r.offset + x.off))
  else none

/-- A page can be read at its home: the partition is in service, and a read-only page lost in a reset has been refilled (R502, R504). -/
def State.servable (s : State) (x : Xlat) : Bool :=
  s.dieUp (dieOfDpa x.dpa) && !(x.ro && (s.comp? x.comp).any fun y => y.lost.contains (dieOfDpa x.dpa))

/-- The global channels of a slice (R283). -/
def channelsOf (slice : Nat) : List Nat := [2 * slice, 2 * slice + 1]

end Sys2Proof.Machine
end

