-- ==== Sys2Proof/Machine/Drill.lean ====
section
/-! DEFINITION. Drills: registers, paths and their selection (R119-R124), leaving and taking a wait, traps, parking and fault records (R133-R141). -/

namespace Sys2Proof.Machine

open Sys2Proof

/-! ## Registers (R107, R113) -/

/-- General register `r` of thread `t`. -/
def Drill.greg (x : Drill) (t r : Nat) : Word := getD 0 x.g (64 * t + r)
def Drill.setG (x : Drill) (t r : Nat) (v : Word) : Drill := { x with g := setD 0 x.g (64 * t + r) v }

/-- Drill-uniform register `r`. -/
def Drill.ureg (x : Drill) (r : Nat) : Word := getD 0 x.u r
def Drill.setU (x : Drill) (r : Nat) (v : Word) : Drill := { x with u := setD 0 x.u r v }

/-- Predicate `r` of all threads, one bit each. -/
def Drill.preg (x : Drill) (r : Nat) : DWord := getD 0 x.p r
def Drill.pbit (x : Drill) (t r : Nat) : Bool := bit (x.preg r) t
/-- Write predicate `r` in the threads of `m` from the bits of `v`. -/
def Drill.setP (x : Drill) (r : Nat) (m v : DWord) : Drill :=
  { x with p := setD 0 x.p r ((x.preg r &&& ~~~ m) ||| (v &&& m)) }

/-- The threads of a mask, rising. -/
def threads (m : DWord) : List Nat := (upto 64).filter fun t => bit m t

/-- The mask of the threads that satisfy `p`. -/
def maskWhere (p : Nat → Bool) : Nat → DWord
  | 0 => 0
  | n + 1 => maskWhere p n ||| (if p n then BitVec.ofNat 64 (2 ^ n) else 0)

/-- All live threads (R119). -/
def Drill.live (x : Drill) : DWord :=
  (x.paths.foldl (fun m p => m ||| p.mask) 0) ||| (match x.cur with | some p => p.mask | none => 0)

/-! ## Path selection (R119-R124) -/

/-- A path that could run. -/
def Path.ready (p : Path) : Bool := decide (p.wait = .runnable)

/-- The ready path with the lowest PC. -/
def lowestReady : List Path → Option Path
  | [] => none
  | p :: ps =>
    match lowestReady ps with
    | none => if p.ready then some p else none
    | some q => if p.ready && decide (p.pc.toNat ≤ q.pc.toNat) then some p else some q

/-- The ready path that has waited longest since it last ran; ties go to the lowest PC. -/
def longestWaiting : List Path → Option Path
  | [] => none
  | p :: ps =>
    match longestWaiting ps with
    | none => if p.ready then some p else none
    | some q =>
      if p.ready && (decide (p.since < q.since) || (decide (p.since = q.since) && decide (p.pc.toNat ≤ q.pc.toNat))) then some p
      else some q

/-- Add a path to a list, joining it to the path of the same PC and wait state (R119); sync-waiting threads stand by the DSYNC executed last (R133).
DESIGN CHOICE: a path that another joins while it waits has waited, for R122's rotation, as long as the older of the two; lock-waiting threads at one PC
that watch different lines are kept as paths of their own, so that a write to one line releases only the threads that watch it. -/
def addPath (p : Path) : List Path → List Path
  | [] => [p]
  | q :: qs =>
    if q.pc = p.pc ∧ q.wait = p.wait then { q with mask := q.mask ||| p.mask, since := if p.wait = .sync then max q.since p.since else min q.since p.since } :: qs
    else q :: addPath p qs

/-- Put the running path back among the others. -/
def Drill.shelve (x : Drill) : Drill :=
  match x.cur with
  | none => x
  | some p => { x with cur := none, paths := addPath { p with since := x.stamp } x.paths, stamp := x.stamp + 1 }

/-- run(Q): the path gets a budget of 16; only a rotation opens a window (R122, R123). -/
def Drill.run (x : Drill) (q : Path) (window : Option Nat) : Drill :=
  let y := x.shelve
  let hit (p : Path) : Bool := decide (p.pc = q.pc) && decide (p.wait = q.wait)
  { y with cur := some ((y.paths.find? hit).getD q), paths := removeFirst hit y.paths, budget := 16, window := window }

/-- run(runnable path with lowest PC); the drill is not ready when there is none. -/
def Drill.runLowest (x : Drill) : Drill :=
  let y := x.shelve
  match lowestReady y.paths with
  | some q => y.run q none
  | none => y

/-- rotate(P) (R122). -/
def Drill.rotate (x : Drill) : Drill :=
  match x.cur with
  | none =>
    match longestWaiting x.paths with
    | some q => x.run q (some 256)
    | none => x
  | some _ =>
    match longestWaiting x.paths with
    | some q => x.run q (some 256)
    | none => { x with budget := 16 }

/-- ARRIVE: the running path takes in a ready path at its PC, and its window ends (R122, R123). -/
def Drill.arrive (x : Drill) : Drill :=
  match x.cur with
  | none => x
  | some p =>
    match x.paths.find? fun q => q.ready && decide (q.pc = p.pc) with
    | none => x
    | some q =>
      { x with cur := some { p with mask := p.mask ||| q.mask }, window := none,
               paths := removeFirst (fun r => r.ready && decide (r.pc = p.pc)) x.paths }

/-- After paths have become ready: they join the running path at its PC, or the lowest of them runs. -/
def Drill.wake (x : Drill) : Drill :=
  match x.cur with
  | some _ => x.arrive
  | none => x.runLowest

/-- One executed instruction of the rotation window (R123). -/
def Drill.countWindow (x : Drill) : Drill :=
  { x with window := match x.window with
      | some (n + 2) => some (n + 1)
      | _ => none }

/-- The running path goes on at the next instruction. -/
def Drill.retire (x : Drill) : Drill :=
  match x.cur with
  | none => x
  | some p => ({ x with cur := some { p with pc := p.pc + 8 } }.countWindow).arrive

/-- The running path takes a branch as a whole to `t` (R122). DESIGN CHOICE: where a forward branch in a window reaches the PC of a runnable path, ARRIVE
comes first and ends the window, so that TAKEN_FORWARD's test for a lower PC follows outside it; R122 gives no order of the two. -/
def Drill.jump (x : Drill) (t : BitVec 48) : Drill :=
  match x.cur with
  | none => x
  | some p =>
    let y := { x with cur := some { p with pc := t } }.countWindow
    if t.toNat ≤ p.pc.toNat then
      let y := { y with window := none }.arrive
      if y.budget ≤ 1 then { y with budget := 0 }.rotate else { y with budget := y.budget - 1 }
    else
      let y := y.arrive
      match lowestReady y.paths with
      | some q => if y.window.isNone && decide (q.pc.toNat < t.toNat) then y.run q none else y
      | none => y

/-- SPLIT: the running path divides into parts by next PC, all ready, and the part with the lowest PC runs (R122). -/
def Drill.split (x : Drill) (parts : List (DWord × BitVec 48)) : Drill :=
  match x.cur with
  | none => x
  | some p =>
    let new := parts.map fun m => { mask := m.1, pc := m.2, wait := Wait.runnable, since := x.stamp : Path }
    let y := { x with cur := none, paths := new.foldl (fun ps q => addPath q ps) x.paths, stamp := x.stamp + 1 }
    match lowestReady new with
    | some q =>
      match y.paths.find? fun r => r.ready && decide (r.pc = q.pc) with
      | some r => y.run r none
      | none => { y with cur := some p }
    | none => y

/-- The threads of `m` leave the running path for a wait at `pc`; the others go on at the next instruction (R149). -/
def Drill.waitAt (x : Drill) (m : DWord) (pc : BitVec 48) (w : Wait) : Drill :=
  match x.cur with
  | none => x
  | some p =>
    let rest := p.mask &&& ~~~ m
    let y := { x with cur := none, stamp := x.stamp + 1,
                      paths := addPath { mask := m, pc := pc, wait := w, since := x.stamp } x.paths }
    if rest = 0 then y
    else { y with paths := addPath { mask := rest, pc := p.pc + 8, wait := .runnable, since := x.stamp } y.paths }

/-- Make ready every path whose wait satisfies `p`; a parked drill's paths keep their wait states (R137). -/
def Drill.release (x : Drill) (p : Wait → Bool) : Drill :=
  if decide (x.status = .active) && x.paths.any fun q => p q.wait then
    let woken := x.paths.filter fun q => p q.wait
    let kept := x.paths.filter fun q => !p q.wait
    { x with paths := woken.foldl (fun (ps : List Path) (q : Path) => addPath { q with wait := .runnable } ps) kept }.wake
  else x

/-! ## Drills in the state -/

/-- Key of a slot: 8 × engine + slot. -/
def slotKey (d : DrillRef) : Nat := 8 * d.engine + d.slot

def State.drill? (s : State) (d : DrillRef) : Option Drill := find? (s.core d.slice).drills (slotKey d)
/-- The drills that a slot stands for: the one that holds it, and the one of a saved image (R141). -/
def State.drillsOf (s : State) (d : DrillRef) : List Drill :=
  (s.drill? d).toList ++ ((s.core d.slice).saved.bind fun v => find? v.drills (slotKey d)).toList
def State.setDrill (s : State) (d : DrillRef) (x : Drill) : State :=
  s.modCore d.slice fun c => { c with drills := insert c.drills (slotKey d) x }
def State.modDrill (s : State) (d : DrillRef) (f : Drill → Drill) : State :=
  match s.drill? d with
  | some x => s.setDrill d (f x)
  | none => s
def State.freeDrill (s : State) (d : DrillRef) : State :=
  s.modCore d.slice fun c => { c with drills := erase c.drills (slotKey d) }

/-- Apply `f` to every drill of a core. -/
def Core.mapDrills (c : Core) (f : Drill → Drill) : Core := { c with drills := mapVals (fun _ x => f x) c.drills }

/-- Apply `f` to the drill of context `ctx` in slot `key` of the saved image. -/
def Core.modSaved (c : Core) (key : Nat) (ctx : Half) (f : Drill → Drill) : Core :=
  match c.saved with
  | none => c
  | some v =>
    match find? v.drills key with
    | some x => if x.context = ctx then { c with saved := some { v with drills := insert v.drills key (f x) } } else c
    | none => c

/-- Apply `f` to every drill of the panel. -/
def State.mapDrills (s : State) (f : Drill → Drill) : State :=
  { s with cores := mapVals (fun _ c => c.mapDrills f) s.cores }

/-- A write to the 256-byte line `l` releases the paths that watch it, and an LWAIT that has armed its monitor notes it (R125, R126). -/
def State.wakeLine (s : State) (l : Nat) : State :=
  s.mapDrills fun x =>
    ({ x with mem := x.mem.map fun m => { m with woken := m.woken || m.watch.contains l } } : Drill).release fun w => match w with
      | .lock ls => ls.contains l
      | _ => false

/-- Release the paths of a core whose wait has ended: array and transfer tokens, tally targets (R91, R184, R196). They are ready at
the wait instruction, which then finds its condition true. -/
def Core.releaseWaits (c : Core) : Core :=
  { c with drills := mapVals (fun k x =>
      x.release fun w => match w with
        | .transfer t => decide (0 ≤ (c.xferDone - t).toInt)
        | .tally n target => decide (0 ≤ ((getD ⟨0, none, false⟩ c.tallies n).value - target).toInt)
        | .array t => decide (0 ≤ (c.arrayDone - t).toInt)
        | .arrayAll => c.queue.all fun a => decide (slotKey a.drill ≠ k)
        | _ => false) c.drills }

/-! ## Traps (Table 04-4) -/

/-- Code of a trap without its site. -/
def Trap.base (t : Trap) : Nat :=
  match t with
  | .illegal => 0x30500070
  | .registerRange => 0x30500071
  | .misaligned => 0x30500072
  | .notMapped => 0x30500073
  | .readOnly => 0x30500074
  | .seedbedRange => 0x30500075
  | .poisoned => 0x30500076
  | .divergentCollective => 0x30500077
  | .syncMismatch => 0x30500078
  | .barrierMismatch => 0x30500079
  | .software => 0x3050007A
  | .report => 0x1050007A
  | .breakpoint => 0x3050007B
  | .arrayFault1 => 0x30400060
  | .arrayFault4 => 0x30400061
  | .arrayCheck => 0x30300041

/-- Priority number of a trap; the lowest is taken (R134). -/
def Trap.priority (t : Trap) : Nat :=
  match t with
  | .illegal => 1
  | .registerRange => 2
  | .divergentCollective => 3
  | .barrierMismatch => 4
  | .syncMismatch => 5
  | .seedbedRange => 6
  | .misaligned => 7
  | .notMapped => 8
  | .readOnly => 9
  | .poisoned => 10
  | .software | .report | .breakpoint => 11
  | .arrayFault1 | .arrayFault4 | .arrayCheck => 12

/-- Deferred traps are raised at a wait instruction; replay is not available for them (R137). -/
def Trap.deferred (t : Trap) : Bool := decide (t.priority = 12)

/-- The fault record of Table 04-5. -/
def faultWords (d : DrillRef) (x : Drill) (r : TrapRec) (now : Nat) : List DWord :=
  [ BitVec.ofNat 64 ((mkCode r.trap.base d.slice).toNat * 2 ^ 32 + x.context.toNat * 2 ^ 16 + x.tag.toNat),
    BitVec.ofNat 64 ((d.engine % 4) * 2 ^ 56 + (d.slot % 8) * 2 ^ 53 + r.pc.toNat),
    r.faultMask, r.pathMask, r.instr, r.detail,
    BitVec.ofNat 64 ((x.comp % 64) * 2 ^ 58 + x.epoch.toNat * 2 ^ 50 + x.pass.toNat),
    BitVec.ofNat 64 now ]

/-- Write a fault record to the die's queue of 256, or let it wait while the queue is full (R136). -/
def State.pushRecord (s : State) (d : DrillRef) (x : Drill) (r : TrapRec) : State :=
  let rec_ : FaultRec := { w := faultWords d x r s.time.now, slice := d.slice }
  s.modDie (dieOf d.slice) fun y =>
    if y.faults.length < 256 ∧ y.faultWait.isEmpty then { y with faults := y.faults ++ [rec_] }
    else { y with faultWait := y.faultWait ++ [rec_] }

/-- A trap parks the whole drill and writes its fault record, or leaves it waiting while the die's queue of 256 is full (R135, R136). -/
def State.park (s : State) (d : DrillRef) (t : Trap) (faultMask detail word : DWord) : State :=
  match s.drill? d with
  | none => s
  | some x =>
    let (pc, pm) := match x.cur with
      | some p => (p.pc, p.mask)
      | none => (0, 0)
    let r : TrapRec := { trap := t, pc := pc, faultMask := faultMask, pathMask := pm, instr := word, detail := detail }
    (s.setDrill d { x with status := .parked r, mem := none }).pushRecord d x r

/-- The drill of context `ctx` in a slot waits for its loads no longer: their answers find no one (R459). -/
def State.abandonLoads (s : State) (d : DrillRef) (ctx : Half) : State :=
  let off (w : WaitLoad) : WaitLoad := if w.drill = d ∧ w.context = ctx then { w with dead := true } else w
  let s := s.modCore d.slice fun c => { c with cache := mapVals (fun _ l => { l with loads := l.loads.map off }) c.cache }
  s.modDie (dieOf d.slice) fun y => { y with leases := mapVals (fun _ l => { l with loads := l.loads.map off }) y.leases }

/-- Stores or add-to-lines of a drill that can no longer be performed, for their home was reset or holds poison: they end, and the drill takes the
poisoned-data trap of the first one, at its PC (`all` that satisfy `p`, or the first); one that is parked already takes no second trap (R133, R135, R239, Table 18-6). -/
def State.loseStores (s : State) (d : DrillRef) (ctx : Half) (all : Bool) (p : Unperf → Bool) : State :=
  let clear (x : Drill) : Drill := { x with unperformed := if all then x.unperformed.filter fun u => !p u else removeFirst p x.unperformed }
  let parked (u : Unperf) : TrapRec :=
    { trap := .poisoned, pc := u.pc, faultMask := u.mask, pathMask := u.mask, instr := u.word, detail := u.addr }
  let take (x : Drill) : Drill × Option TrapRec :=
    match x.unperformed.find? p, x.status with
    | some _, .parked _ => (clear x, none)
    | some u, _ => ({ clear x with status := .parked (parked u), mem := none }, some (parked u))
    | none, _ => (x, none)
  let c := s.core d.slice
  let put (s : State) (x : Drill) (r : Option TrapRec) : State := match r with
    | some r => (s.abandonLoads d ctx).pushRecord d x r
    | none => s
  let mine (x : Drill) : Bool := decide (x.context = ctx)
  match (find? c.drills (slotKey d)).filter mine, (c.saved.bind fun v => find? v.drills (slotKey d)).filter mine with
  | some x, _ => put (s.setDrill d (take x).1) x (take x).2
  | none, some x => put (s.setCore d.slice (c.modSaved (slotKey d) ctx fun y => (take y).1)) x (take x).2
  | none, none => s

/-! ## Leaving the machine's slots -/

/-- The drill's own array instructions that are not complete (R121). -/
def Core.drillArrays (c : Core) (d : DrillRef) : List ArrayInstr := c.queue.filter fun a => decide (a.drill = d)

/-- The trap of a failed array instruction's status (Table 03-7). -/
def arrayTrap (status : Nat) : Trap := if status = 1 then .arrayFault1 else if status = 2 then .arrayCheck else .arrayFault4

/-- Take the trap of the drill's oldest failed array token, at the wait instruction `word`; none when it has none (R95, R135). -/
def State.deferredTrap (s : State) (d : DrillRef) (mask word : DWord) : Option State :=
  match s.drill? d with
  | none => none
  | some x =>
    match x.failed with
    | [] => none
    | (t, st) :: rest => some ((s.setDrill d { x with failed := rest }).park d (arrayTrap st) mask (t.setWidth 64) word)

/-- End a draining drill once its array instructions are complete and its accesses performed: a failed one not yet reported parks it
at its EXIT, else its slot is free (R95, R121, R212). -/
def State.drainDrill (s : State) (d : DrillRef) : State :=
  match s.drill? d with
  | none => s
  | some x =>
    match x.status with
    | .draining pc mask word =>
      if !((s.core d.slice).drillArrays d).isEmpty ∨ !x.unperformed.isEmpty then s
      else
        match (s.setDrill d { x with cur := some { mask := mask, pc := pc, wait := .runnable, since := x.stamp } }).deferredTrap d mask word with
        | some t => t.modDrill d fun y => { y with cur := none }
        | none => s.freeDrill d
    | _ => s

end Sys2Proof.Machine
end

