-- ==== Sys2Proof/Machine/Extents.lean ====
section
/-! DEFINITION. Descriptors of array instructions and transfers (Tables 03-4, 06-2), their extents, and the core's range tracker (R98-R101, R186). -/

namespace Sys2Proof.Machine

open Sys2Proof

/-! ## Spans -/

/-- What a span of addresses lies in. -/
inductive Space where
  | seedbed | device | host
  deriving DecidableEq, Repr

/-- Addresses [lo, hi) of one space. -/
structure Span where
  space : Space
  lo : Int
  hi : Int
  deriving DecidableEq, Repr

def Span.overlaps (a b : Span) : Bool := decide (a.space = b.space) && decide (a.lo < b.hi) && decide (b.lo < a.hi)

/-- The seedbed bytes of `n` granules from granule `g` up. -/
def granules (g n : Nat) : Span := { space := .seedbed, lo := 32 * (g : Int), hi := 32 * ((g + n : Nat) : Int) }

def ceilDiv (a b : Nat) : Nat := (a + b - 1) / b

/-! ## The matrix descriptor (Table 03-4) -/

/-- Fields of a matrix descriptor; counts already without their minus 1. -/
structure ArrayDesc where
  shape : Nat
  wfmt : Nat
  afmt : Nat
  qfmt : Nat
  ofmt : Nat
  acc : Bool
  outl : Bool
  ref : Bool
  nb : Nat
  kt : Nat
  nc : Nat
  kr : Nat
  waddr : Nat
  wsaddr : Nat
  aaddr : Nat
  asaddr : Nat
  astride : Nat
  oaddr : Nat
  osaddr : Nat
  oladdr : Nat
  ostride : Nat
  raddr : Nat
  rsv : Nat
  deriving DecidableEq, Repr

def arrayDesc (w : List DWord) : ArrayDesc :=
  let w0 := w.getD 0 0
  let w1 := w.getD 1 0
  let w2 := w.getD 2 0
  let w3 := w.getD 3 0
  { shape := bits w0 63 62, wfmt := bits w0 61 57, afmt := bits w0 56 52, qfmt := bits w0 51 47, ofmt := bits w0 46 42,
    acc := bit w0 41, outl := bit w0 40, ref := bit w0 39, nb := bits w0 38 31 + 1, kt := bits w0 30 27 + 1,
    nc := (bits w0 26 21 + 1) * 32, kr := (bits w0 20 17 + 1) * 32, waddr := bits w0 16 0,
    wsaddr := bits w1 63 47, aaddr := bits w1 46 30, asaddr := bits w1 29 13, astride := bits w1 12 0,
    oaddr := bits w2 63 47, osaddr := bits w2 46 30, oladdr := bits w2 29 13, ostride := bits w2 12 0,
    raddr := bits w3 63 47, rsv := bits w3 46 0 }

/-- Bits of an element of a format (Table 03-5). -/
def fmtBits (c : Nat) : Nat :=
  if c ≤ 0x03 then 4 else if c ≤ 0x07 then 2 else if c ≤ 0x0B then 6 else if c ≤ 0x10 then 8 else if c = 0x11 then 16 else 32

/-- Block-scaled formats: odd codes up to 0x0F, and MXINT8 (R89, Table 02-1). -/
def fmtScaled (c : Nat) : Bool := (decide (c ≤ 0x0F) && decide (c % 2 = 1)) || decide (c = 0x10)

namespace ArrayDesc

/-- Rows of the whole instruction. -/
def k (d : ArrayDesc) : Nat := d.kt * d.kr

/-- The quantizer runs: BF16 or FP32 activations against weights that are not BF16. -/
def quantizes (d : ArrayDesc) : Bool := decide (d.afmt = 0x11 ∨ d.afmt = 0x12) && decide (d.wfmt ≠ 0x11)

/-- Granules of one tile or vector of each operand (Table 03-3). -/
def wGran (d : ArrayDesc) : Nat := ceilDiv (d.kr * d.nc * fmtBits d.wfmt) 256
def wsGran (d : ArrayDesc) : Nat := ceilDiv (d.kr * d.nc) 1024
def aGran (d : ArrayDesc) : Nat := ceilDiv (d.k * fmtBits d.afmt) 256
def asGran (d : ArrayDesc) : Nat := ceilDiv d.k 1024
def oGran (d : ArrayDesc) : Nat := ceilDiv (d.nc * fmtBits d.ofmt) 256
def osGran (d : ArrayDesc) : Nat := ceilDiv d.nc 1024
def olGran (d : ArrayDesc) : Nat := ceilDiv (32 + 8 * (d.kr + d.kr / 32)) 32
def rGran (d : ArrayDesc) : Nat := ceilDiv (d.kr * d.nc) 32 + ceilDiv (d.kr * d.nc) 1024

def wSpans (d : ArrayDesc) : List Span :=
  [granules d.waddr (d.kt * d.wGran)] ++ (if fmtScaled d.wfmt then [granules d.wsaddr (d.kt * d.wsGran)] else [])
def aSpans (d : ArrayDesc) : List Span :=
  [granules d.aaddr ((d.nb - 1) * d.astride + d.aGran)] ++
    (if fmtScaled d.afmt then [granules d.asaddr (d.nb * d.asGran)] else [])
def oSpans (d : ArrayDesc) : List Span :=
  [granules d.oaddr ((d.nb - 1) * d.ostride + d.oGran)] ++
    (if fmtScaled d.ofmt then [granules d.osaddr (d.nb * d.osGran)] else [])
def sideSpans (d : ArrayDesc) : List Span :=
  (if d.outl then [granules d.oladdr (d.kt * d.olGran)] else []) ++ (if d.ref then [granules d.raddr (d.kt * d.rGran)] else [])

end ArrayDesc

/-- The read extents an array instruction still holds, and its write extents (R98, R100). A poisoned descriptor reads and writes
nothing (R87). -/
def ArrayInstr.reads (a : ArrayInstr) : List Span :=
  let d := arrayDesc a.desc
  if a.descPoisoned then []
  else (if a.freedW then [] else d.wSpans) ++ (if a.freedA then [] else d.aSpans) ++ d.sideSpans ++
    (if d.acc && !a.freedI then d.oSpans else [])
def ArrayInstr.writes (a : ArrayInstr) : List Span := if a.descPoisoned then [] else (arrayDesc a.desc).oSpans

/-! ## The transfer descriptor (Table 06-2) -/

/-- Fields of a transfer descriptor. -/
structure XferDesc where
  op : Nat
  skind : Nat
  dkind : Nat
  shint : Nat
  dhint : Nat
  tally : Bool
  crec : Bool
  nrows : Nat
  len : Nat
  saddr : Nat
  daddr : Nat
  sstride : Int
  dstride : Int
  tslice : Nat
  tctr : Nat
  caddr : Nat
  deriving DecidableEq, Repr

def xferDesc (w : List DWord) : XferDesc :=
  let w0 := w.getD 0 0
  let w3 := w.getD 3 0
  let w4 := w.getD 4 0
  { op := bits w0 63 60, skind := bits w0 59 57, dkind := bits w0 56 54, shint := bits w0 53 52, dhint := bits w0 51 50,
    tally := bit w0 49, crec := bit w0 48, nrows := bits w0 47 32 + 1, len := bits w0 31 0,
    saddr := (w.getD 1 0).toNat, daddr := (w.getD 2 0).toNat,
    sstride := (BitVec.ofNat 32 (bits w3 63 32)).toInt, dstride := (BitVec.ofNat 32 (bits w3 31 0)).toInt,
    tslice := bits w4 13 6, tctr := bits w4 5 0, caddr := bits (w.getD 5 0) 16 0 }

namespace XferDesc

def isFill (d : XferDesc) : Bool := decide (d.op = 3)

/-- The first byte of row `r` on each side. -/
def srow (d : XferDesc) (r : Nat) : Int := d.saddr + r * d.sstride
def drow (d : XferDesc) (r : Nat) : Int := d.daddr + r * d.dstride

/-- Which space a kind's extents are tracked in; REMOTE and SLICE are not. -/
def space? (k : Nat) : Option Space :=
  if k = 0 then some .seedbed else if k = 1 ∨ k = 2 then some .device else if k = 3 then some .host else none

/-- From the first byte to the last, strides included (R186); device spans are offsets, without the panel field. -/
def spanOf (kind : Nat) (first last : Int) (len : Nat) : List Span :=
  match space? kind with
  | some sp =>
    let panel : Int := if sp = .device then (min first last) / 0x1000000000000 * 0x1000000000000 else 0
    [{ space := sp, lo := min first last - panel, hi := max first last + len - panel }]
  | none => []

def sSpans (d : XferDesc) : List Span := if d.isFill then [] else spanOf d.skind (d.srow 0) (d.srow (d.nrows - 1)) d.len
def dSpans (d : XferDesc) : List Span := spanOf d.dkind (d.drow 0) (d.drow (d.nrows - 1)) d.len
def crecSpans (d : XferDesc) : List Span := if d.crec then [granules d.caddr 1] else []

/-- Whole rows are cut into chunks of at most 256 bytes, each within one 256-byte block of the destination (R192). -/
def rowChunks (d : XferDesc) (r : Nat) : Nat :=
  ((d.drow r % 256).toNat + d.len + 255) / 256

end XferDesc

/-- The extents a transfer still holds. A poisoned descriptor moves nothing (R176). -/
def Xfer.reads (x : Xfer) : List Span := if x.descPoisoned ∨ x.freedR then [] else (xferDesc x.desc).sSpans
def Xfer.writes (x : Xfer) : List Span :=
  if x.descPoisoned then [] else (xferDesc x.desc).dSpans ++ (xferDesc x.desc).crecSpans

/-! ## The range tracker -/

/-- Some span of `as` overlaps some span of `bs`. -/
def anyOverlap (as bs : List Span) : Bool := as.any fun a => bs.any fun b => a.overlaps b

/-- An access of the core that reads `rs` and writes `ws` must wait for an operation registered before `seq` (R99, R186). -/
def Core.rangeHeld (c : Core) (seq : Nat) (rs ws : List Span) : Bool :=
  (c.queue.any fun a => decide (a.seq < seq) && (anyOverlap (rs ++ ws) a.writes || anyOverlap ws a.reads)) ||
  (c.xfers.any fun x => decide (x.seq < seq) && (anyOverlap (rs ++ ws) x.writes || anyOverlap ws x.reads)) ||
  c.canaries.any fun k => k.held && anyOverlap ws k.instr.reads

end Sys2Proof.Machine
end

