-- ==== Sys2Proof/Machine/Float.lean ====
section
/-! DEFINITION. Floating formats, exact dyadic values, rounding, binary32 and BF16 arithmetic (R41, R49-R52, R152, R153, R582). -/

namespace Sys2Proof.Machine

open Sys2Proof

/-- What NaN encodings a format has (Table 02-1). -/
inductive NanKind where
  | none_ | ieee | e4m3
  deriving DecidableEq, Repr

/-- A floating format: exponent and mantissa bits, bias, whether it has Inf, its NaNs, the largest finite magnitude's bits (Table 02-1). -/
structure Fmt where
  e : Nat
  m : Nat
  bias : Int
  inf : Bool
  nan : NanKind
  maxBits : Nat
  deriving DecidableEq, Repr

def Fmt.fp4 : Fmt := { e := 2, m := 1, bias := 1, inf := false, nan := .none_, maxBits := 0x7 }
def Fmt.e2m3 : Fmt := { e := 2, m := 3, bias := 1, inf := false, nan := .none_, maxBits := 0x1F }
def Fmt.e3m2 : Fmt := { e := 3, m := 2, bias := 3, inf := false, nan := .none_, maxBits := 0x1F }
def Fmt.e4m3 : Fmt := { e := 4, m := 3, bias := 7, inf := false, nan := .e4m3, maxBits := 0x7E }
def Fmt.e5m2 : Fmt := { e := 5, m := 2, bias := 15, inf := true, nan := .ieee, maxBits := 0x7B }
def Fmt.bf16 : Fmt := { e := 8, m := 7, bias := 127, inf := true, nan := .ieee, maxBits := 0x7F7F }
def Fmt.fp32 : Fmt := { e := 8, m := 23, bias := 127, inf := true, nan := .ieee, maxBits := 0x7F7FFFFF }

/-- A value: NaN, a signed infinity, or (-1)^neg × m × 2^e. -/
inductive FVal where
  | nan
  | inf (neg : Bool)
  | fin (neg : Bool) (m : Nat) (e : Int)
  deriving DecidableEq, Repr

/-- Rounding modes, coded as RND (R154). -/
inductive Rnd where
  | rne | rtz | rdn | rup
  deriving DecidableEq, Repr

/-- The exponent of the format's smallest subnormal. -/
def Fmt.qmin (f : Fmt) : Int := 1 - f.bias - f.m

/-- The value of bit pattern `b` in format `f` (R41). -/
def Fmt.decode (f : Fmt) (b : Nat) : FVal :=
  let man := b % 2 ^ f.m
  let ex := (b >>> f.m) % 2 ^ f.e
  let neg := (b >>> (f.m + f.e)) % 2 = 1
  let top := ex = 2 ^ f.e - 1
  match f.nan with
  | .ieee =>
    if top ∧ man ≠ 0 then .nan
    else if top ∧ f.inf then .inf neg
    else if ex = 0 then .fin neg man f.qmin
    else .fin neg (man + 2 ^ f.m) (f.qmin + ex - 1)
  | .e4m3 =>
    if top ∧ man = 2 ^ f.m - 1 then .nan
    else if ex = 0 then .fin neg man f.qmin
    else .fin neg (man + 2 ^ f.m) (f.qmin + ex - 1)
  | .none_ =>
    if ex = 0 then .fin neg man f.qmin
    else .fin neg (man + 2 ^ f.m) (f.qmin + ex - 1)

/-- Whether discarding `rem` of `2^sh` from an even or odd `k` rounds the magnitude up. -/
def roundsUp (r : Rnd) (neg : Bool) (k rem sh : Nat) : Bool :=
  match r with
  | .rne => decide (2 * rem > 2 ^ sh) || (decide (2 * rem = 2 ^ sh) && decide (k % 2 = 1))
  | .rtz => false
  | .rdn => neg && decide (rem ≠ 0)
  | .rup => !neg && decide (rem ≠ 0)

/-- The magnitude m × 2^e rounded to `p` bits, no finer than 2^qmin, as an integer multiple of a power of two. -/
def roundMag (p : Nat) (qmin : Int) (r : Rnd) (neg : Bool) (m : Nat) (e : Int) : Nat × Int :=
  if m = 0 then (0, qmin)
  else
    let q := max (e + (Nat.log2 m + 1 : Nat) - p) qmin
    if q ≤ e then (m <<< (e - q).toNat, q)
    else
      let sh := (q - e).toNat
      let k := m >>> sh
      let rem := m % 2 ^ sh
      (if roundsUp r neg k rem sh then k + 1 else k, q)

/-- The magnitude bits of format `f`, before the overflow check, of a magnitude rounded as by `roundMag`. -/
def Fmt.magBits (f : Fmt) (r : Rnd) (neg : Bool) (m : Nat) (e : Int) : Nat :=
  let (k, q) := roundMag (f.m + 1) f.qmin r neg m e
  ((q - f.qmin).toNat <<< f.m) + k

/-- The canonical NaN (R50); formats without NaN take 0 (Table 02-3). -/
def Fmt.canonicalNan (f : Fmt) : Nat :=
  match f.nan with
  | .none_ => 0
  | .e4m3 => 0x7F
  | .ieee => ((2 ^ f.e - 1) <<< f.m) + (if f.e = 5 then 2 else 2 ^ (f.m - 1))

/-- The magnitude bits of Inf. -/
def Fmt.infBits (f : Fmt) : Nat := (2 ^ f.e - 1) <<< f.m

/-- Attach the sign. -/
def Fmt.signed (f : Fmt) (neg : Bool) (mag : Nat) : Nat := mag + (if neg then 2 ^ (f.m + f.e) else 0)

/-- Whether mode `r` rounds an overflowing value of this sign away from zero (R582). -/
def Rnd.awayOnOverflow (r : Rnd) (neg : Bool) : Bool :=
  match r with
  | .rne => true
  | .rtz => false
  | .rdn => neg
  | .rup => !neg

/-- Convert a value to format `f` (R49, R582, Table 02-3): the bits, and whether a finite value overflowed, and whether a nonzero
value became zero. -/
def Fmt.encode (f : Fmt) (r : Rnd) (sat : Bool) (v : FVal) : Nat × Bool × Bool :=
  match v with
  | .nan => (f.canonicalNan, false, false)
  | .inf neg => (f.signed neg (if f.inf && !sat then f.infBits else f.maxBits), false, false)
  | .fin neg m e =>
    let mag := f.magBits r neg m e
    if mag > f.maxBits then
      (f.signed neg (if f.inf && !sat && r.awayOnOverflow neg then f.infBits else f.maxBits), true, false)
    else (f.signed neg mag, false, decide (m ≠ 0) && decide (mag = 0))

/-- Just the bits of the conversion. -/
def Fmt.bitsOf (f : Fmt) (r : Rnd) (sat : Bool) (v : FVal) : Nat := (f.encode r sat v).1

/-! ## binary32 -/

/-- The value of a binary32 word. -/
def f32 (w : Word) : FVal := Fmt.fp32.decode w.toNat

/-- The binary32 word nearest to a value, overflowing to Inf (R52). -/
def toF32 (v : FVal) : Word := BitVec.ofNat 32 (Fmt.fp32.bitsOf .rne false v)

/-- The canonical NaN of binary32 (R50). -/
def nan32 : Word := 0x7FC00000#32

/-- Signed integer mantissa. -/
def smant (neg : Bool) (m : Nat) : Int := if neg then -(m : Int) else m

/-- A finite value from a signed mantissa; a zero takes the sign given. -/
def finOf (i : Int) (e : Int) (zeroNeg : Bool) : FVal :=
  if i = 0 then .fin zeroNeg 0 0 else .fin (decide (i < 0)) i.natAbs e

/-- Exact sum of two finite dyadics: signed mantissa and exponent. -/
def addDy (i : Int) (e : Int) (j : Int) (g : Int) : Int × Int :=
  let q := min e g
  (i * 2 ^ (e - q).toNat + j * 2 ^ (g - q).toNat, q)

/-- Exact sum. The sum of opposite zeros, and an exact cancellation, is +0 (IEEE 754-2019 under round to nearest). -/
def FVal.add : FVal → FVal → FVal
  | .nan, _ => .nan
  | _, .nan => .nan
  | .inf a, .inf b => if a = b then .inf a else .nan
  | .inf a, _ => .inf a
  | _, .inf b => .inf b
  | .fin a m e, .fin b n g =>
    let (i, q) := addDy (smant a m) e (smant b n) g
    finOf i q (a && b && decide (m = 0) && decide (n = 0))

/-- Exact product. -/
def FVal.mul : FVal → FVal → FVal
  | .nan, _ => .nan
  | _, .nan => .nan
  | .inf a, .inf b => .inf (a != b)
  | .inf a, .fin b m _ => if m = 0 then .nan else .inf (a != b)
  | .fin a m _, .inf b => if m = 0 then .nan else .inf (a != b)
  | .fin a m e, .fin b n g => .fin (a != b) (m * n) (e + g)

/-- Negation and absolute value. -/
def FVal.neg : FVal → FVal
  | .nan => .nan
  | .inf a => .inf (!a)
  | .fin a m e => .fin (!a) m e

def FVal.abs : FVal → FVal
  | .nan => .nan
  | .inf _ => .inf false
  | .fin _ m e => .fin false m e

/-- Multiply by 2^k. -/
def FVal.scale (v : FVal) (k : Int) : FVal :=
  match v with
  | .fin a m e => .fin a m (e + k)
  | v => v

def FVal.isNan : FVal → Bool
  | .nan => true
  | _ => false

/-- Order of two values, none when either is NaN; zeros are equal. -/
def FVal.cmp : FVal → FVal → Option Ordering
  | .nan, _ => none
  | _, .nan => none
  | .inf a, .inf b => some (if a = b then .eq else if a then .lt else .gt)
  | .inf a, _ => some (if a then .lt else .gt)
  | _, .inf b => some (if b then .gt else .lt)
  | .fin a m e, .fin b n g =>
    let (i, _) := addDy (smant a m) e (-(smant b n)) g
    some (if i < 0 then .lt else if i = 0 then .eq else .gt)

/-- Sign of a value, of zeros too. -/
def FVal.sign : FVal → Bool
  | .nan => false
  | .inf a => a
  | .fin a _ _ => a

/-- minimumNumber: a NaN operand yields the other operand; −0 is below +0 (Table 05-4). -/
def FVal.minNum (x y : FVal) : FVal :=
  match x.cmp y with
  | none => if x.isNan then y else x
  | some .lt => x
  | some .gt => y
  | some .eq => if x.sign then x else y

/-- maximumNumber, likewise. -/
def FVal.maxNum (x y : FVal) : FVal :=
  match x.cmp y with
  | none => if x.isNan then y else x
  | some .gt => x
  | some .lt => y
  | some .eq => if x.sign then y else x

def fadd32 (a b : Word) : Word := toF32 ((f32 a).add (f32 b))
def fsub32 (a b : Word) : Word := toF32 ((f32 a).add (f32 b).neg)
def fmul32 (a b : Word) : Word := toF32 ((f32 a).mul (f32 b))
def fmac32 (a b c : Word) : Word := toF32 (((f32 a).mul (f32 b)).add (f32 c))
def fmin32 (a b : Word) : Word := toF32 ((f32 a).minNum (f32 b))
def fmax32 (a b : Word) : Word := toF32 ((f32 a).maxNum (f32 b))

/-- Integer square root, bit by bit from 2^n. -/
def isqrtAux (x : Nat) : Nat → Nat → Nat
  | 0, r => r
  | n + 1, r =>
    let t := r + 2 ^ n
    isqrtAux x n (if t * t ≤ x then t else r)

def isqrt (x : Nat) : Nat := isqrtAux x (Nat.log2 x / 2 + 1) 0

/-- The square root of m × 2^e with at least 40 significant bits and a sticky lowest bit. -/
def sqrtDy (m : Nat) (e : Int) : Nat × Int :=
  let k : Nat := 80
  let odd := e % 2 = 1
  let m' := (if odd then 2 * m else m) <<< k
  let e' := (if odd then e - 1 else e) - k
  let r := isqrt m'
  (2 * r + (if r * r = m' then 0 else 1), e' / 2 - 1)

/-- FSQRT, correctly rounded: √−0 = −0, √ of a value below zero is NaN. -/
def fsqrt32 (a : Word) : Word :=
  match f32 a with
  | .nan => nan32
  | .inf neg => if neg then nan32 else a
  | .fin neg m e =>
    if m = 0 then a
    else if neg then nan32
    else let (r, q) := sqrtDy m e; toF32 (.fin false r q)

/-! ## BF16 pairs (R52, R108) -/

/-- The binary32 word of a BF16 half. -/
def bfWord (h : Half) : Word := BitVec.ofNat 32 (h.toNat <<< 16)

/-- A binary32 result rounded to BF16. -/
def toBf (w : Word) : Half := BitVec.ofNat 16 (Fmt.bf16.bitsOf .rne false (f32 w))

def loHalf (w : Word) : Half := w.extractLsb' 0 16
def hiHalf (w : Word) : Half := w.extractLsb' 16 16

/-- Apply a binary32 operation to both BF16 halves. -/
def bfPair2 (f : Word → Word → Word) (a b : Word) : Word :=
  toBf (f (bfWord (hiHalf a)) (bfWord (hiHalf b))) ++ toBf (f (bfWord (loHalf a)) (bfWord (loHalf b)))

def bfPair3 (f : Word → Word → Word → Word) (a b c : Word) : Word :=
  toBf (f (bfWord (hiHalf a)) (bfWord (hiHalf b)) (bfWord (hiHalf c))) ++
    toBf (f (bfWord (loHalf a)) (bfWord (loHalf b)) (bfWord (loHalf c)))

/-- FDOTBP: two exact BF16 products and an FP32 addend, one rounding (Table 05-4). -/
def fdotbp (a b c : Word) : Word :=
  let p (x y : Half) := (f32 (bfWord x)).mul (f32 (bfWord y))
  toF32 (((p (loHalf a) (loHalf b)).add (p (hiHalf a) (hiHalf b))).add (f32 c))

/-! ## Error-bounded functions (Table 05-4, R153): a free value kept within the stated bound -/

/-- Fixed-point scale of the enclosures: 2^192, at which every FP32 value is exact. -/
def fx : Nat := 192

/-- ln 2 and π in units of 2^-192. -/
def ln2Fx : Int := 4350955369971217654477563090224794165364344896676135745070
def piFx : Int := 19720096697726538562396133364228268891463450865190089732560

/-- Σ x^n / n! for n below the fuel, x in units of 2^-192 (exp). -/
def expSeries (x : Int) : Nat → Nat → Int → Int → Int
  | 0, _, _, s => s
  | k + 1, n, t, s => expSeries x k (n + 1) (t * x / 2 ^ fx / (n + 1 : Nat)) (s + t)

/-- e^x for |x| below 1. -/
def expFx (x : Int) : Int := expSeries x 48 0 (2 ^ fx) 0

/-- Σ (-1)^n x^(2n+o) / (2n+o)! : sine for o = 1, cosine for o = 0. -/
def trigSeries (x2 : Int) : Nat → Nat → Int → Int → Int
  | 0, _, _, s => s
  | k + 1, o, t, s => trigSeries x2 k (o + 2) (-(t * x2 / 2 ^ fx) / ((o + 1) * (o + 2) : Nat)) (s + t)

/-- Σ z^(2n+1) / (2n+1): atanh z. -/
def atanhSeries (z2 : Int) : Nat → Nat → Int → Int → Int
  | 0, _, _, s => s
  | k + 1, n, t, s => atanhSeries z2 k (n + 2) (t * z2 / 2 ^ fx) (s + t / (n : Nat))

/-- A finite value in units of 2^-192, truncated. -/
def toFx (neg : Bool) (m : Nat) (e : Int) : Int :=
  let k := e + fx
  smant neg (if 0 ≤ k then m <<< k.toNat else m >>> (-k).toNat)

/-- The exact result, up to 2^-79 relative for FRCP and FRSQ and 2^-180 absolute else, as sign, mantissa, exponent; tanh, cos and every 2^a below
2^-256 stay on their side of 1 and 0:
OP 0x07 FRCP, 0x08 FRSQ, 0x0A FEX2, 0x0B FLG2, 0x0C FTANH, 0x0D FSIN, 0x0E FCOS. -/
def nearlyExact (op : Nat) (neg : Bool) (m : Nat) (e : Int) : Bool × Nat × Int :=
  let x := toFx neg m e
  let dy (i : Int) : Bool × Nat × Int := (decide (i < 0), i.natAbs, -(fx : Int))
  match op with
  | 0x07 => (neg, 2 ^ (Nat.log2 m + 80) / m, -e - (Nat.log2 m + 80 : Nat))
  | 0x08 =>
    let (r, q) := sqrtDy m e
    (false, 2 ^ (Nat.log2 r + 80) / r, -q - (Nat.log2 r + 80 : Nat))
  | 0x0A =>
    let n := x / 2 ^ fx
    let f := x % 2 ^ fx
    if neg ∧ (Nat.log2 m : Int) + e ≥ 8 then (false, 1, -256)
    else (false, (expFx (f * ln2Fx / 2 ^ fx)).natAbs, n - fx)
  | 0x0B =>
    let l := Nat.log2 m
    let v := ((m : Int) * 2 ^ fx) / 2 ^ l
    let (v, k) := if v > 3 * 2 ^ (fx - 1) then (v / 2, (l : Int) + e + 1) else (v, (l : Int) + e)
    let z := (v - 2 ^ fx) * 2 ^ fx / (v + 2 ^ fx)
    let at_ := atanhSeries (z * z / 2 ^ fx) 60 1 z 0
    dy (k * 2 ^ fx + 2 * at_ * 2 ^ fx / ln2Fx)
  | 0x0C =>
    if x.natAbs ≥ 64 * 2 ^ fx then dy (if x < 0 then 1 - 2 ^ fx else 2 ^ fx - 1)
    else
      let y := 2 * x * 2 ^ fx / ln2Fx
      let n := y / 2 ^ fx
      let t := expFx (y % 2 ^ fx * ln2Fx / 2 ^ fx)
      let t := if 0 ≤ n then t * 2 ^ n.toNat else t / 2 ^ (-n).toNat
      dy ((t - 2 ^ fx) * 2 ^ fx / (t + 2 ^ fx))
  | 0x0D | 0x0E =>
    let k := (x + piFx / 2) / piFx
    let r := x - k * piFx
    let s := if op = 0x0D then trigSeries (r * r / 2 ^ fx) 25 1 r 0 else min (2 ^ fx - 1) (trigSeries (r * r / 2 ^ fx) 25 0 (2 ^ fx) 0)
    dy (if k % 2 = 0 then s else -s)
  | _ => (false, 0, 0)

/-- |u − v| ≤ b × 2^q for finite dyadics. -/
def within (neg : Bool) (m : Nat) (e : Int) (neg' : Bool) (m' : Nat) (e' : Int) (b : Nat) (q : Int) : Bool :=
  let (i, g) := addDy (smant neg m) e (-(smant neg' m')) e'
  let (j, _) := addDy (i.natAbs : Int) g (-(b : Int)) q
  decide (j ≤ 0)

/-- The exponent of the bound of Table 05-4 for result m × 2^e: 1 ulp, 2 ulp, or 2^-21. DEDUCED: the ulp is that of the exact result's binade. -/
def errBound (op : Nat) (m : Nat) (e : Int) : Int :=
  let ulp := max (e + (Nat.log2 m : Nat) - 23) (-149)
  match op with
  | 0x07 | 0x08 => ulp
  | 0x0A | 0x0B => ulp + 1
  | _ => -21

/-- |m × 2^e| < 2^k. -/
def below2 (m : Nat) (e k : Int) : Bool :=
  if m = 0 then true else decide ((Nat.log2 m : Int) + e < k)

/-- Whether word `w` is an allowed result of OP `op` for the finite nonzero operand (neg, m, e). -/
def allowedResult (op : Nat) (neg : Bool) (m : Nat) (e : Int) (w : Word) : Bool :=
  let (rn, rm, re) := nearlyExact op neg m e
  let q := errBound op rm re
  match f32 w with
  | .fin wn wm we =>
    within rn rm re wn wm we 1 q ||
      -- a finite result below 2^-126 may return as a zero (R153)
      (decide (wm = 0) && below2 rm re (-126)) ||
      -- FLG2 within 2^-2 of 1: absolute error 2^-22
      (decide (op = 0x0B) && within neg m e false 1 0 1 (-2) && within rn rm re wn wm we 1 (-22))
  | .inf wn => Fmt.fp32.magBits .rne rn rm re > Fmt.fp32.maxBits && wn == rn
  | .nan => false

/-- Whether |value of w| ≤ 1. -/
def inUnit (w : Word) : Bool :=
  match f32 w with
  | .fin _ m e => within false m e false 0 0 1 0
  | _ => false

/-- The result of OP `op` (0x07, 0x08, 0x0A-0x0E) for operand `a`: the special values of R153, otherwise the free value
`Config.approx op a` where it lies within the bound, else the nearest word to the exact result. -/
def approx32 (op : Nat) (a : Word) : Word :=
  match f32 a with
  | .nan => nan32
  | .inf neg =>
    match op with
    | 0x07 => if neg then 0x80000000#32 else 0
    | 0x08 => if neg then nan32 else 0
    | 0x0A => if neg then 0 else a
    | 0x0B => if neg then nan32 else a
    | 0x0C => if neg then 0xBF800000#32 else 0x3F800000#32
    | _ => nan32
  | .fin neg m e =>
    if m = 0 then
      match op with
      | 0x07 | 0x08 => if neg then 0xFF800000#32 else 0x7F800000#32
      | 0x0A | 0x0E => 0x3F800000#32
      | 0x0B => 0xFF800000#32
      | _ => a
    else if (op = 0x08 ∨ op = 0x0B) ∧ neg then nan32
    else if (op = 0x0D ∨ op = 0x0E) ∧ !(within false m e false 0 0 1024 0) then
      if inUnit (Config.approx op a) then Config.approx op a else 0
    else if op = 0x0A ∧ !neg ∧ (Nat.log2 m : Int) + e ≥ 8 then 0x7F800000#32
    else if op = 0x0B ∧ a = 0x3F800000#32 then 0
    else if allowedResult op neg m e (Config.approx op a) then Config.approx op a
    else
      let (rn, rm, re) := nearlyExact op neg m e
      toF32 (.fin rn rm re)

end Sys2Proof.Machine
end

