-- ==== Sys2Proof/Machine/Formats.lean ====
section
/-! DEFINITION. Element formats, conversions between them, and block quantization (R41-R51, R154, R155, R582). -/

namespace Sys2Proof.Machine

open Sys2Proof

/-- A conversion format of Table 05-5: a floating format, a signed integer of a width, UINT32, or the MXINT8 element. -/
inductive CvtFmt where
  | flt (f : Fmt)
  | int (w : Nat)
  | uint32
  | mxint8
  deriving DecidableEq, Repr

/-- The format of code `c` (Table 05-5); codes 0xD-0xF are reserved. -/
def cvtFmt (c : Nat) : Option CvtFmt :=
  match c with
  | 0x0 => some (.flt .fp32)
  | 0x1 => some (.flt .bf16)
  | 0x2 => some (.flt .e4m3)
  | 0x3 => some (.flt .e5m2)
  | 0x4 => some (.flt .e2m3)
  | 0x5 => some (.flt .e3m2)
  | 0x6 => some (.flt .fp4)
  | 0x7 => some (.int 4)
  | 0x8 => some (.int 8)
  | 0x9 => some (.int 16)
  | 0xA => some (.int 32)
  | 0xB => some .uint32
  | 0xC => some .mxint8
  | _ => none

/-- A two's-complement field of `w` bits. -/
def signedOf (w : Nat) (v : Nat) : Int :=
  let v := v % 2 ^ w
  if v ≥ 2 ^ (w - 1) then (v : Int) - 2 ^ w else v

/-- Zero is positive for integer formats. -/
def ofInt (i : Int) (e : Int) : FVal := finOf i e false

/-- The value of a source read from the low bits of a register (R154). -/
def cvtDecode (f : CvtFmt) (w : Word) : FVal :=
  match f with
  | .flt f => f.decode (w.toNat % 2 ^ (1 + f.e + f.m))
  | .int n => ofInt (signedOf n w.toNat) 0
  | .uint32 => ofInt w.toNat 0
  | .mxint8 => ofInt (signedOf 8 w.toNat) (-6)

/-- A value rounded to an integer multiple of 2^q in mode `r` (R582, integer rows of Table 02-3): the integer. -/
def roundInt (r : Rnd) (q : Int) (neg : Bool) (m : Nat) (e : Int) : Int :=
  if q ≤ e then smant neg (m <<< (e - q).toNat)
  else
    let sh := (q - e).toNat
    let k := m >>> sh
    smant neg (if roundsUp r neg k (m % 2 ^ sh) sh then k + 1 else k)

/-- Clamp to [lo, hi]. -/
def clampInt (lo hi i : Int) : Int := max lo (min hi i)

/-- Conversion to an integer range with step 2^q: NaN gives 0, Inf and overflow the most positive or most negative (Table 02-3):
the integer, overflowed, became zero. -/
def toRange (r : Rnd) (q : Int) (lo hi : Int) (v : FVal) : Int × Bool × Bool :=
  match v with
  | .nan => (0, false, false)
  | .inf neg => (if neg then lo else hi, false, false)
  | .fin neg m e =>
    let i := roundInt r q neg m e
    (clampInt lo hi i, decide (i < lo ∨ hi < i), decide (m ≠ 0) && decide (i = 0))

/-- The result register of a conversion: a narrow floating result zero-extended, a narrow integer result sign-extended (R154). -/
def cvtEncode (f : CvtFmt) (r : Rnd) (sat : Bool) (v : FVal) : Word :=
  match f with
  | .flt f => BitVec.ofNat 32 (f.bitsOf r sat v)
  | .int n => BitVec.ofInt 32 (toRange r 0 (-(2 ^ (n - 1) : Int)) (2 ^ (n - 1) - 1) v).1
  | .uint32 => BitVec.ofInt 32 (toRange r 0 0 (2 ^ 32 - 1) v).1
  | .mxint8 => BitVec.ofInt 32 (toRange r (-6) (-128) 127 v).1

/-- RND of MOD[2:1] (R154). -/
def rndOf (n : Nat) : Rnd :=
  match n with
  | 0 => .rne
  | 1 => .rtz
  | 2 => .rdn
  | _ => .rup

/-- CVT (Table 05-6). -/
def cvtWord (df sf : CvtFmt) (r : Rnd) (sat : Bool) (a : Word) : Word := cvtEncode df r sat (cvtDecode sf a)

/-- The source of CVTS: a × 2^(E − 127), NaN when E = 0xFF (R44). -/
def scaleBy (e : Nat) (v : FVal) : FVal := if e = 0xFF then .nan else v.scale ((e : Int) - 127)

/-! ## Element formats of the array (Table 03-5) and the quantizer (R45) -/

/-- An element format as the array reads it. -/
inductive Elem where
  | flt (f : Fmt)
  | int (w : Nat)
  | ternary
  | mxint8
  deriving DecidableEq, Repr

/-- Bits of one stored element. -/
def Elem.width : Elem → Nat
  | .flt f => 1 + f.e + f.m
  | .int w => w
  | .ternary => 2
  | .mxint8 => 8

/-- The value of an element, and whether it is a reserved ternary code 10, which reads as 0 (R42). -/
def Elem.decode (x : Elem) (b : Nat) : FVal × Bool :=
  match x with
  | .flt f => (f.decode b, false)
  | .int w => (ofInt (signedOf w b) 0, false)
  | .mxint8 => (ofInt (signedOf 8 b) (-6), false)
  | .ternary =>
    match b with
    | 0 => (ofInt 0 0, false)
    | 1 => (ofInt 1 0, false)
    | 3 => (ofInt (-1) 0, false)
    | _ => (ofInt 0 0, true)

/-- The exponent of the destination's largest finite value (R45 step 1). -/
def Elem.emax : Elem → Int
  | .flt f => if f = Fmt.fp4 ∨ f = Fmt.e2m3 then 2 else if f = Fmt.e3m2 then 4 else if f = Fmt.e4m3 then 8 else 15
  | .int w => if w = 4 then 2 else 0
  | .ternary => 0
  | .mxint8 => 0

/-- One element of the quantizer: code, saturated, became zero (R45 step 5). -/
def Elem.quant (x : Elem) (v : FVal) : Nat × Bool × Bool :=
  match x with
  | .flt f => f.encode .rne true v
  | .int w =>
    let (i, o, u) := toRange .rne 0 (-(2 ^ (w - 1) : Int)) (2 ^ (w - 1) - 1) v
    ((i % 2 ^ w).toNat, o, u)
  | .ternary =>
    let (i, o, u) := toRange .rne 0 (-1) 1 v
    ((i % 4).toNat, o, u)
  | .mxint8 =>
    let (i, o, u) := toRange .rne (-6) (-128) 127 v
    ((i % 256).toNat, o, u)

/-- A quantized block: scale encoding, element codes, counts of SAT, UFL and NAN events (R45, R63). -/
structure QBlock where
  scale : Nat
  codes : List Nat
  sat : Nat
  ufl : Nat
  nan : Nat
  deriving DecidableEq, Repr

/-- floor(log2 |v|) of a finite nonzero value. -/
def floorLog2 (m : Nat) (e : Int) : Int := (Nat.log2 m : Nat) + e

/-- The largest floor(log2) among the nonzero elements, none when all are zero. -/
def maxLog2 : List FVal → Option Int
  | [] => none
  | .fin _ m e :: vs =>
    if m = 0 then maxLog2 vs
    else
      match maxLog2 vs with
      | none => some (floorLog2 m e)
      | some l => some (max l (floorLog2 m e))
  | _ :: vs => maxLog2 vs

/-- Block quantization (R45). -/
def quantBlock (x : Elem) (vs : List FVal) : QBlock :=
  if vs.any fun v => match v with | .fin _ _ _ => false | _ => true then
    { scale := 0xFF, codes := vs.map fun _ => 0, sat := 0, ufl := 0, nan := 1 }
  else
    match maxLog2 vs with
    | none => { scale := 127, codes := vs.map fun _ => 0, sat := 0, ufl := 0, nan := 0 }
    | some l =>
      let k := clampInt (-127) 127 (l - x.emax)
      let qs := vs.map fun v => x.quant (v.scale (-k))
      { scale := (k + 127).toNat, codes := qs.map (·.1),
        sat := (qs.filter (·.2.1)).length, ufl := (qs.filter (·.2.2)).length, nan := 0 }

/-- The element format that QMX writes for DFMT (R155): E2M1, E2M3, E3M2, E4M3, E5M2, INT4 or MXINT8 element. -/
def qmxElem (c : Nat) : Option Elem :=
  match c with
  | 0x6 => some (.flt .fp4)
  | 0x4 => some (.flt .e2m3)
  | 0x5 => some (.flt .e3m2)
  | 0x2 => some (.flt .e4m3)
  | 0x3 => some (.flt .e5m2)
  | 0x7 => some (.int 4)
  | 0xC => some .mxint8
  | _ => none

end Sys2Proof.Machine
end

