-- ==== Sys2Proof/Machine/ArrayMath.lean ====
section
/-! DEFINITION. The arithmetic of the furrow array: descriptor checks (R90), operand elements (R42-R44, R85, R86), block partial sums (R47, R48), the input quantizer and the drain (R45, R51), outlier columns (R54-R56), checksum columns (R58-R61). -/

namespace Sys2Proof.Machine

open Sys2Proof

/-! ## Descriptor checks (R90) -/

/-- The element format of a code of Table 03-5. -/
def elemOf (c : Nat) : Elem :=
  if c ≤ 0x01 then .flt .fp4 else if c ≤ 0x03 then .int 4 else if c ≤ 0x05 then .int 2 else if c ≤ 0x07 then .ternary
  else if c ≤ 0x09 then .flt .e2m3 else if c ≤ 0x0B then .flt .e3m2 else if c ≤ 0x0D then .flt .e4m3 else if c ≤ 0x0F then .flt .e5m2
  else if c = 0x10 then .mxint8 else if c = 0x11 then .flt .bf16 else .flt .fp32

/-- Codes that the fields accept (Table 03-5). -/
def wfmtOk (c : Nat) : Bool := decide (c ≤ 0x11)
def afmtOk (c : Nat) : Bool := decide (c ≤ 0x03) || (decide (0x08 ≤ c) && decide (c ≤ 0x12))
def blockedOk (c : Nat) : Bool := [0x01, 0x03, 0x09, 0x0B, 0x0D, 0x0F, 0x10].contains c
def ofmtOk (c : Nat) : Bool := blockedOk c || decide (c = 0x11) || decide (c = 0x12)

/-- 6- or 8-bit codes. -/
def wideFmt (c : Nat) : Bool := decide (0x08 ≤ c) && decide (c ≤ 0x10)

/-- Table 02-2. -/
def pairOk (w a : Nat) : Bool :=
  if w ≤ 0x03 then decide (a ≤ 0x03) || wideFmt a
  else if w ≤ 0x07 then decide (a ≤ 0x01)
  else if w ≤ 0x10 then decide (a ≤ 0x03) || wideFmt a
  else decide (a = 0x11)

/-- Both operands 4-bit, 6-bit, INT2 or ternary: block sums are exact (R47). -/
def narrowPair (w a : Nat) : Bool := decide (w ≤ 0x0B) && decide (a ≤ 0x0B)

namespace ArrayDesc

/-- The format that streams: QFMT in place of AFMT when the quantizer runs. -/
def streamFmt (d : ArrayDesc) : Nat := if d.quantizes then d.qfmt else d.afmt

/-- Logical rows per tile of Table 03-2; BF16 has none in the third shape. -/
def maxRows (d : ArrayDesc) : Nat :=
  let base := 256 / 2 ^ d.shape
  if 0x04 ≤ d.wfmt ∧ d.wfmt ≤ 0x07 then 2 * base
  else if d.wfmt ≤ 0x03 then base
  else if d.wfmt ≤ 0x10 then base / 2
  else if d.shape = 2 then 0 else base / 4

/-- Operands other than the outputs and output scales. -/
def inSpans (d : ArrayDesc) : List Span := d.wSpans ++ d.aSpans ++ d.sideSpans

/-- An operand ends inside the seedbed. -/
def inside (p : Span) : Bool := decide (p.hi ≤ 0x400000)

/-- The checks of R90 that the descriptor alone decides. -/
def valid (d : ArrayDesc) : Bool :=
  decide (d.rsv = 0) && decide (d.shape ≠ 3) && wfmtOk d.wfmt && afmtOk d.afmt && ofmtOk d.ofmt &&
  (if d.quantizes then blockedOk d.qfmt else decide (d.qfmt = 0)) &&
  pairOk d.wfmt d.streamFmt &&
  decide (d.kr ≤ d.maxRows) && decide (d.nc ≤ 512 * 2 ^ d.shape) && decide (d.nb * d.nc ≤ 131072) &&
  (!d.acc || decide (0x11 ≤ d.ofmt)) && (!d.outl || decide (d.wfmt ≤ 0x07)) &&
  (fmtScaled d.wfmt || decide (d.wsaddr = 0)) && ((fmtScaled d.afmt && !d.quantizes) || decide (d.asaddr = 0)) &&
  (fmtScaled d.ofmt || decide (d.osaddr = 0)) && (d.outl || decide (d.oladdr = 0)) && (d.ref || decide (d.raddr = 0)) &&
  (decide (d.nb = 1) || (decide (d.aGran ≤ d.astride) && decide (d.oGran ≤ d.ostride))) &&
  (d.inSpans ++ d.oSpans).all inside &&
  !anyOverlap d.oSpans d.inSpans &&
  (match d.oSpans with
    | [a, b] => !a.overlaps b
    | _ => true)

end ArrayDesc

/-- The tile columns of an outlier table's valid entries, in order (Table 02-6). -/
def outlierCols (hdr : List Byte) : List Nat :=
  (upto 8).filterMap fun i =>
    let e := leNat ((hdr.drop (2 * i)).take 2)
    if e / 2 ^ 15 = 1 then some (e % 2 ^ 11) else none

/-- No two valid entries name one column, and each lies in the tile (R56). -/
def outlierOk (nc : Nat) (hdr : List Byte) : Bool :=
  let cs := outlierCols hdr
  cs.all (fun j => decide (j < nc)) && decide cs.Nodup

/-! ## Elements -/

/-- Element `i` of `w` bits in a run packed from the least significant bit (R42). -/
def packed (v w i : Nat) : Nat := (v >>> (i * w)) % 2 ^ w

/-- The bytes of elements of `w` bits each, packed. -/
def packBytes (w : Nat) (codes : List Nat) : List Byte :=
  natLe (codes.length * w / 8) (codes.foldr (fun c v => c % 2 ^ w + v * 2 ^ w) 0)

/-- A tile's weights: element and whether it is a reserved ternary code; scale encoding per block and column; columns that the side
path computes. -/
structure Tile where
  kr : Nat
  nc : Nat
  elem : Nat → Nat → FVal × Bool
  scale : Nat → Nat → Nat
  side : List Nat

/-- A tile from its loaded set: an outlier column takes the side path's E4M3 weights and scales (R54, R55). -/
def tileOf (kr nc wfmt : Nat) (ws : WeightSet) : Tile :=
  let x := elemOf wfmt
  let v := leNat ws.w
  let cols := outlierCols ws.ol
  let entry (j : Nat) : List Byte := (ws.ol.drop (32 + cols.idxOf j * (kr + kr / 32)))
  { kr := kr, nc := nc, side := cols,
    elem := fun k j =>
      if cols.contains j then (Fmt.e4m3.decode ((entry j).getD k 0).toNat, false) else x.decode (packed v x.width (k * nc + j)),
    scale := fun g j =>
      if cols.contains j then ((entry j).getD (kr + g) 0).toNat
      else if fmtScaled wfmt then (ws.sc.getD (g * nc + j) 0).toNat else 127 }

/-- The power of two of a scale encoding, none for NaN (R44). -/
def scaleExp (e : Nat) : Option Int := if e = 0xFF then none else some ((e : Int) - 127)

/-- A value with its block scale applied. -/
def scaled (e : Nat) (v : FVal) : FVal := scaleBy e v

/-- The block `g` of column `j` of a tile. -/
def Tile.block (t : Tile) (g j : Nat) : List FVal := (upto 32).map fun r => (t.elem (32 * g + r) j).1

def notFinite : FVal → Bool
  | .fin _ _ _ => false
  | _ => true

/-- Blocks of the tile that hold a NaN or Inf element, a NaN scale or a ternary code 10 (R63). DESIGN CHOICE (log 12): of an outlier column
the side path's weights count; the array's own weights and scales of that column are held and not used (R55), and do not. -/
def Tile.nanBlocks (t : Tile) : Nat :=
  ((upto (t.kr / 32)).flatMap fun g => (upto t.nc).filter fun j =>
    decide (t.scale g j = 0xFF) || (t.block g j).any notFinite || (upto 32).any fun r => (t.elem (32 * g + r) j).2).length

/-- Some weight element or scale of the tile is NaN (R60). -/
def Tile.hasNan (t : Tile) : Bool :=
  (upto (t.kr / 32)).any fun g => (upto t.nc).any fun j => decide (t.scale g j = 0xFF) || (t.block g j).any FVal.isNan

/-- One block of 32 activations as streamed: elements, scale encoding, and the quantizer's SAT, UFL and NAN events (R45, R63). -/
def actBlock (d : ArrayDesc) (qfmt : Nat) (quantize : Bool) (m : Memory) (b g : Nat) : QBlock × List FVal :=
  let x := elemOf d.afmt
  let base := 32 * (d.aaddr + b * d.astride)
  let v := leNat (readBytes m (base + 4 * g * x.width) (4 * x.width))
  let vals := (upto 32).map fun i => (x.decode (packed v x.width i)).1
  if quantize then
    let q := quantBlock (elemOf qfmt) vals
    (q, q.codes.map fun c => ((elemOf qfmt).decode c).1)
  else
    let e := if fmtScaled d.afmt then (readByte m (32 * (d.asaddr + b * d.asGran) + g)).toNat else 127
    ({ scale := e, codes := [], sat := 0, ufl := 0, nan := b2n (decide (e = 0xFF) || vals.any notFinite) }, vals)

/-! ## Sums -/

/-- Insert by rank. -/
def insertRank {α : Type} (r : Nat) (a : α) : List (Nat × α) → List (Nat × α)
  | [] => [(r, a)]
  | (q, b) :: l => if r ≤ q then (r, a) :: (q, b) :: l else (q, b) :: insertRank r a l

/-- The terms of a sum in the order in which the array adds them, which the spec does not fix (R47, R48, R53): a free rank by the
sum's number `key`. -/
def inOrder {α : Type} (key : Nat) (l : List α) : List α :=
  (((l.mapIdx fun i a => (Config.addRank key i, a)).foldr (fun e acc => insertRank e.1 e.2 acc) [])).map (·.2)

/-- Exact sum. -/
def exactSum (vs : List FVal) : FVal := vs.foldl FVal.add (ofInt 0 0)

/-- Sum in an order and a grouping that the spec does not fix (R47, R48, R53, R78): each addition takes two terms that a free rank
chooses, and rounds. -/
def freeSum (round : FVal → FVal) (key : Nat) : Nat → List FVal → FVal
  | 0, l => l.headD (ofInt 0 0)
  | n + 1, l =>
    match inOrder (key + n) l with
    | a :: b :: rest => freeSum round key n (round (a.add b) :: rest)
    | l => l.headD (ofInt 0 0)

/-- Sum of the terms, numbered `key`. -/
def sumOf (round : FVal → FVal) (key : Nat) (vs : List FVal) : FVal := freeSum round (4096 * key) (vs.length - 1) vs

/-- A value rounded to nearest-even with at least 24 significand bits (R47). -/
def roundSig (bits : Nat) (v : FVal) : FVal := match v with
  | .fin neg m e =>
    let (m', e') := roundMag bits (-100000) .rne neg m e
    .fin neg m' e'
  | w => w

/-- A block partial sum of a column. -/
def blockSum (exact : Bool) (key : Nat) (a w : List FVal) : FVal :=
  let ps := (a.zip w).map fun e => e.1.mul e.2
  if exact then exactSum ps else sumOf (roundSig (24 + Config.extraBits key)) key ps

/-- The FP32 sum of terms, numbered `key`. -/
def sum32 (key : Nat) (vs : List FVal) : Word := toF32 (sumOf (fun v => f32 (toF32 v)) key vs)

/-- A product that enters an FP32 sum: rounded first or fused with the addition, which the spec leaves open. -/
def product32 (key : Nat) (a b : FVal) : FVal := if Config.extraBits key % 2 = 0 then a.mul b else f32 (toF32 (a.mul b))

/-- Σ v[j] and Σ (j + 1) · v[j] of numbered values (R58, R59). -/
def sumPair (key : Nat) (vs : List (Nat × FVal)) : Word × Word :=
  (sum32 (2 * key) (vs.map (·.2)), sum32 (2 * key + 1) (vs.map fun e => product32 key (ofInt (e.1 + 1 : Nat) 0) e.2))

/-- A column's accumulator entry after the tile's blocks: each partial sum times 2^(Xa + Xw) (R47, R48). The column sum may form first, from
nothing, and join the entry once, as R78 describes, or in any other order. -/
def columnSum (exact : Bool) (key : Nat) (t : Tile) (acts : List (QBlock × List FVal)) (j : Nat) (z : Word) : Word :=
  let parts := acts.mapIdx fun g a =>
    let p := blockSum (exact && !t.side.contains j) (key * 64 + g) a.2 (t.block g j)
    match scaleExp a.1.scale, scaleExp (t.scale g j) with
    | some xa, some xw => p.scale (xa + xw)
    | _, _ => .nan
  let lead := if Config.extraBits (64 * key + 63) % 2 = 0 then [ofInt 0 0] else []
  sum32 key (f32 z :: (lead ++ parts))

/-- The columns of summing path `p` among the `nc` columns (R82). -/
def pathCols (nc p : Nat) : List Nat := (upto nc).filter fun j => decide (j / 512 = p)

/-- The checksum cells c0 and c1 of row `k` in summing path `p` (R58, R82). -/
def checkCell (key : Nat) (t : Tile) (p k : Nat) : Word × Word :=
  sumPair key ((pathCols t.nc p).map fun j => (j, scaled (t.scale (k / 32) j) (t.elem k j).1))

/-- A path's Y0 and Y1 of a vector after the tile (R59, R82). -/
def checkSums (key : Nat) (cells : List (Word × Word)) (acts : List (QBlock × List FVal)) (y : Word × Word) : Word × Word :=
  let ps := (acts.flatMap fun a => a.2.map fun v => scaled a.1.scale v).zip cells
  (sum32 (2 * key) (f32 y.1 :: ps.map fun e => product32 key e.1 (f32 e.2.1)),
    sum32 (2 * key + 1) (f32 y.2 :: ps.map fun e => product32 (key + 1) e.1 (f32 e.2.2)))

/-- |v|, and whether |a| ≤ |b| for finite values. -/
def absLe (a b : FVal) : Bool := match a.abs.cmp b with
  | some .gt => false
  | some _ => true
  | none => false

/-- The drain's check of a vector (R59-R61): none when it passes, else the suspected column. -/
def checkVector (key q nc : Nat) (ys : List Word) (y : Word × Word) : Option Nat :=
  let vs := ys.mapIdx fun j w => (j, f32 w)
  let s := sumPair (2 * key) vs
  let s0 := f32 s.1
  let s1 := f32 s.2
  let a := f32 (sum32 (4 * key + 2) (vs.map fun e => e.2.abs))
  let y0 := f32 y.1
  let y1 := f32 y.2
  if [s0, s1, y0, y1].any notFinite then some 0xFFF
  else
    let d0 := s0.add y0.neg
    let d1 := s1.add y1.neg
    let n := (ofInt (nc : Nat) 0)
    if absLe d0 ((a.add y0.abs).scale (-(q : Int))) && absLe d1 (((n.mul a).add y1.abs).scale (-(q : Int))) then none
    else if d0.cmp (ofInt 0 0) = some .eq then some 0xFFF
    else
      -- ρ within 0.25 of j: |d1 - (j + 1) d0| ≤ |d0| / 4
      some (((upto nc).find? fun j => absLe (d1.add ((ofInt (j + 1 : Nat) 0).mul d0).neg) (d0.abs.scale (-2))).getD 0xFFF)

/-! ## The drain (R45, R51) -/

/-- Groups of 32 consecutive outputs that hold a NaN or an Inf: one NAN count each (R63). The spec names no block of an unblocked output:
DESIGN CHOICE, the groups of a blocked one (log 12). -/
def nanGroups (ys : List Word) : Nat :=
  ((upto (ys.length / 32)).filter fun g => ((ys.drop (32 * g)).take 32).any fun y => notFinite (f32 y)).length

/-- The output bytes of a vector, its scale bytes, and SAT, UFL, NAN events. -/
def drainVector (ofmt : Nat) (ys : List Word) : List Byte × List Byte × Nat × Nat × Nat :=
  if ofmt = 0x12 then
    (ys.flatMap (fun y => natLe 4 y.toNat), [], 0, 0, nanGroups ys)
  else if ofmt = 0x11 then
    let es := ys.map fun y => match f32 y with
      | .inf neg => (Fmt.bf16.signed neg Fmt.bf16.infBits, false, false)
      | v => Fmt.bf16.encode .rne true v
    (es.flatMap (fun e => natLe 2 e.1), [], (es.filter (·.2.1)).length, (es.filter (·.2.2)).length, nanGroups ys)
  else
    let x := elemOf ofmt
    let qs := (upto (ys.length / 32)).map fun g => quantBlock x (((ys.drop (32 * g)).take 32).map f32)
    (packBytes x.width (qs.flatMap (·.codes)), qs.map (fun q => BitVec.ofNat 8 q.scale),
      (qs.map (·.sat)).sum, (qs.map (·.ufl)).sum, (qs.map (·.nan)).sum)

/-- The initial accumulator values of a vector (Table 03-4 ACC). -/
def initVector (d : ArrayDesc) (m : Memory) (b : Nat) : List Word :=
  let base := 32 * (d.oaddr + b * d.ostride)
  (upto d.nc).map fun j =>
    if d.ofmt = 0x12 then BitVec.ofNat 32 (leNat (readBytes m (base + 4 * j) 4))
    else bfWord (BitVec.ofNat 16 (leNat (readBytes m (base + 2 * j) 2)))

end Sys2Proof.Machine
end

