-- ==== Sys2Proof/Machine/Home.lean ====
section
/-! DEFINITION. The home of a sector: DRAM, granary lines, way groups and replacement (R224-R249), the directory and its transactions (R259-R273), accesses that keep no copy. -/

namespace Sys2Proof.Machine

open Sys2Proof

/-! ## DRAM behind a home (R288, R297-R299) -/

/-- A sector of DRAM and whether its codewords carry POISON. After a margining sweep the bytes of a sector not written since are free
(R301). -/
def State.dramSector (s : State) (n : Nat) : Sector × Bool :=
  let bs := match (s.die (homeOf n)).undef with
    | some (k, ws) =>
      if ws.contains n then readBytes s.mem.dram (256 * n) 256 else (upto 256).map fun i => Config.freeStack k (256 * n + i)
    | none => readBytes s.mem.dram (256 * n) 256
  (sectorOf bs, s.mem.poison.contains n)

/-- The stack channel of a sector, as a global number (R282). -/
def channelOf (n : Nat) : Nat := 256 * n / channelBytes

/-- The next attempts on the sector's channel fail in parity so often that the channel is at fault (R295). -/
def State.channelBad (s : State) (n : Nat) : Bool := decide (5 ≤ getD 0 s.mem.parity (channelOf n))

/-- An access to the sector's channel: attempts that fail in parity are retried and counted, and the fifth in a row is an interface fault, for which
the partition is to reset (R295). -/
def State.dramTry (s : State) (n : Nat) : State :=
  let k := getD 0 s.mem.parity (channelOf n)
  if k = 0 then s
  else
    let s := { s with mem := { s.mem with parity := setD 0 s.mem.parity (channelOf n) 0 } }.count .memParityRetry (homeOf n) 0 (min 4 k)
    if 5 ≤ k then s.modDie (homeOf n) fun x => { x with ifFault := true } else s

/-- One codeword corrected: counted, and reported once when the window's growth passes the threshold (R298). -/
def State.eccCorrected (s : State) (d : Nat) : State :=
  let s := (s.count .memEccCe d 0 1).modDie d fun x => { x with eccWin := x.eccWin + 1 }
  if (s.die d).eccThr < (s.die d).eccWin ∧ !(s.die d).eccReported then
    (s.modDie d fun x => { x with eccReported := true }).reportDie d (mkCode 0x10A000C0 d)
  else s

/-- The codewords of the sectors for which `p` holds carry no error any more. -/
def State.clearErrs (s : State) (p : Nat → Bool) : State :=
  { s with mem := { s.mem with errs := s.mem.errs.filter fun e => !p (e.1 / 4) } }

/-- One codeword of sector `n` with an error is read: corrected and counted, or the whole sector is poisoned, counted and reported (R298). -/
def State.eccRead (s : State) (n : Nat) (bad : Bool) : State :=
  if bad then
    (({ s with mem := { s.mem with poison := addOnce n s.mem.poison } }).count .memEccUe (homeOf n) 0 1).reportDie (homeOf n)
      (mkCode 0x10A000C1 (homeOf n))
  else s.eccCorrected (homeOf n)

/-- The controller reads a sector: parity retries, then each codeword's outcome. One that carries POISON makes no new count (R298). -/
def State.dramRead (s : State) (n : Nat) : State :=
  let s := s.dramTry n
  if s.mem.poison.contains n then s
  else
    let es := s.mem.errs.filter fun e => decide (e.1 / 4 = n)
    es.foldl (fun (s : State) e => s.eccRead n e.2) (s.clearErrs fun m => decide (m = n))

/-- A read of the sector would find it poisoned in DRAM: it carries POISON, or has a codeword that cannot be corrected. -/
def State.dramPoisoned (s : State) (n : Nat) : Bool :=
  s.mem.poison.contains n || s.mem.errs.any fun e => decide (e.1 / 4 = n) && e.2

/-- Write a whole sector of DRAM, new ECC with it, with or without POISON. -/
def State.dramWrite (s : State) (n : Nat) (d : Sector) (poison : Bool) : State :=
  let s := (s.dramTry n).clearErrs fun m => decide (m = n)
  let s := match (s.die (homeOf n)).undef with
    | some (k, ws) => s.modDie (homeOf n) fun x => { x with undef := some (k, addOnce n ws) }
    | none => s
  { s with mem := { s.mem with
      dram := writeBytes s.mem.dram (256 * n) (sectorBytes d 0 256),
      poison := if poison then addOnce n s.mem.poison else s.mem.poison.filter fun m => decide (m ≠ n) } }

/-! ## Granary lines -/

/-- The segment of a sector's home (R227). -/
def segmentOf (n : Nat) : Nat := granIndex (256 * n) / 1024

def State.gline? (s : State) (n : Nat) : Option GLine := find? (s.die (homeOf n)).gran (n / 4)

/-- Put a line back; a line without a valid sector leaves its way. -/
def State.putGline (s : State) (n : Nat) (l : GLine) : State :=
  s.modDie (homeOf n) fun x => { x with gran := if l.secs.isEmpty then erase x.gran (n / 4) else insert x.gran (n / 4) l }

/-- The granary's copy of a sector. -/
def State.gsec? (s : State) (n : Nat) : Option GSec := (s.gline? n).bind fun l => find? l.secs (n % 4)

/-- Change the granary's copy of a sector that is present. -/
def State.modGsec (s : State) (n : Nat) (f : GSec → GSec) : State :=
  match s.gline? n with
  | none => s
  | some l =>
    match find? l.secs (n % 4) with
    | none => s
    | some g => s.putGline n { l with secs := insert l.secs (n % 4) (f g) }

/-- A line is P while any of its sectors is pinned (R233). -/
def GLine.pinned (l : GLine) : Bool := l.secs.any fun e => !e.2.pins.isEmpty

/-- A line with a sector that the composition pins. -/
def GLine.pinnedBy (l : GLine) (c : Nat) : Bool := l.secs.any fun e => e.2.pins.contains c

/-- A line left with no pinned sector takes class K (R241). -/
def GLine.settlePin (was : GLine) (l : GLine) : GLine := if was.pinned && !l.pinned then { l with cls := .k } else l

/-- Drop a sector from the granary. -/
def State.dropGsec (s : State) (n : Nat) : State :=
  match s.gline? n with
  | none => s
  | some l => s.putGline n (GLine.settlePin l { l with secs := erase l.secs (n % 4) })

/-- The class of a hint, and what it makes of a line's class (R234). Discard acts as evict-first where it allocates (Table 08-1). -/
def hintClass (hint : Nat) : GClass := if hint = 0 then .n else if hint = 1 then .k else .e
def GClass.hinted (c : GClass) (hint : Nat) : GClass :=
  match hint, c with
  | 1, _ => .k
  | 0, .e => .n
  | 2, .n => .e
  | 3, .n => .e
  | _, c => c

/-- An access to a line of die `d` makes it most recently used, applies its hint, and counts in the thrash window when the line is not pinned (R233,
R234, R245). -/
def State.touchLine (s : State) (d ln : Nat) (hint : Option Nat) (miss : Bool) : State :=
  s.modDie d fun x =>
    match find? x.gran ln with
    | none => if miss then { x with accesses := x.accesses + 1, misses := x.misses + 1 } else x
    | some l =>
      let l' := { l with lru := x.lru + 1, cls := match hint with
        | some h => l.cls.hinted h
        | none => l.cls }
      let y := if l.pinned then x else { x with accesses := x.accesses + 1, misses := x.misses + b2n miss }
      { y with lru := x.lru + 1, gran := insert y.gran ln l' }

/-- An access to a sector touches its line at the home. -/
def State.touch (s : State) (n : Nat) (hint : Option Nat) (miss : Bool) : State := s.touchLine (homeOf n) (n / 4) hint miss

/-- The slices of a line's way group: those that the owning slice's composition holds on the home die, or the owning slice alone
(R229, R230). -/
def State.wayGroup (s : State) (n : Nat) : List Nat :=
  let k := ownerSlice n
  match s.owner? k with
  | some (c, false) =>
    match s.comp? c with
    | some x => x.cur.slices.filter fun j => decide (dieOf j = homeOf n)
    | none => [k]
  | _ => [k]

/-- The lines of a die's set, by line number. -/
def Die.setLines (x : Die) (idx : Nat) : List (Nat × GLine) := x.gran.filter fun e => decide (granIndex (1024 * e.1) = idx)

/-- A slice of the group with a way to spare in the set (R229). -/
def freeWay (ls : List (Nat × GLine)) (group : List Nat) : Option Nat :=
  group.find? fun k => decide ((ls.filter fun e => e.2.way = k).length < 3)

/-- The least recently used of some lines. -/
def oldest : List (Nat × GLine) → Option (Nat × GLine)
  | [] => none
  | e :: es =>
    match oldest es with
    | none => some e
    | some f => if e.2.lru ≤ f.2.lru then some e else some f

/-- The leased sectors of a line are all at hand: none is being fetched. -/
def Die.leasesIdle (x : Die) (ln : Nat) : Bool := (upto 4).all fun i => (find? x.leases (4 * ln + i)).all fun l => !l.pending

/-- The line that a group gives up: never a P line, nor one with a busy sector or a fetch under way; E before N before K, least recently used
(R233, R253, R269). -/
def Die.victim? (x : Die) (ls : List (Nat × GLine)) (group : List Nat) : Option (Nat × GLine) :=
  let ok := ls.filter fun e =>
    group.contains e.2.way && !e.2.pinned && x.leasesIdle e.1 && (upto 4).all fun i => (find? x.trans (4 * e.1 + i)).isNone
  match oldest (ok.filter fun e => decide (e.2.cls = .e)) with
  | some e => some e
  | none =>
    match oldest (ok.filter fun e => decide (e.2.cls = .n)) with
    | some e => some e
    | none => oldest (ok.filter fun e => decide (e.2.cls = .k))

/-- Write a dirty sector back, charged to the composition of the line's way group (R232, R406), and drop it. -/
def State.writeBackDrop (s : State) (n : Nat) : State :=
  match s.gline? n, s.gsec? n with
  | some l, some g =>
    let s := if g.dirty then (s.dramWrite n g.data g.poison).meter l.way 4 1 else s
    s.dropGsec n
  | _, _ => s

/-! ## Messages (Table 09-2) -/

/-- Bytes of the location. -/
def atomBytes : AtomTy → Nat
  | .u64 => 8
  | _ => 4

/-- Bytes of operands of an atomic group: one value for each member, two of a CAS that is asked for (R309). -/
def operandBytes (g : AtomGroup) (asked : Bool) : Nat :=
  g.members.length * atomBytes g.ty * (if asked && decide (g.op = .cas) then 2 else 1)

/-- Flits that carry a message: an AtomReq or AtomResp with more than 256 bytes of operands takes a further one (R309). -/
def CohMsg.flits : CohMsg → Nat
  | .atomReq g => if 256 < operandBytes g true then 2 else 1
  | .atomResp g _ _ => if 256 < operandBytes g false then 2 else 1
  | _ => 1

/-- Charge the flits between slice `k` and the home of sector `n`, which cross the fabric when they lie on two dies (Table 14-6). -/
def State.meterFlits (s : State) (k n flits : Nat) : State := if dieOf k = homeOf n then s else s.meter k 6 flits

/-- Send a message between a cache and a home; its flits are charged to the slice of the cache (R406). -/
def State.send (s : State) (n cache : Nat) (m : CohMsg) : State :=
  ({ s with net := s.net ++ [{ sector := n, cache := cache, msg := m }] } : State).meterFlits cache n m.flits

/-- The line that cache `k` holds of sector `n`, if any (R266). -/
def State.line? (s : State) (k n : Nat) : Option CLine := find? (s.core k).cache n
def State.setLine (s : State) (k n : Nat) (l : CLine) : State := s.modCore k fun c => { c with cache := insert c.cache n l }
def State.dropLine (s : State) (k n : Nat) : State := s.modCore k fun c => { c with cache := erase c.cache n }

/-- The channel of a message: REQ 0, FWD 1, RSP 2 (Table 09-2). -/
def CohMsg.channel : CohMsg → Nat
  | .getS _ | .getM _ _ | .putM _ _ | .atomReq _ | .raddReq _ => 0
  | .inv | .recall _ => 1
  | .invAck | .recallData _ _ | .dataS _ _ | .dataM _ _ | .grantM | .wbAck | .atomResp _ _ _ | .raddAck _ _ => 2

/-- Take the message that has arrived off the network, if it is under way there. -/
def State.arrived (s : State) (n cache : Nat) (p : CohMsg → Bool) : State :=
  { s with net := removeFirst (fun m => decide (m.sector = n) && decide (m.cache = cache) && p m.msg) s.net }

/-- Send Inv to caches on dies in service; those on a die under reset count as acknowledged (R274). -/
def State.sendInvs (s : State) (n : Nat) (cs : List Nat) : State × List Nat :=
  let live := cs.filter fun k => s.dieUp (dieOf k)
  ((live.foldl (fun (s : State) k => s.send n k .inv) s).count .grnCohInv (homeOf n) 0 live.length, live)

/-- The caches that a directory entry says may hold the sector (R262, R263). -/
def Dir.holders : Dir → List Nat
  | .un => []
  | .sh ks => ks
  | .coarse ds => (upto 24).flatMap fun d => if bit ds d then slicesOf d else []
  | .ex o => [o]

/-- The directory entry of a sector: UN when absent. -/
def State.dirOf (s : State) (n : Nat) : Dir := ((s.gsec? n).map (·.dir)).getD .un

/-! ## Transactions (Table 09-4) -/

/-- What a request awaits when it starts: Invs to these caches, a Recall, a fill, a memory-controller operation. -/
structure Needs where
  invs : List Nat
  from_ : Option (Nat × Bool)
  fill : Bool
  memOp : Bool
  deriving DecidableEq, Repr

/-- An atomic, a read or a write that allocates nothing when the sector is absent (R236, R273). -/
def HomeReq.uncached : HomeReq → Bool
  | .atom _ g | .radd _ g => g.uncached
  | .read _ u _ _ | .pref _ _ u _ | .write _ _ u _ _ _ _ _ => u
  | _ => false

/-- A discard (Table 08-1): a read or PREF with that hint. -/
def HomeReq.discards : HomeReq → Bool
  | .read _ _ h _ | .pref _ h _ _ => decide (h = 3)
  | _ => false

/-- The hint that the access applies to its line (R234); none for a discard, an UNCACHED access and what is no access. -/
def HomeReq.hint : HomeReq → Option Nat
  | .getS _ h | .getM _ h _ => some h
  | .atom _ g | .radd _ g => some g.hint
  | .read _ u h _ => if u ∨ h = 3 then none else some h
  | .pref _ h _ _ => if h = 3 then none else some h
  | .write _ _ u h _ _ _ _ => if u then none else some h
  | _ => none

/-- The request is an access to the sector. -/
def HomeReq.access : HomeReq → Bool
  | .victim | .dropped | .ticket _ | .putM _ _ _ => false
  | _ => true

/-- A write of all 256 bytes needs no fill (R232). -/
def HomeReq.wholeWrite : HomeReq → Bool
  | .write _ .write _ _ first len _ _ => decide (first = 0) && decide (len = 256)
  | _ => false

/-- The row of Table 09-4: what the request needs in this directory state. A PREF needs no data of an owner, and with the discard hint no fill
(Table 08-1, R237). -/
def needsOf (req : HomeReq) (dir : Dir) (present : Bool) : Needs :=
  let none_ : Needs := { invs := [], from_ := none, fill := false, memOp := false }
  match dir with
  | .un =>
    if present then none_
    else match req with
      | .victim | .dropped | .ticket _ | .putM _ _ _ => none_
      | .read _ _ 3 _ => { none_ with memOp := true }
      | .pref _ h u _ => if h = 3 ∨ u then none_ else { none_ with fill := true }
      | _ =>
        if req.uncached then { none_ with memOp := true }
        else if req.wholeWrite then none_
        else { none_ with fill := true }
  | .ex o =>
    match req with
    | .getS _ _ => { none_ with from_ := some (o, false) }
    | .read _ _ h _ => { none_ with from_ := some (o, decide (h = 3)) }
    | .pref _ h _ _ => if h = 3 then { none_ with from_ := some (o, true) } else none_
    | _ => { none_ with from_ := some (o, true) }
  | dir =>
    match req with
    | .getS _ _ => none_
    | .read _ _ h _ | .pref _ h _ _ => if h = 3 then { none_ with invs := dir.holders } else none_
    | .getM x _ _ => { none_ with invs := dir.holders.filter fun k => decide (k ≠ x) }
    | _ => { none_ with invs := dir.holders }

/-- The slice that a request's DRAM work is charged to. -/
def HomeReq.payer (n : Nat) : HomeReq → Nat
  | .getS x _ | .getM x _ _ | .atom x _ | .radd x _ | .pref x _ _ _ => x
  | .read (.transfer q _) _ _ _ | .write (.transfer q _) _ _ _ _ _ _ _ => if q.q < 8 then 8 * q.die + q.q else ownerSlice n
  | _ => ownerSlice n

/-! ### Moved sectors (R400) -/

/-- Mark a sector of the old place of a writable region under move. -/
def Comp.markMove (c : Comp) (n : Nat) : Comp :=
  match c.move with
  | none => c
  | some m =>
    let map := if m.phase = .final then c.prev.getD c.cur else c.cur
    match map.regions.find? fun r => decide (r.vbase = m.vbase) with
    | none => c
    | some r =>
      if r.ro ∨ r.shared then c
      else
        match setOffset? (map.set r.set) (256 * n) with
        | none => c
        | some x =>
          if r.offset ≤ x ∧ x < r.offset + r.size then
            { c with move := some { m with marks := addOnce ((x - r.offset) / 256) m.marks } }
          else c

def State.markMove (s : State) (n : Nat) : State :=
  { s with yoke := { s.yoke with comps := mapVals (fun _ c => c.markMove n) s.yoke.comps } }

/-- A write to a sector performed at its home: watchers of the line wake, and a region under move marks it (R125, R400). -/
def State.written (s : State) (n : Nat) : State := (s.wakeLine n).markMove n

/-! ### Atomics and adds (Table 05-10, R247, R272) -/

/-- 32-bit result of an atomic's new value. -/
def atom32 (op : AtomOp) (ty : AtomTy) (old b c : Word) : Word :=
  match op, ty with
  | .add, .f32 => fadd32 old b
  | .add, .bf16x2 => bfPair2 fadd32 old b
  | .add, _ => old + b
  | .min, .f32 => fmin32 old b
  | .min, .s32 => if old.sle b then old else b
  | .min, _ => if old.ule b then old else b
  | .max, .f32 => fmax32 old b
  | .max, .s32 => if b.sle old then old else b
  | .max, _ => if b.ule old then old else b
  | .and, _ => old &&& b
  | .or, _ => old ||| b
  | .xor, _ => old ^^^ b
  | .xch, _ => b
  | .cas, _ => if old = b then c else old

/-- 64-bit result of an atomic's new value. -/
def atom64 (op : AtomOp) (old b c : DWord) : DWord :=
  match op with
  | .add => old + b
  | .min => if old.ule b then old else b
  | .max => if b.ule old then old else b
  | .and => old &&& b
  | .or => old ||| b
  | .xor => old ^^^ b
  | .xch => b
  | .cas => if old = b then c else old

/-- The new value of a location of the group's TYPE, as a number. -/
def groupApply (g : AtomGroup) (old : Nat) (m : AtomMember) : Nat :=
  match g.ty with
  | .u64 => (atom64 g.op (BitVec.ofNat 64 old) m.b m.c).toNat
  | _ => (atom32 g.op g.ty (BitVec.ofNat 32 old) (m.b.setWidth 32) (m.c.setWidth 32)).toNat

/-- The members take effect in ascending thread order: the last value, and the value before each (R129). -/
def groupRun (g : AtomGroup) : Nat → List AtomMember → Nat × List DWord
  | v, [] => (v, [])
  | v, m :: ms =>
    let (w, olds) := groupRun g (groupApply g v m) ms
    (w, BitVec.ofNat 64 v :: olds)

/-- The group applied to a sector. -/
def groupOnSector (g : AtomGroup) (d : Sector) : Sector × List DWord :=
  let v := leNat (sectorBytes d g.byte (atomBytes g.ty))
  let (w, olds) := groupRun g v g.members
  (setSectorBytes d g.byte (natLe (atomBytes g.ty) w), olds)

/-- Add the 32-bit elements `bs` to a sector from byte `i` up (R246, R247). -/
def addElems (bf : Bool) (d : Sector) (i : Nat) : List Byte → Sector
  | b0 :: b1 :: b2 :: b3 :: rest =>
    let old : Word := BitVec.ofNat 32 (leNat (sectorBytes d i 4))
    let v : Word := BitVec.ofNat 32 (leNat [b0, b1, b2, b3])
    let w := if bf then bfPair2 fadd32 old v else fadd32 old v
    addElems bf (setSectorBytes d i (natLe 4 w.toNat)) (i + 4) rest
  | [b0, b1] =>
    let old := BitVec.ofNat 32 (leNat (sectorBytes d i 2) * 65536)
    let w := fadd32 old (BitVec.ofNat 32 (leNat [b0, b1] * 65536))
    setSectorBytes d i (natLe 2 (toBf w).toNat)
  | _ => d

/-- A non-caching write's bytes applied to a sector. -/
def ncOnSector (k : NcWriteKind) (d : Sector) (first len : Nat) (src : Sector) : Sector :=
  let bs := sectorBytes src first len
  match k with
  | .write => setSectorBytes d first bs
  | .addF32 => addElems false d first bs
  | .addBf16 => addElems true d first bs

/-! ### Starting, finishing, waiting -/

/-- The directory after X has joined the readers: a GetS that finds four pointers in use switches to coarse mode (R263). -/
def Dir.join (dir : Dir) (x : Nat) : Dir :=
  match dir with
  | .sh ks =>
    if 4 ≤ ks.length then .coarse ((ks ++ [x]).foldl (fun (m : BitVec 24) k => m ||| BitVec.ofNat 24 (2 ^ dieOf k)) 0)
    else if ks.contains x then .sh ks
    else .sh (ks ++ [x])
  | .coarse ds => .coarse (ds ||| BitVec.ofNat 24 (2 ^ dieOf x))
  | .un => .sh [x]
  | .ex o => .sh [o, x]

/-- Start a transaction: send the Invs or the Recall and record what is awaited. A hint is applied here where the sector is present, else where it
is allocated (R234). -/
def State.startTrans (s : State) (n : Nat) (req : HomeReq) : State :=
  let d := homeOf n
  let present := (s.gsec? n).isSome
  let needs := needsOf req (s.dirOf n) present
  let s := if req.access then s.touch n (if present then req.hint else none) (!present) else s
  let (s, acks) := s.sendInvs n needs.invs
  let s := match needs.from_ with
    | some (o, toI) => (s.send n o (.recall toI)).count .grnCohRecall d 0 1
    | none => s
  let t : Trans := { req := req, acks := acks, owner := needs.from_, fill := needs.fill, memOp := needs.memOp,
                     byPutM := false }
  s.modDie d fun x => { x with trans := insert x.trans n t }

/-- Transactions of a die's segment under way. -/
def Die.segTrans (x : Die) (seg : Nat) : Nat := (x.trans.filter fun e => decide (segmentOf e.1 = seg)).length

/-- The first line number that stands for leased memory: device lines lie below (R250). -/
def leaseLines : Nat := 2 ^ 31

/-- Give a line of die `d` up to make room: at once where no cache holds a sector of it; else its sectors' victim transactions start, if the
segment has entries for them and no sweep runs (R228, R233, R259, R274). The leases of a leased line end (R253). -/
def State.giveUp (s : State) (d ln : Nat) : State :=
  let secs := (upto 4).map fun i => 4 * ln + i
  if leaseLines ≤ ln then
    s.modDie d fun x => { x with gran := erase x.gran ln, leases := x.leases.filter fun e => decide (e.1 / 4 ≠ ln) }
  else
    let held := secs.filter fun n => decide (s.dirOf n ≠ .un)
    let x := s.die d
    if held.isEmpty then secs.foldl (fun (s : State) n => s.writeBackDrop n) s
    else if !x.sweep.isEmpty ∨ 32 < x.segTrans (segmentOf (4 * ln)) + held.length then s
    else secs.foldl (fun (s : State) n => if s.dirOf n = .un then s.writeBackDrop n else s.startTrans n .victim) s

/-- A line of the set that the group gives up is on its way out. -/
def Die.leaving (x : Die) (ls : List (Nat × GLine)) (group : List Nat) : Bool :=
  ls.any fun e => group.contains e.2.way && (upto 4).any fun i => (find? x.trans (4 * e.1 + i)).any fun t => decide (t.req = .victim)

/-- A way for a new line in a set of die `d`, in a group: one that is free, or the victim's; none while the victim is on its way out, or where no
line can be given up (R230, R233, R269). -/
def State.makeRoom (s : State) (d idx : Nat) (group : List Nat) : State × Option Nat :=
  let x := s.die d
  let ls := x.setLines idx
  match freeWay ls group with
  | some w => (s, some w)
  | none =>
    if x.leaving ls group then (s, none)
    else
      match x.victim? ls group with
      | none => (s, none)
      | some (ln, l) =>
        let s := s.giveUp d ln
        (s, if (find? (s.die d).gran ln).isNone then some l.way else none)

/-- Start to make room for the line of a sector that has none. -/
def State.roomFor (s : State) (n : Nat) : State :=
  if (s.gline? n).isSome then s else (s.makeRoom (homeOf n) (granIndex (256 * n)) (s.wayGroup n)).1

/-- Allocate a sector in its line, or in a way of its group, and apply the access's hint; the flag says whether there was room (R230, R233,
R234, R269). -/
def State.allocSector (s : State) (n hint : Nat) (g : GSec) : State × Bool :=
  let d := homeOf n
  match s.gline? n with
  | some l =>
    (s.modDie d fun x =>
      let l : GLine := { l with lru := x.lru + 1, cls := l.cls.hinted hint, secs := insert l.secs (n % 4) g }
      { x with lru := x.lru + 1, gran := insert x.gran (n / 4) l }, true)
  | none =>
    match s.makeRoom d (granIndex (256 * n)) (s.wayGroup n) with
    | (s, none) => (s, false)
    | (s, some w) =>
      (s.modDie d fun x =>
        let l : GLine := { cls := hintClass hint, lru := x.lru + 1, way := w, pinAt := [], secs := [(n % 4, g)] }
        { x with lru := x.lru + 1, gran := insert x.gran (n / 4) l }, true)

/-- Whether discards of composition `c` through a region run in debug mode (R239). -/
def State.discardDebug (s : State) (c : Nat) (ro : Bool) : Bool :=
  !ro && ((s.comp? c).any fun x => x.cur.discardPoison)

/-- Drop a sector as a discard does, or poison it in debug mode, which first allocates an absent one; dirty data is counted (R237-R240). No cache
holds it any more. The flag says whether there was room. -/
def State.discardSector (s : State) (n : Nat) (debug : Bool) : State × Bool :=
  let lost := ((s.gsec? n).any fun g => g.dirty)
  let note (s : State) : State := (if lost then s.count .grnDiscardDirty (homeOf n) 0 1 else s).markMove n
  let dead : GSec := { data := 0, dirty := true, poison := true, pins := [], dir := .un }
  if debug then
    match s.gline? n, s.gsec? n with
    | some l, some _ => (note (s.putGline n (GLine.settlePin l { l with secs := insert l.secs (n % 4) dead })), true)
    | _, _ =>
      match s.allocSector n 3 dead with
      | (t, true) => (note t, true)
      | (t, false) => (t, false)
  else (note (s.dropGsec n), true)

/-- The transfers of a queue: a core's, or its die's reeve's. -/
def State.xfers (s : State) (q : XQueue) : List Xfer := if q.q < 8 then (s.core (8 * q.die + q.q)).xfers else (s.die q.die).reeveXfers

/-- The composition that a non-caching agent works for. -/
def State.agentComp (s : State) : NcAgent → Option Nat
  | .transfer q t => ((s.xfers q).find? fun x => decide (x.token.toNat = t)).map (·.comp)
  | _ => none

/-- A request's discard runs in debug mode. -/
def State.reqDebug (s : State) : HomeReq → Bool
  | .read src _ _ ro => (s.agentComp src).any fun c => s.discardDebug c ro
  | .pref _ _ _ debug => debug
  | _ => false

/-- Perform the completion of the row that started the transaction (Table 09-4); nothing is awaited any more. The answer says
whether a needed allocation found room; where it did not, the transaction stays. -/
def State.finishTrans (s : State) (n : Nat) (t : Trans) : State × Bool :=
  let d := homeOf n
  let done (s : State) : State := s.modDie d fun x =>
    { x with trans := erase x.trans n, segDone := setD 0 x.segDone (segmentOf n) (getD 0 x.segDone (segmentOf n) + 1) }
  -- the sector's data: the granary's, else DRAM's
  let cur := match s.gsec? n with
    | some g => (g.data, g.poison)
    | none => s.dramSector n
  let setDir (s : State) (dir : Dir) : State := s.modGsec n fun g => { g with dir := dir }
  let fresh : GSec := { data := cur.1, dirty := false, poison := cur.2, pins := [], dir := .un }
  let room (s : State) (hint : Nat) (k : State → State) : State × Bool :=
    if (s.gsec? n).isSome then (done (k s), true)
    else
      let (s, ok) := s.allocSector n hint fresh
      if ok then (done (k s), true) else (s, false)
  match t.req with
  | .getS x hint =>
    room s hint fun s =>
      let dir := match s.dirOf n with
        | .ex o => if t.byPutM then .sh [x] else .sh [o, x]
        | dir => dir.join x
      (setDir s dir).send n x (.dataS cur.1 cur.2)
  | .getM x hint have_ =>
    room s hint fun s =>
      let grant := have_ && (match s.dirOf n with
        | .sh ks => ks.contains x
        | _ => false)
      let s := (setDir s (.ex x)).markMove n
      s.send n x (if grant then .grantM else .dataM cur.1 cur.2)
  | .atom x g | .radd x g =>
    let ret (s : State) (olds : List DWord) (p : Bool) : State :=
      match t.req with
      | .radd _ _ => s.send n x (.raddAck g p)
      | _ => s.send n x (.atomResp g olds p)
    if g.uncached ∧ (s.gsec? n).isNone then
      -- at the memory controller: a poisoned sector is left as it is (R273, R299)
      if cur.2 then (done (ret s [] true), true)
      else
        let (v, olds) := groupOnSector g cur.1
        (done (ret ((s.dramWrite n v false).written n) olds false), true)
    else
      room s g.hint fun s =>
        let s := setDir s .un
        if cur.2 then ret s [] true
        else
          let (v, olds) := groupOnSector g cur.1
          ret ((s.modGsec n fun y => { y with data := v, dirty := true }).written n) olds false
  | .read src unc hint _ =>
    let ret (s : State) : State := (s.out (.ncData src n cur.1 cur.2)).meterFlits (t.req.payer n) n (accessFlits 256)
    if hint = 3 then
      match (setDir s .un).discardSector n (s.reqDebug t.req) with
      | (s, true) => (done (ret s), true)
      | (s, false) => (s, false)
    else if unc ∧ (s.gsec? n).isNone then (done (ret s), true)
    else
      room s hint fun s =>
        let dir := match s.dirOf n with
          | .ex o => if t.byPutM then .un else .sh [o]
          | dir => dir
        ret (setDir s dir)
  | .pref _ hint unc debug =>
    -- no effect on a poisoned sector (R159)
    if hint = 3 then
      if cur.2 then (done (setDir s .un), true)
      else
        match (setDir s .un).discardSector n debug with
        | (s, true) => (done s, true)
        | (s, false) => (s, false)
    else if (s.gsec? n).isSome ∨ unc ∨ cur.2 then (done s, true)
    else room s hint id
  | .write src kind unc hint first len data poison =>
    let v := ncOnSector kind cur.1 first len data
    let p := poison || (cur.2 && !t.req.wholeWrite)
    let ret (s : State) : State := (s.out (.ncDone src n 0)).meterFlits (t.req.payer n) n (accessFlits 256)
    if unc ∧ (s.gsec? n).isNone then (done (ret ((s.dramWrite n v p).written n)), true)
    else
      room s hint fun s =>
        let s := (setDir s .un).modGsec n fun y => { y with data := v, dirty := !unc, poison := p }
        let s := if unc then s.dramWrite n v p else s
        ret (s.written n)
  | .victim => (done (s.writeBackDrop n), true)
  | .ticket _ | .putM _ _ _ => (done s, true)
  | .dropped =>
    (done (setDir s (match s.dirOf n with
      | .ex o => if t.byPutM then .un else .sh [o]
      | _ => .un)), true)

/-- Complete a transaction that awaits nothing (R268, R270). -/
def State.settleTrans (s : State) (n : Nat) : State :=
  match find? (s.die (homeOf n)).trans n with
  | none => s
  | some t =>
    if t.acks.isEmpty ∧ t.owner.isNone ∧ !t.fill ∧ !t.memOp then (s.finishTrans n t).1 else s

/-- Write recalled or written-back data into the granary: the sector is dirty (Table 09-4). -/
def State.takeData (s : State) (n : Nat) (v : Sector) (p : Bool) : State :=
  s.modGsec n fun g => { g with data := v, poison := p, dirty := true }

/-- The owner whose data the sector's transaction awaits. -/
def State.awaited (s : State) (n : Nat) : Option Nat := ((find? (s.die (homeOf n)).trans n).bind (·.owner)).map (·.1)

/-- Change the sector's transaction. -/
def State.modTrans (s : State) (n : Nat) (f : Trans → Trans) : State :=
  s.modDie (homeOf n) fun x =>
    match find? x.trans n with
    | some t => { x with trans := insert x.trans n (f t) }
    | none => x

/-- The PutM row of Table 09-4: absorbed from the owner, or taken as X's RecallData where a Recall to X is pending (R269); none in a cell marked
error. -/
def State.absorbPutM (s : State) (n x : Nat) (v : Sector) (p : Bool) : Option State :=
  if s.awaited n = some x then some (((s.takeData n v p).send n x .wbAck).modTrans n fun t => { t with owner := none, byPutM := true })
  else if (find? (s.die (homeOf n)).trans n).isNone ∧ s.dirOf n = .ex x then
    some ((((s.takeData n v p).modGsec n fun g => { g with dir := .un }).touch n none false).send n x .wbAck)
  else none

/-! ### The pending buffer (R259, R265) -/

/-- A transfer's chunk is still to be performed. -/
def State.chunkOpen (s : State) (q : XQueue) (t : Word) (i : Nat) : Bool :=
  (s.xfers q).any fun x => decide (x.token = t) && (match x.phase with
    | .running _ => true
    | _ => false) && !x.done.contains i && !s.revokedCtx x.context

/-- Who holds a place in the pending buffer of sector `n` still waits there. -/
def State.waiterLive (s : State) (n : Nat) : Waiter → Bool
  | .drill d => ((s.drill? d).bind (·.mem)).any fun m => m.due.contains n
  | .chunk q t i => s.chunkOpen q t i
  | .bar4 => !s.host.barQ.isEmpty
  | .pin e => (s.fn e.fn).entries.any fun y => decide (y.ref = e)
  | .page p => (find? (s.die (homeOf n)).refetch p).isSome
  | .frame k read q => s.link.waiting.any fun h =>
      decide (4096 * (h.port / 8) + bits h.frame.w0 47 36 = k) && decide (decide (bits h.frame.w0 59 56 = 1) = read) &&
        decide (h.frame.w0.setWidth 24 = q)
  | .reeve => false

/-- A pending request that still stands. -/
def State.pendLive (s : State) (e : Nat × HomeReq) : Bool :=
  match e.2 with
  | .ticket w => s.waiterLive e.1 w
  | _ => true

/-- Places that no one waits at are given up. -/
def State.prune (s : State) (d : Nat) : State := s.modDie d fun x => { x with pend := x.pend.filter fun e => s.pendLive e }

/-- The first request that can start: its sector has no transaction and no earlier one waiting, and a place of a whole access is not started; a
write-back that a transaction awaits is taken at once. -/
def State.startable (s : State) (x : Die) : List (Nat × HomeReq) → List Nat → Option (Nat × HomeReq)
  | [], _ => none
  | (n, r) :: es, seen =>
    let free := !seen.contains n && (find? x.trans n).isNone
    let ok := match r with
      | .ticket _ => false
      | .putM k v p => (decide (s.awaited n = some k) || free) && (s.absorbPutM n k v p).isSome
      | _ => free && decide (x.segTrans (segmentOf n) < 32)
    if ok then some (n, r) else State.startable s x es (n :: seen)

/-- Start pending requests in arrival order (R259); none while a sweep runs (R274). -/
def State.pump : Nat → State → Nat → State
  | 0, s, _ => s
  | k + 1, s, d =>
    let s := s.prune d
    let x := s.die d
    if !x.sweep.isEmpty then s
    else
      match s.startable x x.pend [] with
      | none => s
      | some (n, req) =>
        let s := s.setDie d { x with pend := removeFirst (fun e => decide (e = (n, req))) x.pend }
        State.pump k (match req with
          | .putM k v p => ((s.absorbPutM n k v p).getD s).settleTrans n
          | _ => (s.startTrans n req).settleTrans n) d

/-- As many turns as the die has pending requests. -/
def State.pumpAll (s : State) (d : Nat) : State := s.pump ((s.die d).pend.length + 1) d

/-- After an answer has arrived at a home: complete the transaction and any other that only waited for a way, and start what waited
(R259, R269). -/
def State.advance (s : State) (n : Nat) : State :=
  let s := s.settleTrans n
  let s := ((keys (s.die (homeOf n)).trans).filter fun m => decide (m ≠ n)).foldl (fun (s : State) m => s.settleTrans m) s
  s.pumpAll (homeOf n)

/-- The segment withholds its request credits: its 32 transactions or its 64 pending requests are all in use (R259). -/
def Die.withholds (x : Die) (seg : Nat) : Bool :=
  decide (32 ≤ x.segTrans seg) || decide (64 ≤ (x.pend.filter fun e => decide (segmentOf e.1 = seg)).length)

/-- Pending requests of a die's segment. -/
def Die.segPend (x : Die) (seg : Nat) : Nat := (x.pend.filter fun e => decide (segmentOf e.1 = seg)).length

/-- Put a request in the pending buffer; the highest occupancy is kept (R277). -/
def State.enqueue (s : State) (n : Nat) (req : HomeReq) : State :=
  let d := homeOf n
  let s := s.modDie d fun x => { x with pend := x.pend ++ [(n, req)] }
  s.setReg .grnCohPend d 0 (max (s.reg .grnCohPend d 0) ((s.die d).segPend (segmentOf n)))

/-- A request reaches its home: it starts, or waits in the segment's pending buffer; none while the segment withholds its credits (R259). `take`
takes it off its way. -/
def State.request? (s : State) (n : Nat) (req : HomeReq) (take : State → State) : Option State :=
  let s := s.prune (homeOf n)
  let x := s.die (homeOf n)
  if x.withholds (segmentOf n) then none
  else if (find? x.trans n).isSome || x.pend.any (fun e => decide (e.1 = n)) || !x.sweep.isEmpty then some ((take s).enqueue n req)
  else some (((take s).startTrans n req).advance n)

/-- As above; a request without credit stays where it is. -/
def State.request (s : State) (n : Nat) (req : HomeReq) (take : State → State) : State := (s.request? n req take).getD s

/-! ## Accesses that keep no copy, whole at the home (R257, R215, R265) -/

/-- A data-cache line's state is stable. -/
def CState.stable : CState → Bool
  | .s | .m => true
  | _ => false

/-- No transaction of the sector is in progress, no sweep runs at its home, and no message of an earlier transaction is under way. -/
def State.quiet (s : State) (n : Nat) : Bool :=
  let x := s.die (homeOf n)
  (find? x.trans n).isNone && x.sweep.isEmpty && s.net.all fun m => decide (m.sector ≠ n) || decide (m.msg.channel = 0)

/-- Nothing waits at the sector's home before place `w`. -/
def State.firstFor (s : State) (n : Nat) (w : Option Waiter) : Bool :=
  let before (e : Nat × HomeReq) : Bool := match w with
    | some w => decide (e ≠ (n, .ticket w))
    | none => true
  ((s.die (homeOf n)).pend.takeWhile before).all fun e => decide (e.1 ≠ n) || !s.pendLive e

/-- Nothing is under way for the sector, and nothing waits. -/
def State.settled (s : State) (n : Nat) : Bool := s.quiet n && s.firstFor n none

/-- The access of `w` may be performed now: its die is in service, its turn has come, and the segment has a transaction entry. -/
def State.ready (s : State) (n : Nat) (w : Waiter) : Bool :=
  let x := s.die (homeOf n)
  s.quiet n && s.dieUp (homeOf n) && !x.ifFault && decide (x.segTrans (segmentOf n) < 32) && s.firstFor n (some w)

/-- What an access that could not be performed sets off: room is made where it only wanted a way, and a channel at fault is found out (R269,
R295). -/
def State.nudge (s : State) (n : Nat) (w : Waiter) : State :=
  if s.dieUp (homeOf n) ∧ s.ready n w then (if s.channelBad n then s.dramTry n else s.roomFor n) else s

/-- An access that could not be performed takes its place in the pending buffer, once (R259, R265). -/
def State.hold (s : State) (n : Nat) (w : Waiter) : State :=
  let d := homeOf n
  if !s.dieUp d then s
  else
    let s := s.nudge n w
    let s := s.prune d
    let x := s.die d
    if x.pend.contains (n, .ticket w) ∨ x.withholds (segmentOf n) then s else s.enqueue n (.ticket w)

/-- The access has been performed: its place is free, and what waited behind it starts. -/
def State.unhold (s : State) (n : Nat) (w : Waiter) : State :=
  let d := homeOf n
  if (s.die d).pend.contains (n, .ticket w) then
    (s.modDie d fun x => { x with pend := removeFirst (fun e => decide (e = (n, .ticket w))) x.pend }).pumpAll d
  else s

/-- An access to several sectors waits at one home only: its other places are given up, so that two of them never wait for each other. -/
def State.holdOnly (s : State) (n : Nat) (w : Waiter) : State :=
  let s := (keys s.dies).foldl (fun (s : State) d =>
    let mine (e : Nat × HomeReq) : Bool := decide (e.2 = .ticket w) && decide (e.1 ≠ n)
    if (s.die d).pend.any mine then (s.modDie d fun x => { x with pend := x.pend.filter fun e => !mine e }).pumpAll d else s) s
  s.hold n w

/-- The Inv row of Table 09-3, at once. -/
def State.invNow (s : State) (k n : Nat) : State :=
  match s.line? k n with
  | none => s
  | some l =>
    match l.st with
    | .s => s.dropLine k n
    | .isD => s.setLine k n { l with st := .isDI }
    | .smD => s.setLine k n { l with st := .imD }
    | _ => s

/-- Recall the sector's data from its owner, which keeps S or drops its copy, or whose write-back is taken for it; with `toI` every cache drops
its copy (Tables 09-3 and 09-4). `takeData`: the owner's data is merged. -/
def State.recallNow (s : State) (n : Nat) (toI takeData : Bool) : State :=
  let take (s : State) (l : CLine) : State := if takeData then s.takeData n l.data l.poison else s
  let setDir (s : State) (dir : Dir) : State := s.modGsec n fun g => { g with dir := dir }
  match s.dirOf n with
  | .un => s
  | .ex o =>
    let s := s.count .grnCohRecall (homeOf n) 0 1
    match s.line? o n with
    | none => setDir s .un
    | some l =>
      let s := take s l
      if l.st = .miA then
        setDir ((s.arrived n o fun m => match m with
          | .putM _ _ => true
          | _ => false).send n o .wbAck) .un
      else if toI then setDir (s.dropLine o n) .un
      else setDir (s.setLine o n { l with st := .s }) (.sh [o])
  | dir =>
    if toI then
      let live := dir.holders.filter fun k => s.dieUp (dieOf k)
      let s := s.count .grnCohInv (homeOf n) 0 live.length
      setDir (live.foldl (fun (s : State) k => s.invNow k n) s) .un
    else s

/-- Read a sector whole at its home: none when `w` has to wait there. `payer` is charged for a DRAM read; `discard`: drop it, in debug mode or
not (R236, R237). -/
def State.ncRead (s : State) (n hint payer : Nat) (uncached : Bool) (discard : Option Bool) (w : Waiter) : Option (State × Sector × Bool) :=
  if !s.ready n w then none
  else
    let s := (s.recallNow n discard.isSome true).meterFlits payer n (accessFlits 256)
    match s.gsec? n with
    | some g =>
      let s := s.touch n (if uncached ∨ discard.isSome then none else some hint) false
      match discard with
      | some debug => some ((s.discardSector n debug).1.unhold n w, g.data, g.poison)
      | none => some (s.unhold n w, g.data, g.poison)
    | none =>
      if s.channelBad n then none
      else
        let s := ((s.touch n none true).dramRead n).meter payer 3 1
        let (v, p) := s.dramSector n
        let (s, ok) := match discard with
          | some debug => s.discardSector n debug
          | none => if uncached then (s, true) else s.allocSector n hint { data := v, dirty := false, poison := p, pins := [], dir := .un }
        if ok then some (s.unhold n w, v, p) else none

/-- Change a sector whole at its home by `f`: `whole` where it covers all 256 bytes, `poison` where it writes poisoned data (R232, R236, R246,
R299); none when `w` has to wait there. -/
def State.ncModify (s : State) (n : Nat) (f : Sector → Sector) (whole poison : Bool) (hint payer : Nat) (uncached : Bool) (w : Waiter) :
    Option State :=
  if !s.ready n w then none
  else
    let s := (s.recallNow n true true).meterFlits payer n (accessFlits 256)
    match s.gsec? n with
    | some g =>
      let s := s.touch n (if uncached then none else some hint) false
      let v := f g.data
      let p := poison || (g.poison && !whole)
      let s := s.modGsec n fun y => { y with data := v, poison := p, dirty := !uncached, dir := .un }
      if uncached then (if s.channelBad n then none else some ((((s.dramWrite n v p).meter payer 4 1).written n).unhold n w))
      else some ((s.written n).unhold n w)
    | none =>
      if s.channelBad n then none
      else
        let s := s.touch n none true
        let s := if whole then s else (s.dramRead n).meter payer 3 1
        let (d, dp) := s.dramSector n
        let v := f d
        let p := poison || (dp && !whole)
        if uncached then some ((((s.dramWrite n v p).meter payer 4 1).written n).unhold n w)
        else
          match s.allocSector n hint { data := v, dirty := true, poison := p, pins := [], dir := .un } with
          | (s, true) => some ((s.written n).unhold n w)
          | (_, false) => none

/-- Write bytes of a sector whole at its home, or add them. -/
def State.ncWrite (s : State) (n first : Nat) (bs : List Byte) (kind : NcWriteKind) (poison : Bool) (hint payer : Nat) (uncached : Bool)
    (w : Waiter) : Option State :=
  s.ncModify n (fun d => ncOnSector kind d first bs.length (setSectorBytes 0 first bs))
    (decide (kind = .write) && decide (first = 0) && decide (bs.length = 256)) poison hint payer uncached w

/-- Perform an atomic group whole at the home or, uncached and absent, at the controller (R272, R273): the old values, and whether they are
poisoned, which leaves the data as it is; none when `w` has to wait. -/
def State.ncAtomic (s : State) (n : Nat) (g : AtomGroup) (payer : Nat) (w : Waiter) : Option (State × List DWord × Bool) :=
  if !s.ready n w then none
  else
    let s := (s.recallNow n true true).meterFlits payer n (accessFlits 256)
    match s.gsec? n with
    | some y =>
      let s := s.touch n (some g.hint) false
      if y.poison then some (s.unhold n w, [], true)
      else
        let (v, olds) := groupOnSector g y.data
        some (((s.modGsec n fun z => { z with data := v, dirty := true }).written n).unhold n w, olds, false)
    | none =>
      if s.channelBad n then none
      else
        let s := ((s.touch n none true).dramRead n).meter payer 3 1
        let (d, p) := s.dramSector n
        let (v, olds) := groupOnSector g d
        if g.uncached then
          if p then some (s.unhold n w, [], true) else some ((((s.dramWrite n v false).meter payer 4 1).written n).unhold n w, olds, false)
        else
          match s.allocSector n g.hint { data := if p then d else v, dirty := !p, poison := p, pins := [], dir := .un } with
          | (s, true) => some (if p then (s.unhold n w, [], true) else ((s.written n).unhold n w, olds, false))
          | (_, false) => none

/-- Write a dirty sector back and invalidate it with every cache's copy (R255). -/
def State.flushSector (s : State) (n : Nat) : State := (s.recallNow n true true).writeBackDrop n

/-- The coherent value of a sector is poisoned. -/
def State.sectorPoisoned (s : State) (n : Nat) : Bool :=
  match s.gsec? n with
  | none => s.dramPoisoned n
  | some g =>
    match g.dir with
    | .ex o => match s.line? o n with
      | some l => l.poison
      | none => g.poison
    | _ => g.poison

end Sys2Proof.Machine
end

