-- ==== Sys2Proof/Machine/Operands.lean ====
section
/-! DEFINITION. The instruction word (R142-R150): its fields, which words are legal, guards, operands and results, and the steps common to every instruction. -/

namespace Sys2Proof.Machine

open Sys2Proof

/-! ## Fields (Table 05-1) -/

def iCls (w : DWord) : Nat := bits w 58 55
def iOp (w : DWord) : Nat := bits w 54 50
def iImmForm (w : DWord) : Bool := bit w 49
def iDU (w : DWord) : Bool := bit w 48
def iDst (w : DWord) : Nat := bits w 47 42
def iAU (w : DWord) : Bool := bit w 41
def iA (w : DWord) : Nat := bits w 40 35
def iMod (w : DWord) : Nat := bits w 34 24
def iBU (w : DWord) : Bool := bit w 23
def iB (w : DWord) : Nat := bits w 22 17
def iCU (w : DWord) : Bool := bit w 16
def iC (w : DWord) : Nat := bits w 15 10
def iImm (w : DWord) : Nat := bits w 23 0

/-- Bits [hi:lo] of MOD. -/
def iModBits (w : DWord) (hi lo : Nat) : Nat := (iMod w >>> lo) % 2 ^ (hi - lo + 1)

/-- IMM sign-extended to 32 bits (R144). -/
def iImm32 (w : DWord) : Word := (BitVec.ofNat 24 (iImm w)).signExtend 32

/-! ## Legal words (R143, R146) -/

/-- What an operand field holds: nothing; a general or drill-uniform register, pair or quad; one that must be drill-uniform; a
predicate; store data, which is read. -/
inductive Opd where
  | unused
  | reg (width : Nat)
  | ureg (width : Nat)
  | pred
  | data (width : Nat)
  deriving DecidableEq, Repr

/-- An operation's row: forms, operands, which MOD and IMM values are legal, and whether a drill-uniform destination may have
per-thread sources (R146). -/
structure OpSpec where
  form0 : Bool
  form1 : Bool
  dst : Opd
  a : Opd
  b : Opd
  c : Opd
  modOk : Bool
  immOk : Bool
  threadToU : Bool
  deriving DecidableEq, Repr

def mkSpec (f0 f1 : Bool) (dst a b c : Opd) (modOk : Bool) : OpSpec :=
  { form0 := f0, form1 := f1, dst := dst, a := a, b := b, c := c, modOk := modOk, immOk := true, threadToU := false }

/-- Registers that a memory SIZE takes (Table 05-8). -/
def sizeRegs (z : Nat) : Nat := if z = 3 then 2 else if z = 4 then 4 else 1

/-- Registers that an atomic TYPE takes. -/
def typeRegs (z : Nat) : Nat := if z = 4 then 2 else 1

/-- The row of a word's CLASS and OP; none where they are reserved (Tables 05-2 to 05-12). -/
def opSpec (w : DWord) : Option OpSpec :=
  let m := iMod w
  let m0 := decide (m = 0)
  let u := decide (m = 0 ∨ m = 0x80)
  let r := Opd.reg 1
  let cmp := iModBits w 10 8
  let low7 := iModBits w 6 0
  -- floating modifiers: [10:8] CMP, [7] BF2, [6] NEGA, [5] NEGB, [4] ABSA, [3] ABSB, [2:0] reserved
  let fl (bf2 unary : Bool) := decide (cmp = 0) && decide (iModBits w 2 0 = 0) && (bf2 || decide (iModBits w 7 7 = 0)) &&
    (!unary || (decide (iModBits w 5 5 = 0) && decide (iModBits w 3 3 = 0)))
  let cvtOk := decide (iModBits w 10 7 ≤ 0xC) && decide (iModBits w 6 3 ≤ 0xC)
  -- memory modifiers (Table 05-8, R159): a seedbed access takes no ORD, HINT or WIN
  let mem := decide (iModBits w 0 0 = 0) &&
    (decide (iModBits w 3 3 = 0) || (decide (iModBits w 7 4 = 0) && decide (iModBits w 2 1 = 0)))
  let at_ (types : List Nat) := mem && types.contains cmp
  let atD := Opd.reg (typeRegs cmp)
  match iCls w, iOp w with
  | 0x0, 0x00 => some (mkSpec true true r .unused r .unused m0)
  | 0x0, 0x01 => some { mkSpec false true r .unused .unused .unused m0 with immOk := decide (iImm w < 2 ^ 16) }
  | 0x0, 0x02 => some (mkSpec true true r r r .unused m0)
  | 0x0, 0x03 => some (mkSpec true true r r r .unused m0)
  | 0x0, 0x04 => some (mkSpec true true r r r .unused m0)
  | 0x0, 0x05 => some (mkSpec true true r r r .unused u)
  | 0x0, 0x06 => some (mkSpec true false r r r r m0)
  | 0x0, 0x07 => some (mkSpec true true r r r .unused u)
  | 0x0, 0x08 => some (mkSpec true true r r r .unused u)
  | 0x0, 0x09 => some (mkSpec true false r r .unused .unused m0)
  | 0x0, 0x0A => some (mkSpec true true r r r .unused m0)
  | 0x0, 0x0B => some (mkSpec true true r r r .unused m0)
  | 0x0, 0x0C => some (mkSpec true true r r r .unused m0)
  | 0x0, 0x0D => some (mkSpec true false r r .unused .unused m0)
  | 0x0, 0x0E => some (mkSpec true true r r r .unused m0)
  | 0x0, 0x0F => some (mkSpec true true r r r .unused u)
  | 0x0, 0x10 => some (mkSpec true false r r .unused .unused m0)
  | 0x0, 0x11 => some (mkSpec true false r r .unused .unused m0)
  | 0x0, 0x12 => some (mkSpec true false r r .unused .unused m0)
  | 0x0, 0x13 => some (mkSpec true true r r r .unused u)
  | 0x0, 0x14 => some (mkSpec true false r r r r m0)
  | 0x0, 0x15 => some (mkSpec true true .pred r r .unused (decide (cmp ≤ 5) && decide (low7 = 0)))
  | 0x0, 0x16 => some (mkSpec true false r r r .pred m0)
  | 0x0, 0x17 => some (mkSpec true false .pred .pred .pred .unused (decide (cmp ≤ 3) && decide (iModBits w 7 0 = 0)))
  | 0x0, 0x18 => some (mkSpec true false r .unused .unused .unused m0)
  | 0x0, 0x19 => some (mkSpec true false .unused r .unused .unused m0)
  | 0x0, 0x1A => some (mkSpec true false (.reg 2) (.reg 2) (.reg 2) .unused m0)
  | 0x2, 0x00 => some (mkSpec true true r r r .unused (fl true false))
  | 0x2, 0x01 => some (mkSpec true true r r r .unused (fl true false))
  | 0x2, 0x02 => some (mkSpec true true r r r .unused (fl true false))
  | 0x2, 0x03 => some (mkSpec true false r r r r (fl true false))
  | 0x2, 0x04 => some (mkSpec true true r r r .unused (fl true false))
  | 0x2, 0x05 => some (mkSpec true true r r r .unused (fl true false))
  | 0x2, 0x06 => some (mkSpec true true .pred r r .unused (decide (iModBits w 2 0 = 0) && decide (iModBits w 7 7 = 0)))
  | 0x2, 0x07 => some (mkSpec true true r r .unused .unused (fl false true))
  | 0x2, 0x08 => some (mkSpec true true r r .unused .unused (fl false true))
  | 0x2, 0x09 => some (mkSpec true true r r .unused .unused (fl false true))
  | 0x2, 0x0A => some (mkSpec true true r r .unused .unused (fl false true))
  | 0x2, 0x0B => some (mkSpec true true r r .unused .unused (fl false true))
  | 0x2, 0x0C => some (mkSpec true true r r .unused .unused (fl false true))
  | 0x2, 0x0D => some (mkSpec true true r r .unused .unused (fl false true))
  | 0x2, 0x0E => some (mkSpec true true r r .unused .unused (fl false true))
  | 0x2, 0x0F => some (mkSpec true false r r r r (fl false false))
  | 0x3, 0x00 => some (mkSpec true false r r .unused .unused cvtOk)
  | 0x3, 0x01 => some (mkSpec true false r r r .unused cvtOk)
  | 0x3, 0x02 => some (mkSpec true false r r .unused .unused
      (decide (iModBits w 6 0 = 0) && [0x6, 0x4, 0x5, 0x2, 0x3, 0x7, 0xC].contains (iModBits w 10 7)))
  | 0x4, 0x00 => some (mkSpec true true r r r .unused m0)
  | 0x4, 0x01 => some (mkSpec true false .pred .pred .unused .unused m0)
  | 0x4, 0x02 => some (mkSpec true false .pred .pred .unused .unused m0)
  | 0x4, 0x03 => some { mkSpec true false (.ureg 2) .pred .unused .unused m0 with threadToU := true }
  | 0x4, 0x04 => some { mkSpec true false (.ureg 1) r .unused .unused
      (decide (cmp ≤ 4) && decide (low7 = 0) && (decide (iModBits w 7 7 = 0) || decide (cmp = 1 ∨ cmp = 2))) with threadToU := true }
  | 0x4, 0x05 => some { mkSpec false true (.ureg 1) r .unused .unused m0 with immOk := decide (iImm w < 64), threadToU := true }
  | 0x5, 0x00 => some (mkSpec true true (.reg (sizeRegs cmp)) r .unused .unused (mem && decide (cmp ≤ 6) && decide (iModBits w 7 7 = 0)))
  | 0x5, 0x01 => some (mkSpec true true (.data (sizeRegs cmp)) r .unused .unused (mem && decide (cmp ≤ 6) && decide (iModBits w 7 7 = 0)))
  | 0x5, 0x02 => some (mkSpec false true .unused r .unused .unused (mem && decide (cmp = 0) && decide (iModBits w 7 6 = 0)))
  | 0x6, 0x00 => some (mkSpec true false atD r atD .unused (at_ [0, 1, 2, 3, 4]))
  | 0x6, 0x01 => some (mkSpec true false atD r atD .unused (at_ [0, 1, 2]))
  | 0x6, 0x02 => some (mkSpec true false atD r atD .unused (at_ [0, 1, 2]))
  | 0x6, 0x03 => some (mkSpec true false atD r atD .unused (at_ [0, 4]))
  | 0x6, 0x04 => some (mkSpec true false atD r atD .unused (at_ [0, 4]))
  | 0x6, 0x05 => some (mkSpec true false atD r atD .unused (at_ [0, 4]))
  | 0x6, 0x06 => some (mkSpec true false atD r atD .unused (at_ [0, 4]))
  | 0x6, 0x07 => some (mkSpec true false atD r atD atD (at_ [0, 4]))
  | 0x6, 0x08 => some (mkSpec true false .unused r atD .unused (at_ [0, 1, 2, 3]))
  | 0x7, 0x00 => some (mkSpec true false .unused .unused .unused .unused
      (decide (iModBits w 6 0 = 0) && decide (iModBits w 10 9 ≠ 3) && decide (iModBits w 8 7 ≠ 3)))
  | 0x8, 0x00 => some (mkSpec true false .unused (.ureg 1) (.ureg 1) .unused m0)
  | 0x8, 0x01 => some (mkSpec true false .pred (.ureg 1) (.ureg 1) .unused m0)
  | 0x8, 0x02 => some (mkSpec true false (.ureg 1) (.ureg 1) .unused .unused m0)
  | 0x9, 0x00 => some (mkSpec true false .unused r r .unused m0)
  | 0x9, 0x01 => some (mkSpec true false .unused .unused .unused .unused m0)
  | 0x9, 0x02 => some (mkSpec true false .unused (.ureg 1) (.ureg 1) .unused m0)
  | 0xA, 0x00 => some (mkSpec true false (.ureg 1) (.ureg 1) .unused .unused m0)
  | 0xA, 0x01 => some (mkSpec true false .unused (.ureg 1) .unused .unused m0)
  | 0xA, 0x02 => some (mkSpec true false .pred (.ureg 1) .unused .unused m0)
  | 0xA, 0x03 => some (mkSpec true false .unused .unused .unused .unused m0)
  | 0xB, 0x00 => some (mkSpec true false (.ureg 1) (.ureg 1) .unused .unused m0)
  | 0xB, 0x01 => some (mkSpec true false .unused (.ureg 1) .unused .unused m0)
  | 0xB, 0x02 => some (mkSpec true false .pred (.ureg 1) .unused .unused m0)
  | 0xB, 0x03 => some (mkSpec true false .unused .unused .unused .unused m0)
  | 0xC, 0x00 => some (mkSpec false true .unused .unused .unused .unused m0)
  | 0xC, 0x01 => some (mkSpec true false .unused (.reg 2) .unused .unused m0)
  | 0xC, 0x02 => some (mkSpec false true (.reg 2) .unused .unused .unused m0)
  | 0xC, 0x03 => some (mkSpec true false .unused .unused .unused .unused m0)
  | 0xC, 0x04 => some (mkSpec true false .unused .unused .unused .unused m0)
  | 0xC, 0x05 => some { mkSpec false true .unused .unused .unused .unused m0 with immOk := decide (iImm w < 256) }
  | 0xC, 0x06 => some (mkSpec true false .unused .unused .unused .unused m0)
  | 0xC, 0x07 => some { mkSpec false true (.reg (if [1, 2, 10, 11].contains (iImm w) then 2 else 1)) .unused .unused .unused m0 with
      immOk := decide (iImm w ≤ 11) && !(decide (iImm w = 0) && iDU w) }
  | _, _ => none

/-- Whether FORM 1 uses IMM: as source B, or as an offset, target, selector or immediate. -/
def usesImm (w : DWord) (sp : OpSpec) : Bool :=
  decide (sp.b ≠ .unused) || (iCls w == 0 && iOp w == 1) || (iCls w == 4 && iOp w == 5) || iCls w == 5 || iCls w == 0xC

/-- An operand field holds a legal register: predicates below 8, drill-uniform indexes below 32, pairs and quads aligned (R143). -/
def opdOk (o : Opd) (uni : Bool) (i : Nat) : Bool :=
  match o with
  | .unused => !uni && decide (i = 0)
  | .pred => !uni && decide (i < 8)
  | .reg k | .data k => decide (i % k = 0) && (!uni || decide (i + k ≤ 32))
  | .ureg k => uni && decide (i % k = 0) && decide (i + k ≤ 32)

/-- The operand differs between threads: a general register or a predicate. -/
def perThread (o : Opd) (uni : Bool) : Bool :=
  match o with
  | .unused => false
  | .pred => true
  | .reg _ | .data _ => !uni
  | .ureg _ => false

/-- The destination is a drill-uniform register. -/
def uDest (w : DWord) (sp : OpSpec) : Bool :=
  match sp.dst with
  | .reg _ => iDU w
  | .ureg _ => true
  | _ => false

/-- Some source differs between threads; PGATHER's are the predicates. -/
def threadSource (w : DWord) (sp : OpSpec) : Bool :=
  perThread sp.a (iAU w) || (!iImmForm w && (perThread sp.b (iBU w) || perThread sp.c (iCU w))) || (iCls w == 0 && iOp w == 0x18)

/-- The word is legal (R143, R146). With GEN 0 the guard fields are not used, so they must be 0. -/
def legalWord (w : DWord) : Bool :=
  match opSpec w with
  | none => false
  | some sp =>
    (if iImmForm w then sp.form1 && (usesImm w sp || decide (iImm w = 0)) && sp.immOk
      else sp.form0 && opdOk sp.b (iBU w) (iB w) && opdOk sp.c (iCU w) (iC w) && decide (bits w 9 0 = 0)) &&
    opdOk sp.dst (iDU w) (iDst w) && opdOk sp.a (iAU w) (iA w) && sp.modOk && (bit w 63 || decide (bits w 62 59 = 0)) &&
    (sp.threadToU || !(uDest w sp && threadSource w sp))

/-- An operand names a general register below the drill's register count (R114). -/
def opdInRange (n : Nat) (o : Opd) (uni : Bool) (i : Nat) : Bool :=
  match o with
  | .reg k | .data k => uni || decide (i + k ≤ n)
  | _ => true

/-- Every general register that a legal word names lies below the drill's register count. -/
def regsInRange (n : Nat) (w : DWord) : Bool :=
  match opSpec w with
  | none => true
  | some sp =>
    opdInRange n sp.dst (iDU w) (iDst w) && opdInRange n sp.a (iAU w) (iA w) &&
      (iImmForm w || (opdInRange n sp.b (iBU w) (iB w) && opdInRange n sp.c (iCU w) (iC w)))

/-! ## Guards and operands (R144-R148) -/

/-- The threads of a path whose guard is true: the active mask (R119, R148). -/
def activeMask (x : Drill) (w : DWord) (pathMask : DWord) : DWord :=
  if bit w 63 then
    let v := x.preg (bits w 61 59)
    pathMask &&& (if bit w 62 then ~~~ v else v)
  else pathMask

/-- Register `i + k` of thread `t`, or the drill-uniform one. -/
def Drill.rd (x : Drill) (uni : Bool) (t i : Nat) : Word := if uni then x.ureg i else x.greg t i

def Drill.srcA (x : Drill) (w : DWord) (t : Nat) : Word := x.rd (iAU w) t (iA w)
def Drill.srcB (x : Drill) (w : DWord) (t : Nat) : Word := if iImmForm w then iImm32 w else x.rd (iBU w) t (iB w)
def Drill.srcC (x : Drill) (w : DWord) (t : Nat) : Word := x.rd (iCU w) t (iC w)

/-- Source B of a floating operation: IMM × 2^8 as an FP32 pattern, or IMM[23:8] in both halves for a BF16 pair (R144).
DESIGN CHOICE: IMM[7:0] has no part in a BF16 pair's operand, and the spec does not ask that it be 0: any value of it is taken. -/
def Drill.srcBF (x : Drill) (w : DWord) (t : Nat) : Word :=
  if iImmForm w then
    (if iModBits w 7 7 = 1 then BitVec.ofNat 32 ((iImm w / 256) * 65537) else BitVec.ofNat 32 (iImm w * 256))
  else x.rd (iBU w) t (iB w)

/-- A 64-bit operand pair: the lower register holds bits [31:0] (R145). -/
def Drill.rdPair (x : Drill) (uni : Bool) (t i : Nat) : DWord := (x.rd uni t (i + 1)) ++ (x.rd uni t i)

/-- Write register `i` of thread `t`, or the drill-uniform one. -/
def Drill.wr (x : Drill) (uni : Bool) (t i : Nat) (v : Word) : Drill := if uni then x.setU i v else x.setG t i v

/-- Write `k` registers from `i` up with the 32-bit parts of a number. -/
def Drill.wrN (x : Drill) (uni : Bool) (t i : Nat) : Nat → Nat → Drill
  | 0, _ => x
  | k + 1, v => (x.wr uni t i (BitVec.ofNat 32 v)).wrN uni t (i + 1) k (v / 2 ^ 32)

/-- The value of `k` registers from `i` up as a number. -/
def Drill.rdN (x : Drill) (uni : Bool) (t i : Nat) : Nat → Nat
  | 0 => 0
  | k + 1 => (x.rd uni t i).toNat + 2 ^ 32 * x.rdN uni t (i + 1) k

/-- Threads in which an instruction with a drill-uniform destination executes: once, on the scalar unit (R146). -/
def execThreads (w : DWord) (act : DWord) : List Nat := if iDU w then [0] else threads act

/-- Write `f t` to the destination in every executing thread; each thread reads the registers as they stood at issue. -/
def Drill.writeEach (x : Drill) (w : DWord) (act : DWord) (f : Nat → Word) : Drill :=
  (execThreads w act).foldl (fun y t => y.wr (iDU w) t (iDst w) (f t)) x

/-- Write the pair `f t` to the destination in every executing thread. -/
def Drill.writePair (x : Drill) (w : DWord) (act : DWord) (f : Nat → DWord) : Drill :=
  (execThreads w act).foldl (fun y t => y.wrN (iDU w) t (iDst w) 2 (f t).toNat) x

/-- Write the predicate destination in every active thread. -/
def Drill.writePred (x : Drill) (w : DWord) (act : DWord) (f : Nat → Bool) : Drill :=
  x.setP (iDst w) act (maskWhere f 64)

/-! ## Steps common to every instruction -/

/-- The core's drills issue: the panel and the die are in service, and no switch of the core is under way (R452, R498). -/
def State.coreIssues (s : State) (slice : Nat) : Bool :=
  s.inService && s.dieUp (dieOf slice) &&
    (match (s.core slice).loan with
      | .draining | .saving | .restoring => false
      | _ => true)

/-- Issue an instruction of class `cls` and operation `op` from the running path of a drill (R116, R142-R150). Nothing happens when
the drill is not ready, its earlier load or atomic has not returned, its context is revoked (R456), or the word is another instruction's. A poisoned word
traps; the guard gives the active mask, and an empty one lets the path go on; a reserved word, a register beyond the count and a
collective without the full active mask trap in that priority. `body` answers the state after the instruction, or none where a
resource holds it. -/
def State.issue (s : State) (d : DrillRef) (f : Fetched) (cls op : Nat) (collective : Bool)
    (body : Drill → Path → DWord → Option State) : State :=
  match s.drill? d with
  | none => s
  | some x =>
    match x.cur with
    | none => s
    | some p =>
      if !s.coreIssues d.slice ∨ x.status ≠ .active ∨ x.mem ≠ none ∨ s.revokedCtx x.context then s
      else if f.poisoned then s.park d .poisoned p.mask (BitVec.ofNat 64 p.pc.toNat) f.word
      else if (opSpec f.word).isSome ∧ ¬(iCls f.word = cls ∧ iOp f.word = op) then s
      else
        let act := activeMask x f.word p.mask
        if act = 0 then s.setDrill d x.retire
        else if !legalWord f.word then s.park d .illegal act 0 f.word
        else if !regsInRange x.nregs f.word then s.park d .registerRange act 0 f.word
        else if collective ∧ act ≠ x.live then s.park d .divergentCollective act 0 f.word
        else
          match body x p act with
          | none => s
          | some t => t.meter d.slice 2 1

/-- An instruction that only computes: `f` gives the drill's registers after it, and the path goes on. -/
def State.alu (s : State) (d : DrillRef) (f : Fetched) (cls op : Nat) (g : Drill → DWord → Drill) : State :=
  s.issue d f cls op false fun x _ act => some (s.setDrill d (g x act).retire)

end Sys2Proof.Machine
end

