-- ==== Sys2Proof/Machine/Tlt.lean ====
section
/-! DEFINITION. Sending over the scale-out ports: header fields of a Tuldoro Link Transport frame, ports and MAC addresses, connections (R324-R342). -/

namespace Sys2Proof.Machine

open Sys2Proof

/-! ## Header fields (Table 12-2) -/

def tVer (f : TltFrame) : Nat := bits f.w0 63 60
def tType (f : TltFrame) : Nat := bits f.w0 59 56
def tSysid (f : TltFrame) : Nat := bits f.w0 55 48
def tSrc (f : TltFrame) : Nat := bits f.w0 47 36
def tDst (f : TltFrame) : Nat := bits f.w0 35 24
def tSeq (f : TltFrame) : BitVec 24 := f.w0.setWidth 24
def tContext (f : TltFrame) : Half := BitVec.ofNat 16 (bits f.w2 63 48)
def tEpoch (f : TltFrame) : Byte := BitVec.ofNat 8 (bits f.w2 47 40)
def tComp (f : TltFrame) : Nat := bits f.w2 39 34
def tTslice (f : TltFrame) : Nat := bits f.w2 33 26
def tTctr (f : TltFrame) : Nat := bits f.w2 25 20
def tTally (f : TltFrame) : Bool := bit f.w2 19
def tCgen (f : TltFrame) : BitVec 4 := BitVec.ofNat 4 (bits f.w2 18 15)
def tLen (f : TltFrame) : Nat := bits f.w2 12 0
def tPoison (f : TltFrame) : Half := BitVec.ofNat 16 (bits f.w3 63 48)
def tPorts (f : TltFrame) : Half := BitVec.ofNat 16 (bits f.w3 47 32)
def tStatus (f : TltFrame) : Nat := bits f.w3 31 28

/-- Word 0 of a header. -/
def tltW0 (type sysid src dst : Nat) (seq : BitVec 24) : DWord :=
  BitVec.ofNat 64 (2 ^ 60 + (type % 16) * 2 ^ 56 + (sysid % 256) * 2 ^ 48 + (src % 4096) * 2 ^ 36 + (dst % 4096) * 2 ^ 24 + seq.toNat)

/-- Word 2 of a header. -/
def tltW2 (ctx : Half) (epoch : Byte) (comp tslice tctr : Nat) (tally : Bool) (cgen : BitVec 4) (len : Nat) : DWord :=
  BitVec.ofNat 64 (ctx.toNat * 2 ^ 48 + epoch.toNat * 2 ^ 40 + (comp % 64) * 2 ^ 34 + (tslice % 256) * 2 ^ 26 + (tctr % 64) * 2 ^ 20 +
    b2n tally * 2 ^ 19 + cgen.toNat * 2 ^ 15 + len % 8192)

/-- Word 3 of a header. -/
def tltW3 (poison ports : Half) (status : Nat) : DWord :=
  BitVec.ofNat 64 (poison.toNat * 2 ^ 48 + ports.toNat * 2 ^ 32 + (status % 16) * 2 ^ 28)

/-! ## Addresses -/

/-- The derived MAC address of port `p` of the panel with system address `a` (R342). -/
def derivedMac (sysid a p : Nat) : BitVec 48 :=
  BitVec.ofNat 48 (0x02474C000000 + (sysid % 256) * 2 ^ 16 + (a % 4096) * 16 + p % 16)

/-- The factory MAC address of a port: the base address plus the port number (R340). -/
def State.factoryMac (s : State) (p : Nat) : BitVec 48 := s.nv.mac + BitVec.ofNat 48 p

/-- The tag that XLT_VLAN puts on every sent frame while its EN is 1: VID and PCP (R327). -/
def State.vlanTag (s : State) : Option Half := let v := s.reg .xltVlan 0 0; if v / 2 ^ 16 % 2 = 1 then some (BitVec.ofNat 16 v) else none

/-- The EtherType of TLT frames, and that of PTP (R327). -/
def State.tltEtherType (s : State) : Half := BitVec.ofNat 16 (s.reg .xltEthertype 0 0)
def ptpEtherType : Half := 0x88F7

/-- The panel's system address and system ID. -/
def State.addr? (s : State) : Option (Nat × Nat) := s.link.sysAddr.map fun x => (x.1.toNat, x.2.toNat)

/-- The address that a port uses: derived once the panel is assigned, else its factory address (R342). -/
def State.portMac (s : State) (p : Nat) : BitVec 48 :=
  match s.addr? with
  | some (a, sysid) => derivedMac sysid a p
  | none => s.factoryMac p

/-- The header that the panel puts before a frame. -/
def State.ethHdr (s : State) (dst src : BitVec 48) (type : Half) : EthHdr := { dst := dst, src := src, tag := s.vlanTag, type := type }

/-! ## Connections (R332-R336) -/

/-- A connection before its first frame. Until a peer's PORTMASK is known every port counts as up there (DESIGN CHOICE). -/
def Conn.fresh : Conn where
  txNext := 0
  txGen := 0
  window := []
  reads := []
  readTag := 0
  rxGen := 0
  rxBase := 0
  rxSeen := []
  ackDue := false
  peerPorts := 0xFFFF
  nextPort := 0

def connKey (headland peer : Nat) : Nat := 4096 * headland + peer
def State.conn (s : State) (k : Nat) : Conn := (find? s.link.conns k).getD .fresh
def State.setConn (s : State) (k : Nat) (c : Conn) : State := { s with link := { s.link with conns := insert s.link.conns k c } }
def State.emit (s : State) (e : SentEth) : State := { s with link := { s.link with eth := s.link.eth ++ [e] } }

/-- Ports of a headland that are up at both ends. -/
def State.livePorts (s : State) (headland : Nat) (peer : Half) : List Nat :=
  ((upto 8).map fun i => 8 * headland + i).filter fun p => bit s.link.up p && bit peer p

/-- The next port in rotation, other than `avoid` when another exists (R332, R335). -/
def pickPort (ps : List Nat) (next : Nat) (avoid : Option Nat) : Option Nat :=
  let qs := ps.filter fun p => decide (some p ≠ avoid)
  let ps := if qs.isEmpty then ps else qs
  match ps.find? fun p => decide (next ≤ p) with
  | some p => some p
  | none => ps.head?

/-- The headland that an engine of a die at position `pos` sends through: rows 0-3 A, rows 4-6 B, or the other where the first has no
port up at both ends (R332). -/
def State.headlandFor (s : State) (pos peer : Nat) : Nat :=
  let h := if pos / 4 ≤ 3 then 0 else 1
  if (s.livePorts h (s.conn (connKey h peer)).peerPorts).isEmpty then
    (if (s.livePorts (1 - h) (s.conn (connKey (1 - h) peer)).peerPorts).isEmpty then h else 1 - h)
  else h

/-- Put a frame on the wire from a port, from the port's address to the peer's derived address of the same port (R342). -/
def State.wire (s : State) (port : Nat) (f : TltFrame) : State :=
  s.emit (.tlt port { f with eth := s.ethHdr (derivedMac (tSysid f) (tDst f) port) (s.portMac port) s.tltEtherType })

/-- RTO in µs and RETRIES of frames sent now (R335, R353). -/
def State.rtoNow (s : State) : Nat := s.reg .xltRetxCfg 0 0 % 256
def State.retriesNow (s : State) : Nat := s.reg .xltRetxCfg 0 0 / 256 % 256

/-- A header of the connection: type, destination, sequence field and the port map come from the panel's state; `gen` is the generation of
the sequence space that the frame belongs to. -/
def State.frameTo (s : State) (gen : BitVec 4) (type peer : Nat) (seq : BitVec 24) (addr : DWord) (w2 : BitVec 4 → DWord)
    (poison : Half) (status : Nat) (payload : List Byte) : TltFrame :=
  let (own, sysid) := s.addr?.getD (0, 0)
  { eth := s.ethHdr 0 0 s.tltEtherType, w0 := tltW0 type sysid own peer seq, w1 := addr, w2 := w2 gen, w3 := tltW3 poison s.link.up status, payload := payload }

/-- Send a WRITE frame: it takes the next SEQ; none while 256 are unacknowledged or no port is up at both ends (R333). -/
def State.sendWrite (s : State) (headland peer : Nat) (addr : DWord) (w2 : BitVec 4 → DWord) (poison : Half) (payload : List Byte)
    (use : SentUse) : Option State :=
  let k := connKey headland peer
  let c := s.conn k
  match pickPort (s.livePorts headland c.peerPorts) c.nextPort none with
  | none => none
  | some p =>
    if 256 ≤ c.window.length then none
    else
      let f := s.frameTo c.txGen 0 peer c.txNext addr w2 poison 0 payload
      let sent : SentFrame := { seq := c.txNext, frame := f, sentAt := s.time.now, tries := 0,
                                rto := s.rtoNow, retries := s.retriesNow, port := p, use := use }
      some ((s.setConn k { c with txNext := c.txNext + 1, window := c.window ++ [sent], nextPort := p + 1 }).wire p f)

/-- Send a READ_REQ frame with a fresh tag (R338). -/
def State.sendReadReq (s : State) (headland peer : Nat) (addr : DWord) (w2 : BitVec 4 → DWord) (use : SentUse) : Option State :=
  let k := connKey headland peer
  let c := s.conn k
  match pickPort (s.livePorts headland c.peerPorts) c.nextPort none with
  | none => none
  | some p =>
    let f := s.frameTo c.txGen 1 peer c.readTag addr w2 0 0 []
    let sent : SentFrame := { seq := c.readTag, frame := f, sentAt := s.time.now, tries := 0,
                                rto := s.rtoNow, retries := s.retriesNow, port := p, use := use }
    some ((s.setConn k { c with readTag := c.readTag + 1, reads := c.reads ++ [sent], nextPort := p + 1 }).wire p f)

/-- Send a frame that is not acknowledged, an ACK or a READ_RESP: it belongs to the peer's sequence space. -/
def State.sendPlain (s : State) (headland peer type : Nat) (seq : BitVec 24) (w2 : BitVec 4 → DWord) (poison : Half) (status : Nat)
    (payload : List Byte) : State :=
  let k := connKey headland peer
  let c := s.conn k
  match pickPort (s.livePorts headland c.peerPorts) c.nextPort none with
  | none => s
  | some p => (s.setConn k { c with nextPort := p + 1 }).wire p (s.frameTo c.rxGen type peer seq 0 w2 poison status payload)

/-- Note that a composition has exchanged a frame with a panel (R508). -/
def State.notePeer (s : State) (comp peer : Nat) : State := s.modComp comp fun c => { c with peers := addOnce peer c.peers }

end Sys2Proof.Machine
end

