-- ==== Sys2Proof/Machine/Access.lean ====
section
/-! DEFINITION. Drill accesses to memory: addresses and where they go (R157, R179, R391, R502-R504), the seedbed (R166-R173), the data cache and its miss entries (R266, R267), leases (R250-R253), host memory (R209, R210), and the drill that waits for answers. -/

namespace Sys2Proof.Machine

open Sys2Proof

/-! ## Addresses -/

/-- Bytes of a memory SIZE (Table 05-8). -/
def sizeBytes (z : Nat) : Nat := if z = 0 ∨ z = 5 then 1 else if z = 1 ∨ z = 6 then 2 else if z = 2 then 4 else if z = 3 then 8 else 16

/-- Window base W: the drill-uniform pair of window `k` (R157). -/
def Drill.window_ (x : Drill) (k : Nat) : DWord := x.rdPair true 0 (24 + 2 * k)

/-- The global address of thread `t` (R157). -/
def Drill.globalAddr (x : Drill) (w : DWord) (t : Nat) : DWord :=
  x.window_ (iModBits w 2 1) + (x.srcA w t).setWidth 64 + (if iImmForm w then (iImm32 w).signExtend 64 else 0)

/-- The seedbed address of thread `t` (R157). -/
def Drill.seedbedAddr (x : Drill) (w : DWord) (t : Nat) : Word := x.srcA w t + (if iImmForm w then iImm32 w else 0)

def iSeedbed (w : DWord) : Bool := decide (iModBits w 3 3 = 1)
def iOrd (w : DWord) : Nat := iModBits w 7 6
def iHint (w : DWord) : Nat := iModBits w 5 4
def iSize (w : DWord) : Nat := iModBits w 10 8

/-- Where a global access goes: a device sector and byte; a leased sector by key; host memory; a leased sector that cannot be fetched. -/
inductive Place where
  | dev (x : Xlat) (n byte : Nat)
  | lease (key byte : Nat)
  | host (iova : Nat)
  | noLease (key : Nat)
  deriving DecidableEq, Repr

/-- What address resolution answers. -/
inductive Resolve where
  | at_ (p : Place)
  | trap (t : Trap)
  | held
  deriving DecidableEq, Repr

/-- Key of a leased sector: its composition and composition address sector, above every device sector number. -/
def leaseKey (comp : Nat) (a : DWord) : Nat := 2 ^ 33 + comp * 2 ^ 60 + a.toNat / 256

/-- Key of a host line, above the device sectors. -/
def hostLine (pasid : Option Nat) (iova : Nat) : Nat := 2 ^ 130 + hostKey pasid iova / 256

/-- The PASID of a composition (R366). -/
def State.compPasid (s : State) (c : Nat) : Option Nat := ((s.comp? c).map (·.pasid)).getD none

/-- Host memory behind an address whose bits [63:60] are not 0, if the address names any (the spec gives no form: Config.hostAddress). -/
def State.resolveHost (s : State) (x : Drill) (a : DWord) (bytes : Nat) : Resolve :=
  match Config.hostAddress a with
  | none => .trap .notMapped
  | some iova => if s.hostOk (s.compPasid x.comp) iova.toNat bytes then .at_ (.host iova.toNat) else .trap .notMapped

/-- Resolve an address of a drill: `write` for stores and atomics, `lease` where another panel's memory may be read. An offset in no region, and
any offset under an epoch that is not live, is not mapped (R179, R218, R250, R390, R391, R394, R400, R502, R504). -/
def State.resolve (s : State) (x : Drill) (a : DWord) (bytes : Nat) (write lease : Bool) : Resolve :=
  if bits a 63 60 ≠ 0 then s.resolveHost x a bytes
  else
    match s.panelField x.comp a with
    | .other => if lease then .at_ (.lease (leaseKey x.comp a) (a.toNat % 256)) else .trap .notMapped
    | .nowhere => if lease then .at_ (.noLease (leaseKey x.comp a)) else .trap .notMapped
    | .here =>
      match s.translate x.comp x.epoch (bits a 47 0) with
      | none => .trap .notMapped
      | some y =>
        if write ∧ y.ro then .trap .readOnly
        else if s.heldAt x.comp x.epoch y then .held
        else if s.servable y then .at_ (.dev y (y.dpa / 256) (y.dpa % 256))
        else
          match s.replicaOf y with
          | some p => if s.dieUp (dieOfDpa p) then .at_ (.dev { y with dpa := p } (p / 256) (p % 256)) else .trap .poisoned
          | none => .trap .poisoned

/-- The key under which a place's answer is due. -/
def Place.key : Place → Nat
  | .dev _ n _ => n
  | .lease k _ => k
  | .host i => 2 ^ 130 + i / 256
  | .noLease k => 2 ^ 129 + k

/-- The span a place takes in the range tracker. -/
def Place.span (a : DWord) (bytes : Nat) : Place → List Span
  | .dev _ _ _ => [{ space := .device, lo := (bits a 47 0 : Nat), hi := (bits a 47 0 + bytes : Nat) }]
  | .host i => [{ space := .host, lo := (i : Nat), hi := (i + bytes : Nat) }]
  | _ => []

/-! ## Traps of an access (R134) -/

/-- One thread's access: thread, address, outcome of resolution. -/
structure Acc where
  thread : Nat
  addr : DWord
  res : Resolve
  deriving DecidableEq, Repr

/-- The lowest priority number among some traps. -/
def lowestTrap : List (Nat × DWord × Trap) → Option Trap
  | [] => none
  | (_, _, t) :: es =>
    match lowestTrap es with
    | none => some t
    | some u => if t.priority ≤ u.priority then some t else some u

/-- The address that the lowest thread of some accesses gives, and its number. -/
def lowestThread : List (Nat × DWord × Trap) → Option (Nat × DWord)
  | [] => none
  | (i, a, _) :: es =>
    match lowestThread es with
    | none => some (i, a)
    | some (j, b) => if i ≤ j then some (i, a) else some (j, b)

/-- The trap that threads raise, the threads that raise it and the lowest one's address (R134, Table 04-5). -/
def pickTrap (es : List (Nat × DWord × Trap)) : Option (Trap × DWord × DWord) :=
  match lowestTrap es with
  | none => none
  | some t =>
    let mine := es.filter fun e => decide (e.2.2 = t)
    some (t, maskWhere (fun i => mine.any fun e => decide (e.1 = i)) 64, ((lowestThread mine).map (·.2)).getD 0)

/-- The accesses of the active threads; misalignment comes before the address's own traps. -/
def State.accs (s : State) (x : Drill) (w : DWord) (ts : List Nat) (bytes : Nat) (write lease : Bool) : List Acc :=
  ts.map fun t =>
    let a := x.globalAddr w t
    { thread := t, addr := a,
      res := if a.toNat % bytes ≠ 0 then .trap .misaligned else s.resolve x a bytes write lease }

def accTraps (as : List Acc) : List (Nat × DWord × Trap) :=
  as.filterMap fun a => match a.res with
    | .trap t => some (a.thread, a.addr, t)
    | _ => none

def accHeld (as : List Acc) : Bool := as.any fun a => decide (a.res = .held)

def accPlaces (as : List Acc) : List (Acc × Place) :=
  as.filterMap fun a => match a.res with
    | .at_ p => some (a, p)
    | _ => none

/-- Numbers without repeats, in first order. -/
def distinct (l : List Nat) : List Nat := l.foldl (fun a k => addOnce k a) []

/-! ## The seedbed (R159, R166-R173) -/

def seedbedBytes : Nat := 0x400000

/-- A granule read is poisoned. -/
def Core.sbPoisoned (c : Core) (a n : Nat) : Bool := c.sbPoison.any fun g => decide (32 * g < a + n) && decide (a < 32 * g + 32)

/-- Write seedbed bytes; the live mark follows (R450). -/
def Core.sbPut (c : Core) (a : Nat) (bs : List Byte) : Core :=
  { c with seedbed := writeBytes c.seedbed a bs, liveMark := if bs.isEmpty then c.liveMark else max c.liveMark (a + bs.length) }

/-- Granules that are written whole lose their poison (R167). -/
def Core.sbClear (c : Core) (written : Nat → Bool) : Core :=
  { c with sbPoison := c.sbPoison.filter fun g => !((upto 32).all fun i => written (32 * g + i)) }

/-- A write of consecutive bytes by a transfer or the array, poisoned or not: poisoned bytes poison their granules. -/
def Core.sbWrite (c : Core) (a : Nat) (bs : List Byte) (poison : Bool) : Core :=
  let c := (c.sbPut a bs).sbClear fun i => decide (a ≤ i) && decide (i < a + bs.length)
  if poison ∧ !bs.isEmpty then
    { c with sbPoison := ((upto ((a + bs.length - 1) / 32 - a / 32 + 1)).map fun i => a / 32 + i).foldl (fun l g => addOnce g l) c.sbPoison }
  else c

/-- Traps of a seedbed access. -/
def State.sbTraps (s : State) (d : DrillRef) (x : Drill) (w : DWord) (ts : List Nat) (bytes : Nat) (read : Bool) : List (Nat × DWord × Trap) :=
  ts.filterMap fun t =>
    let a := x.seedbedAddr w t
    let e (k : Trap) := some (t, a.setWidth 64, k)
    if seedbedBytes ≤ a.toNat then e .seedbedRange
    else if a.toNat % bytes ≠ 0 then e .misaligned
    else if read ∧ (s.core d.slice).sbPoisoned a.toNat bytes then e .poisoned
    else none

/-- The spans of a seedbed access. -/
def Drill.sbSpans (x : Drill) (w : DWord) (ts : List Nat) (bytes : Nat) : List Span :=
  ts.map fun t => { space := .seedbed, lo := ((x.seedbedAddr w t).toNat : Nat), hi := ((x.seedbedAddr w t).toNat + bytes : Nat) }

/-- Whether the core's range tracker holds an access that reads `rs` and writes `ws`. -/
def State.tracked (s : State) (slice : Nat) (rs ws : List Span) : Bool :=
  let c := s.core slice
  c.rangeHeld (c.seq + 1) rs ws

/-! ## The data cache (Table 09-3) -/

/-- Lines of the set of sector or host line `n`, of 64 sets (Table 04-1; the set's index is PRESUMED), not counting lines on their way out. -/
def Core.cacheSet (c : Core) (n : Nat) : List (Nat × CLine) :=
  c.cache.filter fun e => decide (e.1 % 64 = n % 64) && decide (e.2.st ≠ .miA)

/-- Host-memory lines of that set (R107, R209). -/
def Core.hostSet (c : Core) (n : Nat) : List Nat := (keys c.hostLines).filter fun k => decide (k % 64 = n % 64)

/-- Miss entries in use (R266). -/
def Core.missEntries (c : Core) : Nat := (c.cache.filter fun e => !e.2.st.stable).length

/-- Evict a stable line: a host line and S silently, M by PutM (R209, R266). -/
def State.evictLine (s : State) (k n : Nat) : State :=
  match s.line? k n with
  | none => s.modCore k fun c => { c with hostLines := erase c.hostLines n }
  | some l =>
    if l.st = .m then (s.setLine k n { l with st := .miA }).send n k (.putM l.data l.poison) else s.dropLine k n

/-- Make room for line `n` in cache `k`: one of 8 ways, evicting a stable line the spec leaves to the cache (a free choice), where `entries` miss
entries of 32 are taken besides the one that a write-back needs. The flag says whether there is room. -/
def State.cacheWay (s : State) (k n entries : Nat) : State × Bool :=
  let c := s.core k
  if 32 < c.missEntries + entries then (s, false)
  else if (c.cacheSet n).length + (c.hostSet n).length < 8 then (s, true)
  else
    let wb := decide (c.missEntries + entries < 32)
    let ok := keys ((c.cacheSet n).filter fun e => decide (e.2.st = .s) || (wb && decide (e.2.st = .m))) ++ c.hostSet n
    match ok[(Config.freeNat s.fresh) % ok.length]? with
    | none => (s, false)
    | some m => ({ s with fresh := s.fresh + 1 }.evictLine k m, true)

/-- Room for a sector that misses: a way and a miss entry. -/
def State.cacheRoom (s : State) (k n : Nat) : State × Bool := s.cacheWay k n 1

def freshLine (st : CState) : CLine := { st := st, data := 0, poison := false, loads := [], stores := [], deferred := none, lru := 0 }

/-- Bytes written into a sector, in order. -/
def putBytes (d : Sector) (bs : List (Nat × Byte)) : Sector := bs.foldl (fun d b => setSectorByte d b.1 b.2) d

/-- Perform a line's waiting stores in order: those of ended drills are discarded when the data arrives (R458). -/
def CLine.performed (l : CLine) (keep : WaitStore → Bool) : Sector :=
  (l.stores.filter keep).foldl (fun d w => putBytes d w.bytes) l.data

/-- Bytes that cover the whole sector. -/
def coversAll (bs : List (Nat × Byte)) : Bool := (upto 256).all fun i => bs.any fun b => decide (b.1 = i)

/-- What a load that looks a sector up in its cache finds. -/
inductive LoadAns where
  | hit (v : Sector) (poison : Bool)
  | queued
  | later
  deriving DecidableEq, Repr

/-- The Load row of Table 09-3 for one drill's loads of one sector. In SM_D the load also sees the core's waiting stores (R202). One that merges
behind a store, or after an Inv, is late: the data then on its way does not serve it (R201-R204). -/
def State.cacheLoad (s : State) (d : DrillRef) (n hint : Nat) (ws : List WaitLoad) : State × LoadAns :=
  let k := d.slice
  let queue (l : CLine) (late : Bool) : State × LoadAns :=
    (s.setLine k n { l with loads := l.loads ++ ws.map fun w => { w with late := late } }, .queued)
  match s.line? k n with
  | none =>
    let (s, ok) := s.cacheRoom k n
    if ok then ((s.setLine k n { freshLine .isD with loads := ws }).send n k (.getS hint), .queued) else (s, .later)
  | some l =>
    if l.loads.any fun w => decide (w.drill = d) && !w.dead then (s, .later)
    else
      match l.st with
      | .s | .m => (s, .hit l.data l.poison)
      | .smD => (s, .hit (l.performed fun _ => true) l.poison)
      | .isD => queue l (!l.stores.isEmpty)
      | .isDI | .imD => queue l true
      | .miA => (s, .later)

/-- What a store finds. -/
inductive StoreAns where
  | performed | queued | later
  deriving DecidableEq, Repr

/-- The Store row of Table 09-3 for one instruction's bytes of one sector. -/
def State.cacheStore (s : State) (k n hint : Nat) (w : WaitStore) : State × StoreAns :=
  match s.line? k n with
  | none =>
    let (s, ok) := s.cacheRoom k n
    if ok then ((s.setLine k n { freshLine .imD with stores := [w] }).send n k (.getM hint false), .queued) else (s, .later)
  | some l =>
    match l.st with
    | .m => ((s.setLine k n { l with data := putBytes l.data w.bytes, poison := l.poison && !coversAll w.bytes }).written n, .performed)
    | .s =>
      if 32 ≤ (s.core k).missEntries then (s, .later)
      else ((s.setLine k n { l with st := .smD, stores := [w] }).send n k (.getM hint true), .queued)
    | .isD | .isDI | .imD | .smD => (s.setLine k n { l with stores := l.stores ++ [w] }, .queued)
    | .miA => (s, .later)

/-! ## Leases (R250-R254) -/

/-- A lease's age limit in ns (R251). -/
def State.leaseNs (s : State) (die : Nat) : Nat := s.reg .grnLeaseCfg die 0 % 2 ^ 14 * 1000

/-- Send the read that fetches a leased sector; none where no port leads there. -/
def State.leaseFetch (s : State) (die key : Nat) (x : Drill) (a : DWord) : Option State :=
  match s.addr? with
  | none => none
  | some _ =>
    let peer := bits a 59 48
    let h := s.headlandFor (s.die die).pos peer
    (s.sendReadReq h peer (BitVec.ofNat 64 (a.toNat / 256 * 256))
      (fun g => tltW2 x.context x.epoch x.comp 0 0 false g 256) (.lease die key)).map fun s => s.notePeer x.comp peer

def State.lease? (s : State) (die key : Nat) : Option Lease := find? (s.die die).leases key
def State.setLease (s : State) (die key : Nat) (l : Lease) : State := s.modDie die fun x => { x with leases := insert x.leases key l }

/-- Leased lines of which no sector is left leave their ways. -/
def Die.pruneLeased (x : Die) : Die :=
  { x with gran := x.gran.filter fun e => decide (e.1 < leaseLines) || x.leases.any fun l => decide (l.1 / 4 = e.1) }

/-- Forget a leased sector, and its line with the last one. -/
def State.dropLease (s : State) (die key : Nat) : State := s.modDie die fun x => { x with leases := erase x.leases key }.pruneLeased

/-- The leases of a die for which `p` holds end: a fetch under way serves only the loads that wait for it (R253). -/
def Die.endLeases (x : Die) (p : Nat → Lease → Bool) : Die :=
  { x with leases := x.leases.filterMap fun (e : Nat × Lease) =>
      if !p e.1 e.2 then some e else if e.2.pending then some (e.1, { e.2 with ended := true }) else none }.pruneLeased

/-- The ways that a leased line of composition `c` may take on a die: those of the requesting core's composition, or the core's own where that
holds none there (R230, R250). -/
def State.leaseGroup (s : State) (c slice : Nat) : List Nat :=
  match ((s.comp? c).map fun x => x.cur.slices.filter fun j => decide (dieOf j = dieOf slice)).getD [] with
  | [] => [slice]
  | g => g

/-- The line of a leased sector takes a way and the access's hint; its index is taken from the composition address. -/
def State.leaseLine (s : State) (die key c slice hint : Nat) : State × Bool :=
  let ln := key / 4
  if (find? (s.die die).gran ln).isSome then (s.touchLine die ln (some hint) true, true)
  else
    match s.makeRoom die (granIndex (1024 * ln)) (s.leaseGroup c slice) with
    | (s, none) => (s, false)
    | (s, some w) =>
      (s.modDie die fun x =>
        let l : GLine := { cls := hintClass hint, lru := x.lru + 1, way := w, pinAt := [], secs := [] }
        { x with lru := x.lru + 1, accesses := x.accesses + 1, misses := x.misses + 1, gran := insert x.gran ln l }, true)

/-- A load or PREF of a leased sector: a valid lease serves it, a pending fetch is joined, else a fetch starts once its line has a way; one that
cannot be sent fails at once with poison and is counted. A discard hint ends the lease (R250-R253). -/
def State.leaseLoad (s : State) (d : DrillRef) (x : Drill) (key : Nat) (a : DWord) (hint : Nat) (ws : List WaitLoad) : State × LoadAns :=
  let die := dieOf d.slice
  let start (s : State) : State × LoadAns :=
    match s.leaseFetch die key x a with
    | none => (s.count .grnLeaseFail die 0 1, .hit 0 true)
    | some _ =>
      match s.leaseLine die key x.comp d.slice hint with
      | (s, false) => (s, .later)
      | (s, true) =>
        (((s.leaseFetch die key x a).getD s).setLease die key
          { comp := x.comp, epoch := x.epoch, slice := d.slice, data := 0, poison := false, t0 := s.time.now,
            t1 := s.time.now + s.leaseNs die, pending := true, loads := ws, ended := decide (hint = 3) }, .queued)
  match s.lease? die key with
  | none => start s
  | some l =>
    if l.pending then
      if !ws.isEmpty ∧ l.loads.any (fun w => decide (w.drill = d) && !w.dead) then (s, .later)
      else ((s.touchLine die (key / 4) (some hint) true).setLease die key { l with loads := l.loads ++ ws, ended := l.ended || decide (hint = 3) },
        .queued)
    else if l.t0 ≤ s.time.now ∧ s.time.now < l.t1 then
      let s := s.touchLine die (key / 4) (some hint) false
      (if hint = 3 then s.dropLease die key else s, .hit l.data l.poison)
    else start s

/-! ## A drill that waits for answers (R133, R147) -/

/-- Key of a RADD under way to a sector in `unperformed`: kept apart from stores, which the drill's own cache line shows. -/
def raddKey (n : Nat) : Nat := 2 ^ 36 + n

/-- A drill of core `k`, in its slot or saved, has an add-to-line under way to sector `n`. -/
def State.raddUnder (s : State) (k n : Nat) : Bool :=
  let has (e : Nat × Drill) : Bool := e.2.unperformed.any fun u => decide (u.key = raddKey n)
  (s.core k).drills.any has || (s.core k).saved.any fun v => v.drills.any has

/-- The core's accesses to sector `n` that do not use its data cache wait: a store or add-to-line of it is still on its way there (R202). -/
def State.coreHolds (s : State) (k n : Nat) : Bool := s.raddUnder k n || (s.line? k n).any fun l => !l.stores.isEmpty

/-- Sign- or zero-extend a loaded value (Table 05-9). -/
def extendLoad (z v : Nat) : Nat :=
  if z = 5 then ((BitVec.ofNat 8 v).signExtend 32).toNat
  else if z = 6 then ((BitVec.ofNat 16 v).signExtend 32).toNat
  else v

/-- What a memory-class instruction, or LWAIT, is: a load, a PREF, its bytes and its hint. -/
def memLoad (w : DWord) : Bool := decide (iCls w = 9) || (decide (iCls w = 5) && decide (iOp w = 0))
def memPref (w : DWord) : Bool := decide (iCls w = 5) && decide (iOp w = 2)
def memBytes (w : DWord) : Nat := if iCls w = 9 then 4 else sizeBytes (iSize w)
def memHint (w : DWord) : Nat := if iCls w = 9 then 0 else iHint w

/-- Threads in which a memory instruction runs: once on the scalar unit where its destination and address are drill-uniform (R146). -/
def memThreads (w act : DWord) : List Nat := if iDU w && iAU w && decide (iCls w = 5 ∧ iOp w = 0) then [0] else threads act

/-- Record the answer for a sector: each waiting thread's value, or its poison. -/
def MemWait.answer (m : MemWait) (key : Nat) (v : Sector) (poison : Bool) (ws : List WaitLoad) : MemWait :=
  let m := { m with due := removeFirst (fun k => decide (k = key)) m.due }
  if poison then { m with bad := m.bad ++ ws.map fun w => (w.thread, w.addr) }
  else { m with got := m.got ++ ws.map fun w => (w.thread, leNat (sectorBytes v w.byte w.bytes)) }

def State.answer (s : State) (d : DrillRef) (key : Nat) (v : Sector) (poison : Bool) (ws : List WaitLoad) : State :=
  s.modDrill d fun x => { x with mem := x.mem.map fun m => if m.due.contains key then m.answer key v poison ws else m }

/-- The registers an instruction with all its answers writes. -/
def Drill.takeAnswers (x : Drill) (m : MemWait) : Drill :=
  let w := m.word
  if iCls w = 5 ∧ iOp w = 0 then
    m.got.foldl (fun y e => y.wrN (iDU w) e.1 (iDst w) (sizeRegs (iSize w)) (extendLoad (iSize w) e.2)) x
  else if iCls w = 6 ∧ iOp w ≠ 8 then
    m.got.foldl (fun y e => y.wrN (iDU w) e.1 (iDst w) (typeRegs (iSize w)) e.2) x
  else x

/-- An LWAIT has its words: where one equals gv the active threads wait past the instruction, and a watched line that has been written meanwhile
releases them; else the path goes on (R125, R126). -/
def Drill.lwaitEnd (x : Drill) (m : MemWait) : Drill :=
  match x.cur with
  | none => x
  | some p =>
    if m.got.any fun e => decide (BitVec.ofNat 32 e.2 = x.srcB m.word e.1) then
      let y := (x.waitAt m.active (p.pc + 8) (.lock m.watch)).rotate
      if m.woken then y.release fun w => decide (w = .lock m.watch) else y
    else x.retire

/-- Once nothing is due the instruction ends: registers written and the path goes on, or the poisoned-data trap (R133, R134). -/
def State.memFinish (s : State) (d : DrillRef) : State :=
  match s.drill? d with
  | none => s
  | some x =>
    match x.mem with
    | none => s
    | some m =>
      if !m.due.isEmpty ∨ x.status ≠ .active then s
      else
        match pickTrap (m.bad.map fun e => (e.1, e.2, Trap.poisoned)) with
        | some (t, mask, a) =>
          let mask := if iDU m.word && iAU m.word then m.active else mask
          s.park d t mask a m.word
        | none =>
          let y := { (x.takeAnswers m) with mem := none }
          s.setDrill d (if iCls m.word = 9 then y.lwaitEnd m else y.retire)

/-- Whether the granary discard of a drill's load runs in debug mode. -/
def State.drillDebug (s : State) (x : Drill) (y : Xlat) : Bool := s.discardDebug x.comp y.ro

/-- Answer `key` for a store or PREF: it has been accepted; a store that waits for its home joins the drill's unperformed accesses. -/
def State.accept (s : State) (d : DrillRef) (key : Nat) (pending : Option Unperf) : State :=
  s.modDrill d fun z =>
    { z with mem := z.mem.map (fun m => { m with due := removeFirst (fun k => decide (k = key)) m.due }),
             unperformed := z.unperformed ++ pending.toList }

/-- Bytes that some accesses store in their sector: a later thread's stand (R173). -/
def Drill.putList (x : Drill) (w : DWord) (es : List (Acc × Place)) : List (Nat × Byte) :=
  es.flatMap fun e =>
    (natLe (sizeBytes (iSize w)) (x.rdN (iDU w) e.1.thread (iDst w) (sizeRegs (iSize w)))).mapIdx fun i b => (e.1.addr.toNat % 256 + i, b)

/-- Try to have the loads of one due sector answered (R235, R236, R267). -/
def State.loadTry (s : State) (d : DrillRef) (x : Drill) (w : DWord) (y : Xlat) (n : Nat) (waits : List WaitLoad) : State :=
  let hint := memHint w
  if s.raddUnder d.slice n then s
  else if hint = 3 ∨ y.uncached then
    if s.coreHolds d.slice n then s
    else
      match s.ncRead n hint d.slice y.uncached (if hint = 3 then some (s.drillDebug x y) else none) (.drill d) with
      | some (s, v, q) => s.answer d n v q waits
      | none => s.hold n (.drill d)
  else
    match s.cacheLoad d n hint waits with
    | (s, .hit v q) => s.answer d n v q waits
    | (s, _) => s

/-- Try to have the stores of one due sector accepted (R236, R267). -/
def State.storeTry (s : State) (d : DrillRef) (x : Drill) (w : DWord) (y : Xlat) (n : Nat) (es : List (Acc × Place)) : State :=
  let put := x.putList w es
  if s.raddUnder d.slice n then s
  else if y.uncached then
    if s.coreHolds d.slice n then s
    else
      match s.ncModify n (fun v => putBytes v put) (coversAll put) false (iHint w) d.slice true (.drill d) with
      | some s => s.accept d n none
      | none => s.hold n (.drill d)
  else
    match s.cacheStore d.slice n (iHint w) { drill := d, context := x.context, hint := iHint w, bytes := put } with
    | (s, .performed) => s.accept d n none
    | (s, .queued) =>
      s.accept d n (some {
        key := n, mask := maskWhere (fun t => es.any fun e => decide (e.1.thread = t)) 64, addr := (es.head?.map (·.1.addr)).getD 0,
        pc := (x.cur.map (·.pc)).getD 0, word := w })
    | (s, .later) => s

/-- Try to have the PREF of one due sector accepted by its home: no effect on a poisoned sector (R159, R235, Table 08-1). -/
def State.prefTry (s : State) (d : DrillRef) (x : Drill) (w : DWord) (y : Xlat) (n : Nat) : State :=
  if s.sectorPoisoned n then s.accept d n none
  else if iHint w = 3 ∧ s.coreHolds d.slice n then s
  else
    match s.request? n (.pref d.slice (iHint w) y.uncached (s.drillDebug x y)) id with
    | some s => (s.meterFlits d.slice n 1).accept d n none
    | none => s

/-- The accesses of an instruction that waits. -/
def State.memAccs (s : State) (x : Drill) (m : MemWait) : List Acc :=
  let w := m.word
  if iCls w = 6 then s.accs x w (if iDU w then [0] else threads m.active) (if iSize w = 4 then 8 else 4) true false
  else
    s.accs x w (memThreads w m.active) (if memPref w then 1 else memBytes w) (!memLoad w && !memPref w) (decide (iCls w = 5 ∧ iOp w ≠ 1))

/-- Try to have one due sector of a load, store, PREF or LWAIT answered or accepted. -/
def State.memTry (s : State) (d : DrillRef) (key : Nat) : State :=
  match s.drill? d with
  | none => s
  | some x =>
    match x.mem with
    | none => s
    | some m =>
      let w := m.word
      if iCls w = 6 ∨ !m.due.contains key ∨ s.revokedCtx x.context then s
      else
        let as := s.memAccs x m
        let mine := (accPlaces as).filter fun e => decide (e.2.key = key)
        let lost := as.filter fun a => decide (a.res = .trap .poisoned)
        let waits : List WaitLoad := mine.map fun e =>
          { drill := d, context := x.context, thread := e.1.thread, byte := e.1.addr.toNat % 256, bytes := memBytes w, addr := e.1.addr, hint := memHint w, late := false, dead := false }
        match mine with
        | [] =>
          -- the home went under reset meanwhile (Table 18-6), or the page of a PREF is gone
          if memPref w ∧ !accHeld as then s.accept d key none
          else if lost.isEmpty then s
          else s.modDrill d fun y => { y with mem := some { m with due := removeFirst (fun k => decide (k = key)) m.due,
                                                                   bad := m.bad ++ lost.map fun a => (a.thread, a.addr) } }
        | (a, p) :: _ =>
          match p with
          | .host _ | .noLease _ => s
          | .lease _ _ =>
            if memPref w then
              if iHint w = 3 ∧ (s.lease? (dieOf d.slice) key).isNone then s.accept d key none
              else if iHint w = 3 then
                (s.modDie (dieOf d.slice) fun y => y.endLeases fun k _ => decide (k = key)).accept d key none
              else
                match s.leaseLoad d x key a.addr (iHint w) [] with
                | (s, .later) => s
                | (s, _) => s.accept d key none
            else
              match s.leaseLoad d x key a.addr (iHint w) waits with
              | (s, .hit v q) => s.answer d key v q waits
              | (s, _) => s
          | .dev y n _ =>
            if memPref w then s.prefTry d x w y n
            else if memLoad w then s.loadTry d x w y n waits
            else s.storeTry d x w y n mine

/-- Try every due sector of a drill, then end the instruction if nothing is due. -/
def State.memPump (s : State) (d : DrillRef) : State :=
  match s.drill? d with
  | none => s
  | some x =>
    match x.mem with
    | none => s
    | some m => (m.due.foldl (fun (s : State) k => s.memTry d k) s).memFinish d

/-- The drills of a core with answers due, each tried again. -/
def State.pumpCore (s : State) (k : Nat) : State :=
  (keys (s.core k).drills).foldl (fun (s : State) e => s.memPump { slice := k, engine := e / 8, slot := e % 8 }) s

/-- Change the drill of context `ctx` in a slot, where it holds the slot or its image is saved (R141, R450). -/
def State.modDrillOf (s : State) (d : DrillRef) (ctx : Half) (f : Drill → Drill) : State :=
  s.modCore d.slice fun c =>
    match find? c.drills (slotKey d) with
    | some x =>
      if x.context = ctx then { c with drills := insert c.drills (slotKey d) (f x) } else c.modSaved (slotKey d) ctx f
    | none => c.modSaved (slotKey d) ctx f

/-- A store or add-to-line of a drill has been performed at its home. -/
def State.performedOne (s : State) (d : DrillRef) (ctx : Half) (key : Nat) : State :=
  s.modDrillOf d ctx fun x => { x with unperformed := removeFirst (fun u => decide (u.key = key)) x.unperformed }

/-- Stores of a line are performed: each leaves its drill's list of unperformed accesses. -/
def State.performedStores (s : State) (n : Nat) (ws : List WaitStore) : State :=
  ws.foldl (fun (s : State) w => s.performedOne w.drill w.context n) s

/-- Serve a line's waiting loads with data from the home; a load whose drill has ended or waits no longer finds no one. -/
def State.serveLoads (s : State) (n : Nat) (v : Sector) (poison : Bool) (ws : List WaitLoad) : State :=
  let ws := ws.filter fun w => !w.dead && (s.drill? w.drill).any fun x => decide (x.context = w.context)
  let ds := ws.foldl (fun (l : List DrillRef) w => if l.contains w.drill then l else l ++ [w.drill]) []
  ds.foldl (fun (s : State) d => s.answer d n v poison (ws.filter fun w => decide (w.drill = d))) s

/-! ## Host memory from drills (R209, R210) -/

/-- Read host bytes for a drill: a plain load may use the cache's clean line, an acquiring one reads the host; a line not cached takes a way of the
data cache. None while no way is free. -/
def State.hostLoad (s : State) (d : DrillRef) (x : Drill) (iova bytes : Nat) (acquire : Bool) : Option (State × Nat) :=
  let pas := s.compPasid x.comp
  let ln := hostLine pas iova
  let fetch : Sector := sectorOf (readBytes s.mem.host (hostKey pas iova / 256 * 256) 256)
  let fill (s : State) : State × Nat :=
    (((s.hostSend false pas (iova / 256 * 256) 256).modCore d.slice fun c => { c with hostLines := insert c.hostLines ln fetch }).meterOut d.slice 8 bytes,
      leNat (sectorBytes fetch (iova % 256) bytes))
  match find? (s.core d.slice).hostLines ln with
  | some v => if acquire then some (fill s) else some (s, leNat (sectorBytes v (iova % 256) bytes))
  | none =>
    match s.cacheWay d.slice ln 0 with
    | (s, true) => some (fill s)
    | (_, false) => none

/-- The host words that some accesses read, by thread; none while the data cache has no way free for a line. -/
def State.hostLoads (s : State) (d : DrillRef) (x : Drill) (bytes : Nat) (acquire : Bool) : List (Acc × Place) → Option (State × List (Nat × Nat))
  | [] => some (s, [])
  | (a, .host i) :: es =>
    match s.hostLoad d x i bytes acquire with
    | none => none
    | some (s, v) => (State.hostLoads s d x bytes acquire es).map fun r => (r.1, (a.thread, v) :: r.2)
  | _ :: es => State.hostLoads s d x bytes acquire es

/-- A write to host bytes wakes the watchers of their lines (R125). -/
def State.hostWake (s : State) (pasid : Option Nat) (iova n : Nat) : State :=
  if n = 0 then s
  else
    (upto ((iova + n - 1) / 256 - iova / 256 + 1)).foldl (fun (s : State) i => s.wakeLine (hostLine pasid (iova / 256 * 256) + i)) s

/-- Write host bytes for a drill, through its cache (R209). -/
def State.hostStore (s : State) (d : DrillRef) (x : Drill) (iova : Nat) (bs : List Byte) : State :=
  let pas := s.compPasid x.comp
  let f := ((s.comp? x.comp).map (·.fn)).getD 0
  match s.hostWrite f pas iova bs with
  | none => s
  | some (s, due) =>
    let ln := hostLine pas iova
    let s := s.modCore d.slice fun c => { c with hostLines := erase c.hostLines ln }
    let s := (s.meterOut d.slice 8 bs.length).wakeLine ln
    if due then s.dueCodes f [mkCode 0x10D000F5 f] else s

/-- An atomic group on host memory: the location is read, changed and written in one step (R110, R129): the old values. -/
def State.hostAtomic (s : State) (d : DrillRef) (x : Drill) (g : AtomGroup) (iova : Nat) : State × List DWord :=
  let n := atomBytes g.ty
  let (v, olds) := groupRun g (leNat (readBytes s.mem.host (hostKey (s.compPasid x.comp) iova) n)) g.members
  (((s.hostSend false (s.compPasid x.comp) iova n).meterOut d.slice 8 n).hostStore d x iova (natLe n v), olds)

/-! ## Ordering (R204-R206, R221, R222) -/

/-- Every add-to-line of the drill has been performed (R161, R202). -/
def Drill.addsPerformed (x : Drill) : Bool := x.unperformed.all fun u => decide (iCls u.word ≠ 6)

/-- No access of the drill, and no store of its core that it could have read, is still on its way to its home (R205, R206). -/
def State.allPerformed (s : State) (d : DrillRef) (x : Drill) : Bool :=
  x.unperformed.isEmpty && (s.core d.slice).cache.all fun e => e.2.stores.isEmpty

end Sys2Proof.Machine
end

