-- ==== Sys2Proof/Machine/Issue.lean ====
section
/-! DEFINITION. Issuing to the array and to the transfer engines, and waiting for their tokens (R91-R99, R175, R176, R184). -/

namespace Sys2Proof.Machine

open Sys2Proof

/-- Token `t` is complete when the latest complete one is not behind it (R93, R184). -/
def tokenDone (latest t : Word) : Bool := decide (0 ≤ (latest - t).toInt)

/-- The words of a descriptor at a granule, and whether one of its `n` granules is poisoned. -/
def Core.descriptor (c : Core) (g n : Nat) : List DWord × Bool :=
  (readDWords c.seedbed (32 * g) (4 * n), c.sbPoisoned (32 * g) (32 * n))

/-- The pass that composition `c` runs is a canary pass: its number is a nonzero multiple of CANARY_N (R65). -/
def State.canaryPass (s : State) (c : Nat) : Bool :=
  match s.comp? c with
  | none => false
  | some x =>
    let n := bits x.cur.safeguard 15 0
    decide (n ≠ 0) && decide (x.serve.pass ≠ 0) && decide (x.serve.pass % n = 0)

/-- Array instructions that a slice issues in the pass: the number that a free value gave at the pass's start, never below those issued;
once the stages are over, those issued (R66). -/
def State.passTotal (s : State) (x : Comp) (k : Nat) : Nat :=
  let c := s.core k
  if x.serve.st = .emit ∨ x.serve.st = .commit then c.passInstrs else max c.passTotal c.passInstrs

/-- The canary's place in the pass of composition `x`: the slice and the index that R66 chooses; none when no slice issues an array
instruction. -/
def State.canaryPlace (s : State) (x : Comp) : Option (Nat × Nat) :=
  let n := bits x.cur.safeguard 15 0
  let ks := x.cur.slices
  let c := x.serve.pass / n
  let start := c % ks.length
  let order := ks.drop start ++ ks.take start
  (order.find? fun k => decide (s.passTotal x k ≠ 0)).map fun k => (k, (c / ks.length) % s.passTotal x k)

/-- Instruction number `i` of slice `k`, which composition `c` issues now, is the one that the pass's canary recomputes. -/
def State.canaryChosen (s : State) (c k i : Nat) : Bool :=
  let s := s.modCore k fun z => { z with passInstrs := i + 1 }
  s.canaryPass c && (s.comp? c).any fun x => !x.serve.canaryDone && decide (s.canaryPlace x = some (k, i))

/-- AMM: read the descriptor, queue the instruction, write its token; held while 8 are outstanding (R91-R94, R98). -/
def execAmm (d : DrillRef) (f : Fetched) (s : State) : Host.Outcome State Fault Refusal :=
  .next (s.issue d f 0xA 0x00 true fun x _ act =>
    let ud := (x.srcA f.word 0).toNat
    if 2 ^ 17 ≤ ud then some (s.park d .seedbedRange act (BitVec.ofNat 64 (32 * ud)) f.word)
    else
      let c := s.core d.slice
      if 8 ≤ c.queue.length ∨ s.tracked d.slice [granules ud 1] [] then none
      else
        let (w, bad) := c.descriptor ud 1
        let t := c.arrayNext + 1
        let a : ArrayInstr :=
          { token := t, drill := d, context := x.context, comp := x.comp, desc := w, descPoisoned := bad,
            safeguard := ((s.comp? x.comp).bind fun k => (k.mapOf x.epoch).map (·.safeguard)).getD 0,
            phase := .queued, poisonMet := false, acc := [], y0 := [], y1 := [], nanVec := [], init := [], sat := 0, ufl := 0, nan := 0,
            freedW := false, freedA := false, freedI := false, index := c.passInstrs, seq := c.seq + 1,
            canary := s.canaryChosen x.comp d.slice c.passInstrs }
        some ((s.setCore d.slice { c with queue := c.queue ++ [a], arrayNext := t, passInstrs := c.passInstrs + 1, seq := c.seq + 1 }).setDrill d
          (x.setU (iDst f.word) t).retire))

/-- AWAIT: a failed instruction's trap first; then the path blocks until the token is complete (R91, R95). -/
def execAwait (d : DrillRef) (f : Fetched) (s : State) : Host.Outcome State Fault Refusal :=
  .next (s.issue d f 0xA 0x01 false fun x p act =>
    match s.deferredTrap d act f.word with
    | some t => some t
    | none =>
      let t := x.srcA f.word 0
      if tokenDone (s.core d.slice).arrayDone t then some (s.setDrill d x.retire)
      else some (s.setDrill d (x.waitAt p.mask p.pc (.array t)).runLowest))

/-- APOLL: pd says whether the token is complete (R91, R95). -/
def execApoll (d : DrillRef) (f : Fetched) (s : State) : Host.Outcome State Fault Refusal :=
  .next (s.issue d f 0xA 0x02 false fun x _ act =>
    match s.deferredTrap d act f.word with
    | some t => some t
    | none => some (s.setDrill d (x.writePred f.word act fun _ => tokenDone (s.core d.slice).arrayDone (x.srcA f.word 0)).retire))

/-- AFENCE: the path blocks until every array instruction of the drill is complete (R91, R95). -/
def execAfence (d : DrillRef) (f : Fetched) (s : State) : Host.Outcome State Fault Refusal :=
  .next (s.issue d f 0xA 0x03 false fun x p act =>
    match s.deferredTrap d act f.word with
    | some t => some t
    | none =>
      if ((s.core d.slice).drillArrays d).isEmpty then some (s.setDrill d x.retire)
      else some (s.setDrill d (x.waitAt p.mask p.pc .arrayAll).runLowest))

/-- XSUB: take a token for the descriptor at granules ud and ud + 1; held while 64 are outstanding (R175, R176, R184, R186). -/
def execXsub (d : DrillRef) (f : Fetched) (s : State) : Host.Outcome State Fault Refusal :=
  .next (s.issue d f 0xB 0x00 false fun x _ act =>
    let ud := (x.srcA f.word 0).toNat
    if 2 ^ 17 ≤ ud then some (s.park d .seedbedRange act (BitVec.ofNat 64 (32 * ud)) f.word)
    else
      let c := s.core d.slice
      if 64 ≤ c.xfers.length ∨ s.tracked d.slice [granules ud 2] [] then none
      else
        let (w, bad) := c.descriptor ud 2
        let t := c.xferNext + 1
        let r : Xfer :=
          { token := t, use := .drill d, context := x.context, comp := x.comp, epoch := x.epoch, desc := w, descPoisoned := bad,
            oddDesc := decide (ud % 2 = 1), phase := .waiting, issued := 0, done := [], bad := [], freedR := false, seq := c.seq + 1 }
        some ((s.setCore d.slice { c with xfers := c.xfers ++ [r], xferNext := t, seq := c.seq + 1 }).setDrill d
          ({ x with lastXfer := some t }.setU (iDst f.word) t).retire))

/-- The path blocks until transfer token `t` is complete. -/
def State.xferWait (s : State) (d : DrillRef) (x : Drill) (p : Path) (t : Word) : State :=
  if tokenDone (s.core d.slice).xferDone t then s.setDrill d x.retire
  else s.setDrill d (x.waitAt p.mask p.pc (.transfer t)).runLowest

/-- XWAIT (R184). -/
def execXwait (d : DrillRef) (f : Fetched) (s : State) : Host.Outcome State Fault Refusal :=
  .next (s.issue d f 0xB 0x01 false fun x p _ => some (s.xferWait d x p (x.srcA f.word 0)))

/-- XPOLL (R184). -/
def execXpoll (d : DrillRef) (f : Fetched) (s : State) : Host.Outcome State Fault Refusal :=
  .next (s.issue d f 0xB 0x02 false fun x _ act =>
    some (s.setDrill d (x.writePred f.word act fun _ => tokenDone (s.core d.slice).xferDone (x.srcA f.word 0)).retire))

/-- XFENCE: until the token of the drill's latest XSUB is complete (R184). -/
def execXfence (d : DrillRef) (f : Fetched) (s : State) : Host.Outcome State Fault Refusal :=
  .next (s.issue d f 0xB 0x03 false fun x p _ =>
    match x.lastXfer with
    | none => some (s.setDrill d x.retire)
    | some t => some (s.xferWait d x p t))

end Sys2Proof.Machine
end

