-- ==== Sys2Proof/Machine/Message.lean ====
section
/-! DEFINITION. Hedgerow messages: header fields and flits (R309, Table 11-3). -/

namespace Sys2Proof

open Sys2Proof.Machine

/-- Message-header fields (Table 11-3). -/
def HdgMsg.cls (m : HdgMsg) : Nat := bits m.hdr 127 126
def HdgMsg.level (m : HdgMsg) : Nat := bits m.hdr 125 125
def HdgMsg.dst (m : HdgMsg) : Nat := bits m.hdr 124 120
def HdgMsg.src (m : HdgMsg) : Nat := bits m.hdr 119 115
def HdgMsg.rgen (m : HdgMsg) : Nat := bits m.hdr 71 68
def HdgMsg.mrow (m : HdgMsg) : Nat := bits m.hdr 67 65
def HdgMsg.mcol (m : HdgMsg) : Nat := bits m.hdr 64 63
def HdgMsg.unit (m : HdgMsg) : Nat := bits m.hdr 114 111
def HdgMsg.context (m : HdgMsg) : Half := BitVec.ofNat 16 (bits m.hdr 95 80)
/-- The virtual channel: 2 × CLASS + LEVEL (R313). -/
def HdgMsg.vc (m : HdgMsg) : Nat := 2 * m.cls + m.level

/-- Replace a field of a header. -/
def setField (h : BitVec 128) (hi lo v : Nat) : BitVec 128 :=
  BitVec.ofNat 128 (h.toNat - bits h hi lo * 2 ^ lo + v % 2 ^ (hi - lo + 1) * 2 ^ lo)
def HdgMsg.setLevel (m : HdgMsg) (l : Nat) : HdgMsg := { m with hdr := setField m.hdr 125 125 l }
def HdgMsg.setRoute (m : HdgMsg) (r : Route) : HdgMsg :=
  { m with hdr := setField (setField (setField m.hdr 125 125 0) 67 65 r.mrow) 64 63 r.mcol }

/-- A message holds all its flits: no further data flit is still to come (R309). -/
def HdgMsg.whole (m : HdgMsg) : Bool := m.data.isNone || m.more.isSome || !Config.continues m.hdr

/-- The flits that carry a message. -/
def HdgMsg.flits (m : HdgMsg) : Nat := if m.more.isSome then 2 else 1

end Sys2Proof
end

