-- ==== Sys2Proof/Machine/Reset.lean ====
section
/-! DEFINITION. Contexts and their teardown (R440, R441, R456), a composition's restart (R506-R508), the start of a partition's reset and what it does to the rest of the panel (R274, R497-R502, R585). -/

namespace Sys2Proof.Machine

open Sys2Proof

/-! ## Passes -/

def State.modServe (s : State) (c : Nat) (f : Serve → Serve) : State := s.modComp c fun x => { x with serve := f x.serve }

/-- The composition's pass fails: the loop will enter ROLLBACK. While its restart is under way nothing counts as a failure (R417). -/
def State.failPass (s : State) (c : Nat) : State :=
  s.modServe c fun v => if v.st.running && !v.restarting then { v with failedNow := true } else v

/-- A stream's version reinitialised as at a join: BEAM empty hypotheses in each target slot, no output waiting; its frames, its buffers and
its pages stay (R424, R484). -/
def Stream.fresh (t : Stream) (v : StreamState) : StreamState :=
  let hyps : List Hyp := (upto t.beam).map fun i => { index := i, score := 0, tail := [], toks := 0 }
  { v with slots := mapVals (fun _ l => { l with hyps := hyps, fresh := [], waitText := [], waitSpeech := [], dropText := false, dropSpeech := false }) v.slots }

/-- A read of the pass met poison at composition address `a`. In the KV page region, which holds state records and pages, the stream it
belongs to restarts, and the pass runs again without counting a failure; elsewhere the pass fails (R484). Which stream is the model's code's to
say (R412): a free choice. -/
def State.failPoison (s : State) (c a : Nat) : State :=
  match s.comp? c with
  | none => s
  | some x =>
    let v := x.serve
    let ts := v.streams.filter fun t => t.admitted
    if !(decide (v.kvbase ≤ a) && decide (a < v.kvbase + v.kvsize)) || ts.isEmpty then s.failPass c
    else if !v.st.running || v.restarting then s
    else
      let (n, s) := s.takeFresh 1
      let hit := (ts[Config.freeNat n % ts.length]?).map (·.handle)
      s.modServe c fun v =>
        { v with excused := true, streams := v.streams.map fun t => if some t.handle = hit then { t with restart := true } else t }

/-! ## Contexts (R191, R440, R441) -/

/-- All 64 tally counters of a core belong to `owner`, each 0 (R191). -/
def Core.grantTallies (c : Core) (owner : Half) : Core :=
  { c with tallies := (upto 64).map fun i => (i, { value := 0, owner := some owner, frozen := false }) }

/-- The core's counters that `ctx` owns lose their owner. -/
def Core.dropTallies (c : Core) (ctx : Half) : Core :=
  { c with tallies := mapVals (fun _ t => if t.owner = some ctx then { t with owner := none, frozen := false } else t) c.tallies }

/-- An ID that may be assigned: not 0, not live or being torn down, and a second past its last teardown (R441). -/
def State.ctxFree (s : State) (id : Half) : Bool :=
  decide (id ≠ 0) && (s.yoke.comps.all fun e => decide (e.2.context ≠ id)) && (s.yoke.teardowns.all fun e => decide (e.1 ≠ id)) &&
    s.yoke.ctxFreed.all fun e => decide (e.1 ≠ id) || decide (e.2 + 1000000000 ≤ s.time.now)

/-- The next ID in rotation. -/
def State.nextCtx (s : State) : Nat → Half → Half
  | 0, id => id
  | n + 1, id => if s.ctxFree id then id else s.nextCtx n (id + 1)

/-- Give composition `c` a new live context, and its slices' tally counters to it (R191, R440). -/
def State.assignContext (s : State) (c : Nat) : State :=
  match s.comp? c with
  | none => s
  | some x =>
    let id := s.nextCtx 65536 s.yoke.ctxNext
    let s := s.setComp c { x with context := id }
    let s := { s with yoke := { s.yoke with ctxNext := id + 1, revoked := s.yoke.revoked.filter fun r => decide (r ≠ id) } }
    x.cur.slices.foldl (fun (s : State) k => if s.dieUp (dieOf k) then s.modCore k fun y => y.grantTallies id else s) s

/-- Begin the teardown of a composition's context: every source revokes it at tr, 2 µs from now (R456). -/
def State.beginTeardown (s : State) (c : Nat) (unbind restart : Bool) : State :=
  match s.comp? c with
  | none => s
  | some x =>
    if x.context = 0 then s
    else if s.yoke.teardowns.any fun e => decide (e.1 = x.context) then
      { s with yoke := { s.yoke with teardowns := s.yoke.teardowns.map fun e =>
        if e.1 = x.context then (e.1, { e.2 with unbind := e.2.unbind || unbind, restart := e.2.restart || restart }) else e } }
    else
      let t : Teardown := { comp := c, tr := s.time.now + 2000, revoked := false, unbind := unbind, restart := restart }
      { s with yoke := { s.yoke with teardowns := s.yoke.teardowns ++ [(x.context, t)], lastTd := x.context } }

/-! ## Restart of a composition (R398, R401, R506-R508) -/

/-- Abort a REBIND that waits to change the epoch, and a region move: both complete with status 0x06. A waiting MAP or UNMAP stays. Sectors
whose final copy had not been made are poisoned at the new place (R398, R401). -/
def State.abortChanges (s : State) (c : Nat) : State :=
  match s.comp? c with
  | none => s
  | some x =>
    let stays := x.change.filter fun ch => !ch.rebind && ch.entry.isSome
    let s := match x.change with
      | some ch => match ch.entry, ch.rebind with
        | some e, true => s.complete e 6
        | _, _ => s
      | none => s
    match x.move with
    | none => s.modComp c fun y => { y with change := stays }
    | some m =>
      let s := if m.phase = .final then
          m.marks.foldl (fun (s : State) i =>
            let n := setPlace (x.cur.set m.set) (m.offset + 256 * i) / 256
            match s.gsec? n with
            | some _ => s.modGsec n fun g => { g with poison := true, dirty := true }
            | none => { s with mem := { s.mem with poison := addOnce n s.mem.poison } }) s
        else s
      (s.complete m.entry 6).modComp c fun y => { y with change := stays, move := none }

/-- Tell the other panels of a spanning composition: an ACK with STATUS 6 and CONTEXT 0 (R508). -/
def State.notifyPeers (s : State) (c : Nat) (x : Comp) : State :=
  if x.span then
    x.peers.foldl (fun (s : State) p =>
      s.sendPlain (s.headlandFor 0 p) p 3 0 (fun g => tltW2 0 x.cur.epoch c 0 0 false g 0) 0 6 []) s
  else s

/-- The payload of a TYPE 6 record (Table 20-5). -/
def State.recordMark (s : State) (c kind : Nat) : State :=
  match s.comp? c with
  | none => s
  | some x => s.record c 6 (natLe 8 (kind * 2 ^ 56 + x.cur.epoch.toNat * 2 ^ 48 + x.context.toNat * 2 ^ 32 + x.serve.pass % 2 ^ 32))

/-- A composition restarts: its context is torn down and the restart is reported, once (R507 step 1). -/
def State.startRestart (s : State) (c : Nat) : State :=
  match s.comp? c with
  | none => s
  | some x =>
    if x.serve.restarting ∨ x.unbinding then s.abortChanges c
    else
      let s := s.abortChanges c
      let s := (s.beginTeardown c false true).modServe c fun v => { v with restarting := true }
      let s := (s.count .rlyRestarts 0 0 1).recordMark c 1
      (s.reportComps (mkCode 0x11200160 c) [c]).notifyPeers c x

/-! ## Partition reset (R497-R502) -/

/-- The core a request comes from, if any. -/
def HomeReq.core? : HomeReq → Option Nat
  | .getS x _ | .getM x _ _ | .putM x _ _ | .atom x _ | .radd x _ | .pref x _ _ _ => some x
  | _ => none

/-- A request's source lies on die `d`. -/
def HomeReq.fromDie (d : Nat) (r : HomeReq) : Bool := (r.core?.map dieOf) = some d

/-- What a home on another die does when die `d` resets: Invs count as acknowledged, requests are dropped, a Recall is answered without
data and poisons the sector, and the directory sweep starts (R274). -/
def State.homeSeesReset (s : State) (h d : Nat) : State :=
  let x := s.die h
  let hit := x.trans.filter fun e => (e.2.owner.map fun o => dieOf o.1) = some d
  let trans := mapVals (fun _ t =>
    { t with acks := t.acks.filter fun k => decide (dieOf k ≠ d),
             owner := (match t.owner with
               | some o => if dieOf o.1 = d then none else some o
               | none => none),
             byPutM := t.byPutM || decide ((t.owner.map fun o => dieOf o.1) = some d),
             req := if t.req.fromDie d then .dropped else t.req }) x.trans
  let s := s.setDie h { x with trans := trans, pend := x.pend.filter fun e => !e.2.fromDie d, sweep := addOnce d x.sweep }
  let s := hit.foldl (fun (s : State) e =>
    (s.modGsec e.1 fun g => { g with poison := true, dirty := true }).reportDie h (mkCode 0x109000B2 h)) s
  (keys trans).foldl (fun (s : State) n => s.settleTrans n) s

/-- The port on the other end of a compute die's port N E S W, where that is a die: positions form seven rows of four. -/
def neighbour (pos port : Nat) : Option (Nat × Nat) :=
  match port with
  | 0 => if 4 ≤ pos then some (pos - 4, 2) else none
  | 1 => if pos % 4 < 3 then some (pos + 1, 3) else none
  | 2 => if pos < 24 then some (pos + 4, 0) else none
  | _ => if pos % 4 ≠ 0 then some (pos - 1, 1) else none

/-- The logical die at a position. -/
def State.dieAt (s : State) (pos : Nat) : Option Nat := (upto 24).find? fun d => decide ((s.die d).pos = pos)

/-- A port trains anew (R316): nothing has been offered yet. -/
def HPort.begin (p : HPort) : HPort :=
  { p with st := .training, agreed := 0, localMask := 0, offerOut := none, offerIn := none, confirmOut := none, confirmIn := none }

/-- The messages with an unacknowledged flit: the further flit of a message, which comes last, stands for it. -/
def HPort.unacked (p : HPort) : List HdgMsg := (p.replay.filter fun f => f.cont || f.msg.more.isNone).map (·.msg)

/-- The room of the reroute buffer for a port: as many flits as the input buffers hold for one (R313, R320). -/
def Switch.rerouteRoom (w : Switch) (port : Nat) : Nat :=
  512 - ((w.reroute.filter fun r => decide (r.port = port)).map fun r => r.msg.flits).sum

/-- Move messages of a port to the reroute buffer while it has room: the switch, and what is left (R320). -/
def Switch.park (w : Switch) (port : Nat) : List HdgMsg → Switch × List HdgMsg
  | [] => (w, [])
  | m :: ms =>
    if m.flits ≤ w.rerouteRoom port then Switch.park { w with reroute := w.reroute ++ [{ port := port, msg := m, ready := false }] } port ms
    else (w, m :: ms)

/-- A port of a switch leaves the active state and trains: its unacknowledged messages go to the reroute buffer, and a message whose further flit
had not come by it is dropped, for its sender injects it again (R309, R312, R316, R320). -/
def HPort.retrain (p : HPort) (port : Nat) (w : Switch) : HPort × Switch :=
  if p.st = .active ∨ p.st = .training then
    let (w, rest) := w.park port (p.left ++ p.unacked)
    ({ p.begin with replay := [], left := rest, gap := false, ackDue := false, nakRun := 0, owed := [] },
     { w with inbox := w.inbox.filter fun h => decide (h.port ≠ port) || h.msg.whole })
  else (p, w)

/-- Retrain port `q` of logical die `d`. -/
def State.retrainPort (s : State) (d q : Nat) : State :=
  s.modDie d fun x =>
    let (p, w) := ((find? x.ports q).getD .reset).retrain q x.sw
    { x with sw := w, ports := insert x.ports q p }

/-- Retrain the port of a headland (0 or 1) at a column. -/
def State.retrainHl (s : State) (h col : Nat) : State :=
  let (p, w) := (getD .reset s.hlPorts (4 * h + col)).retrain col (getD .reset s.hlSw h)
  { s with hlPorts := setD .reset s.hlPorts (4 * h + col) p, hlSw := setD .reset s.hlSw h w }

/-- Cached lines of sectors homed on die `d` are lost with their home: their loads find poison, their stores are lost, the line is gone
(R228, R502). -/
def Core.loseHome (c : Core) (d : Nat) : Core := { c with cache := c.cache.filter fun e => decide (homeOf e.1 ≠ d) }

/-- The sector of a store or add-to-line that is not yet performed. -/
def Unperf.sector (u : Unperf) : Nat := u.key % 2 ^ 36

/-- A drill whose answers were due from die `d`: the threads whose address lies there meet poison (Table 18-6); a PREF there has no effect. -/
def State.loseAnswers (s : State) (d : Nat) (r : DrillRef) : State :=
  match s.drill? r with
  | none => s
  | some x =>
    match x.mem with
    | none => s
    | some m =>
      let gone (k : Nat) : Bool :=
        let n := if iCls m.word = 6 then k / 256 else k
        decide (n < dramBytes / 256) && decide (homeOf n = d)
      if !(m.due.any gone) then s
      else
        let bad := if memPref m.word then [] else
          (s.memAccs x m).filterMap fun a => if a.res = .trap .poisoned then some (a.thread, a.addr) else none
        (s.setDrill r { x with mem := some { m with due := m.due.filter fun k => !gone k, bad := m.bad ++ bad } }).memFinish r

/-- The stores and add-to-lines under way to die `d` of every drill, in its slot or saved, are lost (R274, Table 18-6). -/
def State.loseStoresTo (s : State) (d : Nat) : State :=
  s.cores.foldl (fun (s : State) c =>
    let ds := c.2.drills ++ (c.2.saved.map fun v => v.drills).getD []
    ds.foldl (fun (s : State) e =>
      s.loseStores { slice := c.1, engine := e.1 / 8, slot := e.1 % 8 } e.2.context true fun u => decide (homeOf u.sector = d)) s) s

/-- A die that stops: what it keeps is its place, its counts, its clock and thermal state, its image and its power-up results (R497, R524,
R548, R560). -/
def Die.stopped (x : Die) : Die :=
  { Die.reset with
    ports := mapVals (fun _ p => { (p.retrain 0 .reset).1 with left := [] }) x.ports, part := x.part, run := x.run, rgen := x.rgen, resets := x.resets,
    resetTimes := x.resetTimes, testTimes := x.testTimes, partCode := x.partCode, updating := x.updating, image := x.image,
    imageVer := x.imageVer, step := 0, gov := x.gov, ceil := x.ceil, duty := x.duty, coolTicks := x.coolTicks, td := x.td, hot := x.hot,
    sensorBad := x.sensorBad, est := x.est, ts := x.ts, rate := x.rate, coolSamples := x.coolSamples, throttle := x.throttle, eccWin := x.eccWin,
    eccReported := x.eccReported, eccThr := x.eccThr, scrubPer := x.scrubPer, scrubNext := x.scrubNext, spares := x.spares, trained := x.trained,
    bistStatus := x.bistStatus, sramFailReg := x.sramFailReg, dramFailReg := x.dramFailReg, sigs := x.sigs, cohErr := x.cohErr,
    pos := x.pos }

/-- A core of a die that stops: only its meters and power domain remain; no loan, drill, token or counter does (R497, R449). -/
def Core.stopped (c : Core) : Core := { Core.reset with meters := c.meters, boundAt := c.boundAt }

/-- The resets of the last 600 s, this one included (R499). -/
def Die.recentResets (x : Die) (now : Nat) : Nat := (x.resetTimes.filter fun t => decide (now < t + 600000000000)).length + 1

/-- A stored RW register, which its die's reset keeps (R557, R560). -/
def isRw (off : Nat) : Bool := (regAt off).any fun a => decide (a.reg.row.access = .rw)

/-- The counters and status registers of die `d` lose their values (R560). -/
def RegFile.dropDie (f : RegFile) (d : Nat) : RegFile :=
  { f with vals := f.vals.filter fun e => !(decide (dieBlock d ≤ e.1) && decide (e.1 < dieBlock (d + 1))) || isRw e.1 }

/-- Die `d` stops, to be reset or to stay out of service: what it held is gone, the other dies, the headlands and the compositions on it see
it (steps 1 and 2 of Table 18-5, R497, R502, R585). -/
def State.stopPartition (s : State) (d : Nat) : State :=
  let x := s.die d
  let loads := x.reeveXfers.filterMap fun t => match t.use with
    | .load e => some e
    | _ => none
  let s := s.setDie d x.stopped
  let s := (slicesOf d).foldl (fun (s : State) k => s.modCore k Core.stopped) s
  let lo := d * 16 * channelBytes
  let hi := (d + 1) * 16 * channelBytes
  let s := { s with
    regs := s.regs.dropDie d,
    mem := { s.mem with dram := clearRange s.mem.dram lo hi,
                        poison := s.mem.poison.filter fun n => decide (homeOf n ≠ d),
                        errs := s.mem.errs.filter fun e => decide (homeOf (e.1 / 4) ≠ d),
                        parity := s.mem.parity.filter fun e => decide (e.1 / 16 ≠ d) },
    net := s.net.filter fun m => decide (homeOf m.sector ≠ d) && decide (dieOf m.cache ≠ d) }
  -- the other dies: homes, caches, drills that wait, neighbouring ports
  let s := (upto 24).foldl (fun (s : State) h => if h = d ∨ !s.dieUp h then s else s.homeSeesReset h d) s
  let drillKeys := s.cores.flatMap fun c => (keys c.2.drills).map fun e => { slice := c.1, engine := e / 8, slot := e % 8 : DrillRef }
  let s := { s with cores := mapVals (fun _ c => c.loseHome d) s.cores }
  let s := (drillKeys.foldl (fun (s : State) r => s.loseAnswers d r) s).loseStoresTo d
  let s := (upto 4).foldl (fun (s : State) q =>
    match neighbour x.pos q with
    | some (p, r) => match s.dieAt p with
      | some h => if h = d then s else s.retrainPort h r
      | none => s
    | none =>
      if q = 0 ∧ x.pos < 4 then s.retrainHl 0 x.pos else if q = 2 ∧ 24 ≤ x.pos then s.retrainHl 1 (x.pos - 24) else s) s
  let s := loads.foldl (fun (s : State) e => s.complete e 6) s
  (s.compsOnDie d).foldl (fun (s : State) c =>
    (s.modComp c fun x => { x with lost := addOnce d x.lost }).startRestart c) s

/-- The number of dies as a mask. -/
def dieMask (ds : List Nat) : Nat := ds.foldl (fun a d => a ||| 2 ^ d) 0

/-- Die `d` is back in service or has left it: BIST and FW_APPLY commands complete once every die they list has (R523, R536). -/
def State.settleTests (s : State) (d : Nat) (ok : Bool) : State :=
  let s := s.modDie d fun x => { x with updating := false }
  let bs := s.tst.bists.map fun b =>
    if b.2.1.contains d then
      (b.1, (b.2.1.filter (fun k => decide (k ≠ d)), (if ok then addOnce d b.2.2.1 else b.2.2.1, if ok then b.2.2.2 else addOnce d b.2.2.2)))
    else b
  let s := { s with tst := { s.tst with bists := bs.filter fun b => !b.2.1.isEmpty } }
  let s := (bs.filter fun b => b.2.1.isEmpty).foldl (fun (s : State) b => s.complete b.1 0 (dieMask b.2.2.1) (dieMask b.2.2.2)) s
  match s.sec.applying with
  | some (e, ds) =>
    if ds.any fun k => decide ((s.die k).part = .resetting) then s
    else ({ s with sec := { s.sec with applying := none } }).complete e (if ds.all s.dieUp then 0 else 6)
  | none => s

/-- Begin the reset of logical die `d` (Table 18-5, steps 1 and 2), or restart it from step 3 while one runs, with the RGEN that step 1 gave it (R500). `code` is 0 for a
firmware update, which loads the pending image, and for a test cycle, which does not count under R499 (R523, R536). -/
def State.startReset (s : State) (d : Nat) (code : Code) (update : Bool := false) (bist : Option (Bool × Bool) := none) : State :=
  if (s.die d).part = .outOfService then s
  else
    let s := if code = 0 then s else s.reportDie d code
    let x := s.die d
    let third := decide (3 ≤ x.recentResets s.time.now) && bist.isNone
    let again := decide (x.part = .resetting)
    let run : ResetRun :=
      { step := if again then 3 else 1, code := code,
        bist := if bist.isSome then bist else if again then x.run.bind (·.bist) else none,
        update := update || (again && x.run.any (·.update)) }
    let y := { x with part := if third then .outOfService else .resetting, run := if third then none else some run,
                      rgen := if again then x.rgen else x.rgen + 1,
                      partCode := code }
    let y := if bist.isSome then { y with testTimes := x.testTimes ++ [s.time.now] }
             else { y with resetTimes := x.resetTimes ++ [s.time.now], resets := min 255 (x.resets + 1) }
    let s := (s.setDie d y).stopPartition d
    if third then (s.reportDie d (mkCode 0x81200151 d)).settleTests d false else s

/-- A partition leaves service until the next start-up (R321, R499, R537). -/
def State.leaveService (s : State) (d : Nat) (code : Code) : State :=
  let s := s.reportDie d code
  let up := s.dieUp d
  let s := s.modDie d fun x => { x with part := .outOfService, run := none, partCode := if x.partCode = 0 then code else x.partCode }
  let s := if up then s.stopPartition d else s
  s.settleTests d false

/-- A protocol violation at a home or a cache: held in GRN_COH_ERR, and the partition resets (R275). -/
def State.violation (s : State) (d : Nat) (code : Code) : State :=
  (s.modDie d fun x => { x with cohErr := code }).startReset d code
def State.homeViolation (s : State) (d : Nat) : State := s.violation d (mkCode 0x809000B0 d)
def State.cacheViolation (s : State) (slice : Nat) : State := s.violation (dieOf slice) (mkCode 0x809000B1 slice)

/-- A die with a channel at fault resets (R295). -/
def State.resetFaulty (s : State) (d : Nat) : State := if (s.die d).ifFault && s.dieUp d then s.startReset d (mkCode 0x80A000C4 d) else s

/-- Every die whose channel has failed starts its reset (R295). -/
def State.resetFaulties (s : State) : State := (keys s.dies).foldl (fun (s : State) d => s.resetFaulty d) s

end Sys2Proof.Machine
end

