-- ==== Sys2Proof/Machine/Sync.lean ====
section
/-! DEFINITION. Fences, tally waits, lock waits, drill synchronisation and core barriers (R125-R127, R132, R161, R194-R196). -/

namespace Sys2Proof.Machine

open Sys2Proof

/-- MFENCE: a full or release fence beyond the core waits until everything is performed, one at core scope until the drill's add-to-lines are; a full or acquire fence at host scope drops the
core's host lines (R161, R206, R209, R221). Loads hold their drill until they return, so an acquire fence has nothing to wait for; the core's drills
see a store of the core from its issue on, so a fence at core scope waits for none (R202). -/
def execMfence (d : DrillRef) (f : Fetched) (s : State) : Host.Outcome State Fault Refusal :=
  .next (s.issue d f 0x7 0x00 false fun x _ _ =>
    let scope := iModBits f.word 10 9
    let kind := iModBits f.word 8 7
    let wide := decide (scope ≠ 0) || x.g1
    if kind ≠ 1 ∧ !(if wide then s.allPerformed d x else x.addsPerformed) then none
    else
      let s := if scope = 2 ∧ kind ≠ 2 then s.modCore d.slice fun c => { c with hostLines := [] } else s
      some (s.setDrill d x.retire))

/-! ## Tally counters (R190-R196) -/

def Core.tally (c : Core) (n : Nat) : Tally := getD ⟨0, none, false⟩ c.tallies n

/-- The counter that ut names, if the drill's context owns it (R194). -/
def State.tallyOf? (s : State) (d : DrillRef) (x : Drill) (ut : Word) : Option Tally :=
  let t := (s.core d.slice).tally (ut.toNat % 64)
  if ut.toNat < 64 ∧ t.owner = some x.context then some t else none

/-- The signed comparison of Table 05-11. -/
def tallyReached (v target : Word) : Bool := decide (0 ≤ (v - target).toInt)

/-- TWAIT: the path blocks at the instruction until the condition holds (R196). -/
def execTwait (d : DrillRef) (f : Fetched) (s : State) : Host.Outcome State Fault Refusal :=
  .next (s.issue d f 0x8 0x00 false fun x p act =>
    let ut := x.srcA f.word 0
    let uv := x.srcB f.word 0
    match s.tallyOf? d x ut with
    | none => some (s.park d .notMapped act (ut.setWidth 64) f.word)
    | some t =>
      if tallyReached t.value uv then some (s.setDrill d x.retire)
      else some (s.setDrill d (x.waitAt p.mask p.pc (.tally ut.toNat uv)).runLowest))

/-- TPOLL: pd takes the condition in the active threads. -/
def execTpoll (d : DrillRef) (f : Fetched) (s : State) : Host.Outcome State Fault Refusal :=
  .next (s.issue d f 0x8 0x01 false fun x _ act =>
    let ut := x.srcA f.word 0
    match s.tallyOf? d x ut with
    | none => some (s.park d .notMapped act (ut.setWidth 64) f.word)
    | some t => some (s.setDrill d (x.writePred f.word act fun _ => tallyReached t.value (x.srcB f.word 0)).retire))

/-- TREAD: ud takes the counter's value. -/
def execTread (d : DrillRef) (f : Fetched) (s : State) : Host.Outcome State Fault Refusal :=
  .next (s.issue d f 0x8 0x02 false fun x _ act =>
    let ut := x.srcA f.word 0
    match s.tallyOf? d x ut with
    | none => some (s.park d .notMapped act (ut.setWidth 64) f.word)
    | some t => some (s.setDrill d (x.setU (iDst f.word) t.value).retire))

/-! ## Lock waiting (R125, R126) -/

/-- The 256-byte line a place lies in, as lock waits watch it. -/
def State.watchKey (s : State) (x : Drill) : Place → Nat
  | .dev _ n _ => n
  | .host i => hostLine (s.compPasid x.comp) i
  | p => p.key

/-- LWAIT arms its monitors, and its words come as a load's do; then it compares (R125, R250, R267). -/
def execLwait (d : DrillRef) (f : Fetched) (s : State) : Host.Outcome State Fault Refusal :=
  .next (match (s.drill? d).bind (·.mem) with
  | some m => if m.word = f.word then s.memPump d else s
  | none => s.issue d f 0x9 0x00 false fun x _ act =>
    let as := s.accs x f.word (threads act) 4 false false
    match pickTrap (accTraps as) with
    | some (t, mask, a) => some (s.park d t mask a f.word)
    | none =>
      let ps := accPlaces as
      if accHeld as ∨ s.tracked d.slice (ps.flatMap fun e => e.2.span e.1.addr 4) [] then none
      else
        match s.hostLoads d x 4 false ps with
        | none => none
        | some (s, got) =>
          let due := distinct (ps.filterMap fun e => match e.2 with
            | .dev _ n _ => some n
            | _ => none)
          let m : MemWait := { word := f.word, active := act, due := due, got := got, bad := [],
                               watch := distinct (ps.map fun e => s.watchKey x e.2), woken := false }
          some ((s.setDrill d { (s.drill? d).getD x with mem := some m }).memPump d))

/-- Whether a wait is a lock wait. -/
def Wait.isLock : Wait → Bool
  | .lock _ => true
  | _ => false

/-- Make ready the lock-waiting paths that satisfy `p` (R125). -/
def Drill.unlock (x : Drill) (p : Path → Bool) : Drill :=
  let hit (q : Path) : Bool := q.wait.isLock && p q
  if decide (x.status = .active) && x.paths.any hit then
    let kept := x.paths.filter fun q => !hit q
    { x with paths := (x.paths.filter hit).foldl (fun (ps : List Path) (q : Path) => addPath { q with wait := .runnable } ps) kept }.wake
  else x

/-- LWAIT_TIMEOUT: 4,096 FC cycles have passed since the path at `pc` began to wait (R125). DESIGN CHOICE: the threads that lock-wait at one PC began as one
path and its timeout ends the wait of all of them, whichever lines they watch. -/
def execLwaitTimeout (d : DrillRef) (pc : BitVec 48) (s : State) : Host.Outcome State Fault Refusal :=
  .next (if s.inService ∧ s.dieUp (dieOf d.slice) then s.modDrill d fun x => x.unlock fun q => decide (q.pc = pc) else s)

/-! ## Drill synchronisation (R127) -/

/-- Threads that are sync-waiting, at `pc` or anywhere. -/
def Drill.syncMask (x : Drill) (pc : Option (BitVec 48)) : DWord :=
  x.paths.foldl (fun m q => if q.wait = .sync ∧ (pc = none ∨ pc = some q.pc) then m ||| q.mask else m) 0

/-- The sync-waiting path at the DSYNC executed last. -/
def Drill.lastSync (x : Drill) : Option Path :=
  x.paths.foldl (fun (b : Option Path) q =>
    if q.wait = .sync then (match b with
      | some r => if r.since ≤ q.since then some q else some r
      | none => some q) else b) none

/-- After a thread has begun to sync-wait or exited: when every live thread waits at one DSYNC they go on as one path; when they wait
at several the drill takes the sync-mismatch trap at the last one (the answer's PC and mask). -/
def Drill.syncCheck (x : Drill) : Drill × Option Path :=
  let live := x.live
  if live ≠ 0 ∧ x.syncMask none = live then
    match x.lastSync with
    | none => (x, none)
    | some q =>
      if x.syncMask (some q.pc) = live then
        ({ x with cur := some { mask := live, pc := q.pc + 8, wait := .runnable, since := q.since }, paths := [], budget := 16, window := none },
          none)
      else (x, some q)
  else (x.runLowest, none)

/-- Settle a drill after DSYNC or EXIT: a mismatch parks it with the last DSYNC's path running; the record has that DSYNC (R127, R133, Table 04-5). -/
def State.syncSettle (s : State) (d : DrillRef) (x : Drill) : State :=
  match x.syncCheck with
  | (y, none) => s.setDrill d y
  | (y, some q) =>
    let z := { y with cur := some { q with wait := .runnable }, paths := removeFirst (fun r => decide (r = q)) y.paths }
    (s.setDrill d z).park d .syncMismatch q.mask 0 z.dsync

/-- DSYNC: the active threads sync-wait at the instruction (R127, R149). -/
def execDsync (d : DrillRef) (f : Fetched) (s : State) : Host.Outcome State Fault Refusal :=
  .next (s.issue d f 0x9 0x01 false fun x p act => some (s.syncSettle d { x.waitAt act p.pc .sync with dsync := f.word }))

/-! ## Core barriers (R132) -/

/-- CBAR: wait until uc drills of the context have arrived at barrier ub; then all go on (R131, R132). -/
def execCbar (d : DrillRef) (f : Fetched) (s : State) : Host.Outcome State Fault Refusal :=
  .next (s.issue d f 0x9 0x02 true fun x p act =>
    let ub := (x.srcA f.word 0).toNat
    let uc := (x.srcB f.word 0).toNat
    let c := s.core d.slice
    let b := (find? c.barriers ub).getD { waiting := [], context := x.context, count := uc }
    if 16 ≤ ub ∨ uc = 0 ∨ 32 < uc ∨ (!b.waiting.isEmpty ∧ b.count ≠ uc) then some (s.park d .barrierMismatch act 0 f.word)
    else if b.waiting.length + 1 < uc then
      let b := { b with waiting := b.waiting ++ [d] }
      some ((s.setCore d.slice { c with barriers := insert c.barriers ub b }).setDrill d (x.waitAt p.mask (p.pc + 8) (.barrier ub)).runLowest)
    else
      let s := (s.setCore d.slice { c with barriers := erase c.barriers ub }).setDrill d x.retire
      some (b.waiting.foldl (fun (s : State) e => s.modDrill e fun y => y.release fun w => decide (w = .barrier ub)) s))

end Sys2Proof.Machine
end

