-- ==== Sys2Proof/Machine/Parking.lean ====
section
/-! DEFINITION. Drill events: launch records, fault records, the outcomes of a parking, the end of a drain (R111-R113, R121, R136-R139). -/

namespace Sys2Proof.Machine

open Sys2Proof

/-! ## Launch (R111-R113) -/

/-- Fields of Table 04-2. -/
def Launch.ctx (l : Launch) : Half := BitVec.ofNat 16 (bits l.w0 63 48)
def Launch.entry (l : Launch) : BitVec 48 := l.w0.setWidth 48
def Launch.nregs (l : Launch) : Nat := (bits l.w3 63 61 + 1) * 8
def Launch.engine (l : Launch) : Nat := bits l.w3 60 58

/-- A record that may be placed: no reserved encoding, ENTRY aligned, MASK not 0 (R112). -/
def Launch.ok (l : Launch) : Bool :=
  decide (l.engine ≤ 4) && decide (bits l.w3 57 16 = 0) && decide (bits l.w0 2 0 = 0) && decide (l.w1 ≠ 0)

/-- Free slots of an engine, rising. -/
def Core.freeSlots (c : Core) (e : Nat) : List Nat := (upto 8).filter fun i => (find? c.drills (8 * e + i)).isNone

/-- The engine with the most free slots, the lowest on a tie. -/
def Core.freest (c : Core) : Nat :=
  (upto 4).foldl (fun b e => if (c.freeSlots b).length < (c.freeSlots e).length then e else b) 0

/-- The registers at launch: g0 holds the thread index, u0 and u1 the initial values, every live thread is at ENTRY (R113). -/
def Launch.drill (l : Launch) (g1 : Bool) : Drill where
  context := l.ctx
  comp := l.comp
  epoch := l.epoch
  g1 := g1
  tag := l.w3.setWidth 16
  pass := l.pass
  nregs := l.nregs
  g := (upto 64).foldl (fun m t => setD 0 m (64 * t) (BitVec.ofNat 32 t)) []
  p := []
  u := setD 0 (setD 0 [] 0 (BitVec.ofNat 32 (bits l.w2 63 32))) 1 (BitVec.ofNat 32 (bits l.w2 31 0))
  cur := some { mask := l.w1, pc := l.entry, wait := .runnable, since := 0 }
  paths := []
  budget := 16
  window := none
  stamp := 1
  mem := none
  unperformed := []
  lastXfer := none
  failed := []
  dsync := 0
  status := .active

/-- LAUNCH_RECORD_TAKE: the head record goes to a slot, waits for one, or is rejected and fails its pass (R111, R112). -/
def execLaunchRecordTake (slice : Nat) (s : State) : Host.Outcome State Fault Refusal :=
  .next (
    let c := s.core slice
    match c.launches with
    | [] => s
    | l :: rest =>
      if !s.coreIssues slice ∨ s.revokedCtx l.ctx then s
      else if !l.ok then
        let s := s.setCore slice { c with launches := rest }
        let code := mkCode 0x4050007C slice
        (match s.compOfCtx l.ctx with
          | some k => s.reportComps code [k]
          | none => s.logCode code).failPass l.comp
      else
        let e := if l.engine = 4 then c.freest else l.engine
        match c.freeSlots e with
        | [] => s
        | i :: _ =>
          let g1 := ((s.comp? l.comp).bind fun k => (k.mapOf l.epoch).map (·.g1)).getD false
          s.setCore slice { c with launches := rest, drills := insert c.drills (8 * e + i) (l.drill g1) })

/-! ## Fault records (R136) -/

/-- FAULT_RECORD_WRITE: the oldest record that waits enters the die's queue of 256 once there is room. -/
def execFaultRecordWrite (die : Nat) (s : State) : Host.Outcome State Fault Refusal :=
  .next (s.modDie die fun y =>
    match y.faultWait with
    | r :: rest => if y.faults.length < 256 then { y with faults := y.faults ++ [r], faultWait := rest } else y
    | [] => y)

/-- The record is the one that the drill's parking wrote (Table 04-5 words 0-5 and the slice). -/
def FaultRec.isFor (r : FaultRec) (d : DrillRef) (x : Drill) (t : TrapRec) : Bool :=
  decide (r.slice = d.slice) && decide (r.w.take 6 = (faultWords d x t 0).take 6)

/-- The record's drill, in its slot or saved with its core's context, is still parked by it. A record whose context is gone stays in the queue and
is not acted on (R140, R141). -/
def State.recordLive (s : State) (r : FaultRec) : Bool :=
  let d : DrillRef := { slice := r.slice, engine := bits (r.w.getD 1 0) 57 56, slot := bits (r.w.getD 1 0) 55 53 }
  (s.drillsOf d).any fun x => match x.status with
    | .parked t => r.isFor d x t
    | _ => false

/-- The reeve takes up the record of drill `d`: it passes over the dead records before it, delivers the record with its event to the
composition, and removes it (R136, Table 04-4). None while the record is not in the queue. -/
def State.takeRecord (s : State) (d : DrillRef) (x : Drill) (t : TrapRec) : Option State :=
  let k := dieOf d.slice
  let fs := (s.die k).faults
  match fs.find? fun r => r.isFor d x t with
  | none => none
  | some r =>
    let before := (fs.takeWhile fun q => decide (q ≠ r)).filter fun q => s.recordLive q
    let after := (fs.dropWhile fun q => decide (q ≠ r)).drop 1
    let s := s.modDie k fun y => { y with faults := before ++ after }
    some (s.reportComps (mkCode t.trap.base d.slice) [x.comp] none (some r.w))

/-! ## Outcomes (R137-R139) -/

/-- What ends a parking. -/
inductive Outcome where
  | replay | skip | kill | hold
  deriving DecidableEq, Repr

/-- The page a poisoned-data trap is about: the faulting address, or the instruction's for a poisoned word (R164). -/
def State.poisonPage (s : State) (x : Drill) (t : TrapRec) : Option Xlat :=
  match s.panelField x.comp t.detail with
  | .here => s.translate x.comp x.epoch (bits t.detail 47 0)
  | _ => none

/-- The page number of a device physical address. -/
def pageOf (dpa : Nat) : Nat := dpa / 4096

/-- A refetch of the page is under way (R486). -/
def State.refetching (s : State) (page : Nat) : Bool := (find? (s.die (dieOfDpa (4096 * page))).refetch page).isSome

/-- A 4 KiB page of a read-only region whose MAP set GOLDEN or REPLICA (R485). -/
def Xlat.refetchable (y : Xlat) : Bool := y.ro && (decide (y.region.golden ≠ 0) || decide (y.region.replica ≠ 0))

/-- The default outcome of Table 04-4; once no unlock is in force a breakpoint's is that of an illegal instruction (R533, DEDUCED). A poisoned-data trap on refetchable weights holds until the refetch ends: then replay if the
sector is sound, kill if the refetch failed (R139, R489). -/
def State.defaultOutcome (s : State) (x : Drill) (t : TrapRec) : Outcome :=
  match t.trap with
  | .report => .skip
  | .breakpoint => if s.debugScope 0 then .hold else .kill
  | .poisoned =>
    match s.poisonPage x t with
    | some y =>
      if !y.refetchable then .kill
      else if (s.die (dieOfDpa y.dpa)).part = .outOfService then .kill
      else if s.refetching (pageOf y.dpa) ∨ !s.servable y then .hold
      else if s.sectorPoisoned (y.dpa / 256) then .kill
      else .replay
    | none => .kill
  | _ => .kill

/-- The reeve may end the parking in this way: the default outcome, or any under signed debug unlock of drills (R137, Table 19-5). -/
def State.outcomeOk (s : State) (x : Drill) (t : TrapRec) (o : Outcome) : Bool :=
  s.debugScope 0 || decide (s.defaultOutcome x t = o)

/-- A debugger's changes to a parked drill: registers that it has, and its live threads brought to one path (R137, R138). -/
def Drill.edited (x : Drill) (e : DrillEdit) : Drill :=
  let x := e.g.foldl (fun (x : Drill) r => if r.1 < 64 ∧ r.2.1 < x.nregs then x.setG r.1 r.2.1 r.2.2 else x) x
  let x := e.p.foldl (fun (x : Drill) r => if r.1 < 8 then x.setP r.1 (BitVec.allOnes 64) r.2 else x) x
  let x := e.u.foldl (fun (x : Drill) r => if r.1 < 32 then x.setU r.1 r.2 else x) x
  match e.onePath with
  | some pc => if x.live = 0 then x else { x with cur := some { mask := x.live, pc := pc, wait := .runnable, since := x.stamp }, paths := [] }
  | none => x

/-- End the parking of `d` by outcome `o`, if it may be, after a debugger's changes, which only signed debug unlock of drills allows. -/
def State.endParking (s : State) (d : DrillRef) (edit : Option DrillEdit) (o : Outcome) (f : State → Drill → TrapRec → State) : State :=
  match s.drill? d with
  | none => s
  | some x =>
    match x.status with
    | .parked t =>
      if !s.inService ∨ !s.outcomeOk x t o ∨ (edit.isSome ∧ !s.debugScope 0) then s
      else
        match s.takeRecord d x t with
        | none => s
        | some s =>
          let y := (edit.map x.edited).getD x
          f (s.setDrill d y) y t
    | _ => s

/-- The drill returns to issue: lock-waiting paths become runnable, the others resume waiting (R125, Table 04-6). -/
def State.returnToIssue (s : State) (d : DrillRef) (x : Drill) : State :=
  let y := { x with status := .active }.unlock fun _ => true
  (s.setDrill d y).modCore d.slice fun c => c.releaseWaits

/-- An access of composition `c`'s pass read a poisoned sector of a refetchable page: the pass carries the POISON flag (R488). -/
def State.flagPoison (s : State) (c : Nat) : State :=
  s.modServe c fun v => if v.st.running then { v with poison := true } else v

/-- Replay: the running path re-executes the trapping instruction with its whole PATHMASK. -/
def State.replayDrill (s : State) (d : DrillRef) (x : Drill) (t : TrapRec) : State :=
  (if t.trap = .poisoned then s.flagPoison x.comp else s).returnToIssue d x

/-- Skip: the drill goes on after the trapping instruction; a drill parked while it drained goes on draining. -/
def State.skipDrill (s : State) (d : DrillRef) (x : Drill) (t : TrapRec) : State :=
  match x.cur with
  | some _ => s.returnToIssue d { x with status := .active }.retire
  | none => (s.setDrill d { x with status := .draining t.pc t.pathMask t.instr }).drainDrill d

/-- The drill's live threads end, and its slot is freed once its array instructions are complete. It takes no further trap: its drain has
no mask. -/
def State.endThreads (s : State) (d : DrillRef) (x : Drill) : State :=
  let y := { x with status := .draining 0 0 0, cur := none, paths := [], failed := [], mem := none }
  ((s.setDrill d y).abandonLoads d x.context).drainDrill d

/-- The pass fails for a trap: by poison at an address of this panel, under R484. -/
def State.failTrap (s : State) (x : Drill) (t : TrapRec) : State :=
  if t.trap = .poisoned ∧ (s.poisonPage x t).isSome then s.failPoison x.comp (bits t.detail 47 0) else s.failPass x.comp

/-- Kill: the threads end and the pass fails. -/
def State.killDrill (s : State) (d : DrillRef) (x : Drill) (t : TrapRec) : State := (s.endThreads d x).failTrap x t

/-- PARK_REPLAY (R137): not available for deferred traps. -/
def execParkReplay (d : DrillRef) (edit : Option DrillEdit) (s : State) : Host.Outcome State Fault Refusal :=
  .next (s.endParking d edit .replay fun t x r => if r.trap.deferred then s else t.replayDrill d x r)

/-- PARK_SKIP (R137). -/
def execParkSkip (d : DrillRef) (edit : Option DrillEdit) (s : State) : Host.Outcome State Fault Refusal :=
  .next (s.endParking d edit .skip fun t x r => t.skipDrill d x r)

/-- PARK_KILL (R137). -/
def execParkKill (d : DrillRef) (edit : Option DrillEdit) (s : State) : Host.Outcome State Fault Refusal :=
  .next (s.endParking d edit .kill fun t x r => t.killDrill d x r)

/-- DRILL_DRAIN_COMPLETE: a drained drill frees its slot, or takes the trap of a failed array instruction at its EXIT (R95, R121). -/
def execDrillDrainComplete (d : DrillRef) (s : State) : Host.Outcome State Fault Refusal := .next (s.drainDrill d)

end Sys2Proof.Machine
end

