-- ==== Sys2Proof/Machine/Array.lean ====
section
/-! DEFINITION. The furrow array at work: shadow loads, swaps and streaming, completion with its checks, the canary recompute (R58-R68, R79-R101). -/

namespace Sys2Proof.Machine

open Sys2Proof

/-! ## Loading a tile into the shadow set (R79) -/

def ArrayInstr.d (a : ArrayInstr) : ArrayDesc := arrayDesc a.desc

/-- CHK_ACTION and CHK_Q of the instruction's safeguard word (Table 02-7). -/
def ArrayInstr.chkAction (a : ArrayInstr) : Nat := bits a.safeguard 27 26
def ArrayInstr.chkQ (a : ArrayInstr) : Nat := bits a.safeguard 25 21

/-- All vectors of the instruction. -/
def ArrayInstr.vectors (a : ArrayInstr) : List Nat := upto a.d.nb

/-- The bytes of granules, and whether one is poisoned. -/
def Core.granuleBytes (c : Core) (g n : Nat) : List Byte × Bool := (readBytes c.seedbed (32 * g) (32 * n), c.sbPoisoned (32 * g) (32 * n))

/-- Load tile `t` of an instruction: weights, scales and outlier table are read and decoded; the last tile's load releases the weight
extents (R63, R79, R100). -/
def Core.loadTile (c : Core) (a : ArrayInstr) (t : Nat) : WeightSet × ArrayInstr :=
  let d := a.d
  let (w, p1) := c.granuleBytes (d.waddr + t * d.wGran) d.wGran
  let (sc, p2) := if fmtScaled d.wfmt then c.granuleBytes (d.wsaddr + t * d.wsGran) d.wsGran else ([], false)
  let (ol, p3) := if d.outl then c.granuleBytes (d.oladdr + t * d.olGran) d.olGran else ([], false)
  let ws : WeightSet := { token := a.token, tile := t, w := w, sc := sc, ol := ol }
  let tile := tileOf d.kr d.nc d.wfmt ws
  (ws, { a with
    poisonMet := a.poisonMet || p1 || p2 || p3,
    nan := a.nan + tile.nanBlocks,
    nanVec := if tile.hasNan then a.vectors else a.nanVec,
    freedW := decide (t + 1 = d.kt) && !a.canary })

/-- The outlier tables that the descriptor check reads: well-formed, and whether one is poisoned (R56). -/
def Core.outliersOk (c : Core) (d : ArrayDesc) : Bool × Bool :=
  if d.outl then
    let hs := (upto d.kt).map fun t => c.granuleBytes (d.oladdr + t * d.olGran) 1
    (hs.all (fun h => outlierOk d.nc h.1), hs.any (·.2))
  else (true, false)

/-- Replace an instruction of the queue. -/
def Core.putInstr (c : Core) (a : ArrayInstr) : Core := { c with queue := c.queue.map fun b => if b.token = a.token then a else b }

/-! ## Completion (R93, R95) -/

/-- The drill that issued the instruction lives and can take its trap: it is neither gone nor killed. -/
def State.takesFailure (s : State) (a : ArrayInstr) : Bool :=
  match s.drill? a.drill with
  | none => false
  | some x => decide (x.context = a.context) && (match x.status with
    | .draining _ 0 _ => false
    | _ => true)

/-- A failed instruction's status goes to its drill, whose trap brings the code to the composition; of a drill that no longer takes it the
composition receives the code alone (R95). A checksum failure's code came with the check (R62). -/
def State.noteFailure (s : State) (a : ArrayInstr) (status : Nat) : State :=
  if s.takesFailure a then s.modDrill a.drill fun x => { x with failed := x.failed ++ [(a.token, status)] }
  else if status = 1 then s.reportComps (mkCode 0x30400060 a.drill.slice) [a.comp]
  else if status = 4 then s.reportComps (mkCode 0x30400061 a.drill.slice) [a.comp]
  else s

/-- The head instruction leaves the queue: its extents are released, its token completes and waiting paths go on. -/
def State.endArray (s : State) (slice : Nat) (a : ArrayInstr) (status : Nat) : State :=
  let s := s.modCore slice fun c => { c with queue := c.queue.filter fun b => decide (b.token ≠ a.token), arrayDone := a.token }
  let s := if status = 0 ∨ status = 3 then s else s.noteFailure a status
  s.modCore slice fun c => c.releaseWaits

/-- Outputs that the spec leaves unspecified (Table 03-7): free bytes, poisoned or not as a free value says. -/
def State.freeOutputs (s : State) (slice : Nat) (a : ArrayInstr) : State :=
  let d := a.d
  let n := d.nc * fmtBits d.ofmt / 8
  a.vectors.foldl (fun (s : State) b =>
    let (k, s) := s.takeFresh (n + d.nc / 32 + 1)
    let bad := decide (Config.freeNat (k + n + d.nc / 32) % 2 = 1)
    s.modCore slice fun c =>
      let c := c.sbWrite (32 * (d.oaddr + b * d.ostride)) (freeBytes k n) bad
      if fmtScaled d.ofmt then c.sbWrite (32 * (d.osaddr + b * d.osGran)) (freeBytes (k + n) (d.nc / 32)) bad else c) s

/-- AC cycles of an instruction on an idle array, with checksums or without (R79, R81, R103, R104). -/
def ArrayDesc.cycles (d : ArrayDesc) (check : Bool) : Nat :=
  let p := if 4 ≤ d.wfmt ∧ d.wfmt ≤ 7 then d.kr / 2 else if d.wfmt ≤ 3 then d.kr else if d.wfmt ≤ 0x10 then 2 * d.kr else 4 * d.kr
  let l := p + 4 * b2n (fmtScaled d.wfmt) + 8 * b2n check
  let f := 8 / 2 ^ d.shape + 4 + 2 * b2n d.quantizes
  let act := d.kr * fmtBits d.afmt / 8 + (if fmtScaled d.afmt then d.kr / 32 else 0)
  let v := max (if d.wfmt ≤ 3 ∧ wideFmt d.streamFmt then 2 else 1) (ceilDiv act 512)
  let w := ceilDiv (d.nc * fmtBits d.ofmt / 8 + (if fmtScaled d.ofmt then d.nc / 32 else 0)) 512
  let i := if d.acc then ceilDiv (d.nb * d.nc * (fmtBits d.ofmt / 8)) 512 else 0
  3 + max l i + (d.kt - 1) * max l (d.nb * v + f) + f + d.nb * max v w + 4 + 4 * b2n d.outl

def ArrayInstr.cycles (a : ArrayInstr) : Nat := a.d.cycles (decide (a.chkAction ≠ 0))

/-- AC cycles of the recompute: MXFP8 E4M3 weights in tiles of at most the rows that Table 03-2 allows 8-bit weights (R97). -/
def ArrayInstr.canaryCycles (a : ArrayInstr) : Nat :=
  let d := { a.d with wfmt := 0x0D }
  let kr := min a.d.kr d.maxRows
  ({ d with kr := kr, kt := ceilDiv a.d.k kr } : ArrayDesc).cycles (decide (a.chkAction ≠ 0))

/-! ## ARRAY_INSTR_START (R84, R87, R90, R101, R105) -/

/-- The instruction that may start: the head, or the next one once the head streams its last tile. -/
def Core.startable (c : Core) : Option ArrayInstr :=
  match c.queue with
  | a :: rest =>
    if a.phase = .queued then some a
    else
      match rest with
      | b :: _ => if a.phase = .streaming (a.d.kt - 1) ∧ b.phase = .queued then some b else none
      | [] => none
  | [] => none

/-- A chosen instruction waits for its recompute, and the queued ones wait behind it (R97). -/
def Core.canaryDue (c : Core) : Bool := c.canaries.any (·.held)

/-- ARRAY_INSTR_START: check the descriptor and begin the first shadow load. A poisoned or invalid descriptor completes with status 4 or
1 in its turn; an overlap with earlier work or a canary holds the start. -/
def execArrayInstrStart (slice : Nat) (s : State) : Host.Outcome State Fault Refusal :=
  .next (
    let c := s.core slice
    match c.startable with
    | none => s
    | some a =>
      let head := decide ((c.queue.head?.map (·.token)) = some a.token)
      let (olOk, olBad) := c.outliersOk a.d
      if !s.coreIssues slice ∨ c.canaryDue ∨ s.revokedCtx a.context then s
      else if a.descPoisoned then (if head then s.endArray slice a 4 else s)
      else if !a.d.valid then (if head then s.endArray slice a 1 else s)
      else if (c.queue.any fun b => decide (b.seq < a.seq) && anyOverlap a.reads b.writes) ∨
          (c.xfers.any fun x => decide (x.seq < a.seq) && (anyOverlap (a.reads ++ a.writes) x.writes || anyOverlap a.writes x.reads)) then s
      else if !olOk ∧ !olBad then (if head then s.endArray slice a 1 else s)
      else
        let (ws, a) := c.loadTile a 0
        s.setCore slice (({ c with shadow := some ws } : Core).putInstr { a with phase := .loading 0 }))

/-! ## ARRAY_TILE_SWAP (R80) -/

/-- Summing paths per column (Table 03-1). -/
def ArrayDesc.paths (d : ArrayDesc) : Nat := 2 ^ d.shape

/-- Place of a checksum result of vector `b`: slots 0-3 hold the paths' Y0 and Y1, slots 4-7 sums over initial values kept apart from them. -/
def ySlot (b slot : Nat) : Nat := 8 * b + slot

/-- The checksums take the initial values of vector `b`: their sums, formed per path, start the path's cells or join at the drain, which the
spec leaves open (R59, R82). -/
def ArrayInstr.initSums (a : ArrayInstr) (key b : Nat) (zs : List Word) : ArrayInstr :=
  let vs := zs.mapIdx fun j z => (j, f32 z)
  let a := { a with nanVec := if vs.any fun e => e.2.isNan then addOnce b a.nanVec else a.nanVec }
  if a.chkAction = 0 then a
  else
    (upto a.d.paths).foldl (fun (a : ArrayInstr) p =>
      let k := key + 2 ^ 38 + ySlot b p
      let y := sumPair k (vs.filter fun e => decide (e.1 / 512 = p))
      let i := ySlot b (p + 4 * (Config.extraBits (k + 2 ^ 12) % 2))
      { a with y0 := setD 0 a.y0 i y.1, y1 := setD 0 a.y1 i y.2 }) a

/-- Read the initial values under ACC, and give them to the checksums (R59, R88). -/
def Core.readInit (c : Core) (a : ArrayInstr) (key : Nat) : ArrayInstr :=
  let d := a.d
  if !d.acc then a
  else
    let a := a.vectors.foldl (fun (a : ArrayInstr) b =>
      let zs := initVector d c.seedbed b
      let put (m : SMap Word) : SMap Word := (zs.mapIdx fun j z => (j, z)).foldl (fun m e => setD 0 m (2048 * b + e.1) e.2) m
      ({ a with acc := put a.acc, init := put a.init } : ArrayInstr).initSums key b zs) a
    let bad := a.vectors.any fun b => c.sbPoisoned (32 * (d.oaddr + b * d.ostride)) (d.nc * fmtBits d.ofmt / 8)
    { a with poisonMet := a.poisonMet || bad, freedI := !a.canary }

/-- One vector streams past a tile: `acts` are its blocks, `cells` each path's checksum cells. -/
def ArrayInstr.streamVector (a : ArrayInstr) (key b : Nat) (exact : Bool) (tile : Tile) (cells : List (Nat × List (Word × Word)))
    (acts : List (QBlock × List FVal)) : ArrayInstr :=
  let acc := (upto a.d.nc).foldl (fun (m : SMap Word) j =>
    setD 0 m (2048 * b + j) (columnSum exact (key + 2 ^ 31 + 2048 * b + j) tile acts j (getD 0 m (2048 * b + j)))) a.acc
  let ys := cells.map fun e =>
    let i := ySlot b e.1
    (i, checkSums (key + 2 ^ 34 + i) e.2 acts (getD 0 a.y0 i, getD 0 a.y1 i))
  let nan := acts.any fun e => decide (e.1.scale = 0xFF) || e.2.any FVal.isNan
  { a with acc := acc, y0 := ys.foldl (fun m e => setD 0 m e.1 e.2.1) a.y0, y1 := ys.foldl (fun m e => setD 0 m e.1 e.2.2) a.y1,
           nanVec := if nan then addOnce b a.nanVec else a.nanVec,
           sat := a.sat + (acts.map (·.1.sat)).sum, ufl := a.ufl + (acts.map (·.1.ufl)).sum, nan := a.nan + (acts.map (·.1.nan)).sum }

/-- The checksum cells of a tile, by summing path (R58, R82); none when CHK_ACTION is off. -/
def ArrayInstr.cells (a : ArrayInstr) (key : Nat) (tile : Tile) : List (Nat × List (Word × Word)) :=
  if a.chkAction = 0 then []
  else (upto a.d.paths).map fun p => (p, (upto a.d.kr).map fun k => checkCell (key + 2 ^ 32 + 512 * p + k) tile p k)

/-- Blocks of the reduction that tile `t` holds. -/
def ArrayDesc.blocks (d : ArrayDesc) (t : Nat) : List Nat := (upto (d.kr / 32)).map fun g => t * (d.kr / 32) + g

/-- Stream every vector past tile `t`, whose weights are active. `key` numbers the sums whose order is free. -/
def Core.streamTile (c : Core) (a : ArrayInstr) (t : Nat) (ws : WeightSet) (key : Nat) : ArrayInstr :=
  let d := a.d
  let tile := tileOf d.kr d.nc d.wfmt ws
  let cells := a.cells key tile
  let bytes := d.kr * fmtBits d.afmt / 8
  let a := a.vectors.foldl (fun (a : ArrayInstr) b =>
    let acts := (d.blocks t).map fun g => actBlock d d.qfmt d.quantizes c.seedbed b g
    let bad := c.sbPoisoned (32 * (d.aaddr + b * d.astride) + t * bytes) bytes ||
      (fmtScaled d.afmt && c.sbPoisoned (32 * (d.asaddr + b * d.asGran) + t * (d.kr / 32)) (d.kr / 32))
    ({ a with poisonMet := a.poisonMet || bad } : ArrayInstr).streamVector key b (narrowPair d.wfmt d.streamFmt) tile cells acts) a
  { a with freedA := decide (t + 1 = d.kt) && !a.canary }

/-- The tile whose swap is due: the first of a loaded head, or the next of a streaming one. -/
def ArrayInstr.nextTile (a : ArrayInstr) : Option Nat :=
  match a.phase with
  | .queued => none
  | .loading t => some t
  | .streaming t => if t + 1 < a.d.kt then some (t + 1) else none

/-- ARRAY_TILE_SWAP: the shadow set becomes active, its tile streams, and the next tile of the instruction starts to load. -/
def execArrayTileSwap (slice : Nat) (s : State) : Host.Outcome State Fault Refusal :=
  .next (
    let c := s.core slice
    if !s.inService ∨ !s.dieUp (dieOf slice) ∨ c.canaryDue then s
    else
      match c.queue with
      | [] => s
      | a :: _ =>
        match a.nextTile, c.shadow with
        | some t, some ws =>
          if ws.token ≠ a.token ∨ ws.tile ≠ t then s
          else
            let key := 2 ^ 40 * s.fresh
            let a := if t = 0 then c.readInit a key else a
            let a := c.streamTile a t ws key
            let s := { s with fresh := s.fresh + 1 }
            let (sh, a) := if t + 1 < a.d.kt then
                let (w, a) := c.loadTile a (t + 1)
                (some w, a)
              else (none, a)
            s.setCore slice (({ c with active := some ws, shadow := sh } : Core).putInstr { a with phase := .streaming t })
        | _, _ => s)

/-! ## ARRAY_INSTR_COMPLETE (R59-R63, R95, R97, R100) -/

/-- The accumulator entries of vector `b`. -/
def outputsOf (a : ArrayInstr) (b : Nat) : List Word := (upto a.d.nc).map fun j => getD 0 a.acc (2048 * b + j)

/-- The checks of every vector, Y0 and Y1 joined from the paths' results (R82): the suspected columns of the failures in order, and how
many were skipped. -/
def ArrayInstr.checks (a : ArrayInstr) (key : Nat) : List Nat × Nat :=
  if a.chkAction = 0 then ([], 0)
  else
    let live := a.vectors.filter fun b => !a.nanVec.contains b
    let y (m : SMap Word) (b k : Nat) : Word := sum32 k ((upto 8).filterMap fun i => (find? m (ySlot b i)).map f32)
    (live.filterMap fun b => checkVector (key + 2 ^ 28 + b) a.chkQ a.d.nc (outputsOf a b) (y a.y0 b (key + 2 * b), y a.y1 b (key + 2 * b + 1)),
      a.vectors.length - live.length)

/-- Act on check failures (R61, R62): counted; under flag and trap also flagged and reported, with the code of Table 02-8 for the action. -/
def State.checkActions (s : State) (slice : Nat) (a : ArrayInstr) (fails : List Nat) : State :=
  let d := dieOf slice
  let i := slice % 8
  fails.foldl (fun (s : State) j =>
    let s := (s.count .rlyArrChk d i 1).setReg .rlyArrLastchk d i j
    if a.chkAction < 2 then s
    else
      let s := s.modServe a.comp fun v => if v.st.running then { v with chk := true } else v
      s.reportComps (mkCode (if a.chkAction = 3 then 0x30300041 else 0x10300040) slice) [a.comp]) s

/-- Write the drained outputs and add the drain's events. -/
def State.drainOutputs (s : State) (slice : Nat) (a : ArrayInstr) : State × ArrayInstr :=
  let d := a.d
  a.vectors.foldl (fun (r : State × ArrayInstr) b =>
    let (bs, sc, sat, ufl, nan) := drainVector d.ofmt (outputsOf a b)
    (r.1.modCore slice fun c =>
      let c := c.sbWrite (32 * (d.oaddr + b * d.ostride)) bs false
      if sc.isEmpty then c else c.sbWrite (32 * (d.osaddr + b * d.osGran)) sc false,
     { r.2 with sat := r.2.sat + sat, ufl := r.2.ufl + ufl, nan := r.2.nan + nan })) (s, a)

/-- Count an instruction's events in the core's counters (R63). -/
def State.countEvents (s : State) (slice : Nat) (a : ArrayInstr) (skipped : Nat) : State :=
  let d := dieOf slice
  let i := slice % 8
  (((s.count .rlyArrSat d i a.sat).count .rlyArrUfl d i a.ufl).count .rlyArrNan d i a.nan).count .rlyArrChkskip d i skipped

/-- ARRAY_INSTR_COMPLETE: the drain writes the outputs, the checks act, the extents are released and the token completes. -/
def execArrayInstrComplete (slice : Nat) (s : State) : Host.Outcome State Fault Refusal :=
  .next (
    let c := s.core slice
    if !s.inService ∨ !s.dieUp (dieOf slice) then s
    else
      match c.queue with
      | [] => s
      | a :: _ =>
        if a.phase ≠ .streaming (a.d.kt - 1) then s
        else
          let s := s.meter slice 1 a.cycles
          if a.poisonMet then ((s.freeOutputs slice a).countEvents slice a 0).endArray slice a 4
          else
            let (fails, skipped) := a.checks (2 ^ 40 * s.fresh)
            let s := { s with fresh := s.fresh + 1 }
            let ops := c.seedbed.filter fun e => a.reads.any fun sp => decide (sp.lo ≤ e.1) && decide ((e.1 : Int) < sp.hi)
            let (s, a) := s.drainOutputs slice a
            let s := s.countEvents slice a skipped
            let trap := decide (a.chkAction = 3)
            let s := s.checkActions slice a fails
            let s := if s.canaryPass a.comp then
                s.modCore slice fun c => { c with canaries := c.canaries ++ [{ instr := a, ops := ops, held := a.canary }] }
              else s
            s.endArray slice a (if trap ∧ !fails.isEmpty then 2 else 0))

/-! ## CANARY_RECOMPUTE (R65-R68, R97) -/

/-- Tile `t` of the recompute: the FP8 reference copy if the descriptor names one, else the instruction's own weights. -/
def canaryTile (a : ArrayInstr) (m : Memory) (t : Nat) : Tile :=
  let d := a.d
  let ol := if d.outl then readBytes m (32 * (d.oladdr + t * d.olGran)) (32 * d.olGran) else []
  if d.ref then
    let base := 32 * (d.raddr + t * d.rGran)
    let w := readBytes m base (d.kr * d.nc)
    let sc := readBytes m (base + 32 * ceilDiv (d.kr * d.nc) 32) (d.kr / 32 * d.nc)
    tileOf d.kr d.nc 0x0D { token := a.token, tile := t, w := w, sc := sc, ol := ol }
  else
    let w := readBytes m (32 * (d.waddr + t * d.wGran)) (32 * d.wGran)
    let sc := if fmtScaled d.wfmt then readBytes m (32 * (d.wsaddr + t * d.wsGran)) (32 * d.wsGran) else []
    tileOf d.kr d.nc d.wfmt { token := a.token, tile := t, w := w, sc := sc, ol := ol }

/-- The recompute: activations from the source quantized to MXFP8 E4M3, else as streamed; FP8 sums; checks as for any tile. -/
def canaryRun (a : ArrayInstr) (m : Memory) (key : Nat) : ArrayInstr :=
  let d := a.d
  let source := decide (d.afmt = 0x11 ∨ d.afmt = 0x12)
  let init : ArrayInstr := { a with acc := a.init, y0 := [], y1 := [], nanVec := [], sat := 0, ufl := 0, nan := 0 }
  let init := if d.acc then a.vectors.foldl (fun (r : ArrayInstr) b =>
      r.initSums key b ((upto d.nc).map fun j => getD 0 a.init (2048 * b + j))) init
    else init
  (upto d.kt).foldl (fun (r : ArrayInstr) t =>
    let tile := canaryTile a m t
    let key := key + 2 ^ 40 * t
    let cells := r.cells key tile
    let r := { r with nan := r.nan + tile.nanBlocks, nanVec := if tile.hasNan then a.vectors else r.nanVec }
    a.vectors.foldl (fun (r : ArrayInstr) b =>
      r.streamVector key b false tile cells ((d.blocks t).map fun g => actBlock d 0x0D source m b g)) r) init

/-- A finite value as signed mantissa and exponent; none otherwise. -/
def dyadic : FVal → Option (Int × Int)
  | .fin neg m e => some (smant neg m, e)
  | _ => none

/-- The quotient of two positive dyadics with 80 bits and a sticky lowest bit, as mantissa and exponent. -/
def quotDy (a : Nat) (e : Int) (b : Nat) (f : Int) : Nat × Int :=
  let sh := 80 + Nat.log2 b
  let n := a <<< sh
  (2 * (n / b) + (if n % b = 0 then 0 else 1), e - f - sh - 1)

/-- Measures a / b of nonnegative values, or its square root: 0 over an Inf, Inf of an Inf or over 0, NaN where IEEE 754 gives no value. -/
def canaryRatio (a b : FVal) (root : Bool) : Word :=
  match a, b with
  | .fin _ m e, .fin _ n f =>
    if m = 0 then (if n = 0 then nan32 else 0)
    else if n = 0 then 0x7F800000
    else
      let (q, x) := quotDy m e n f
      if root then
        let (q, x) := sqrtDy q x
        toF32 (.fin false q x)
      else toF32 (.fin false q x)
  | .inf _, .fin _ _ _ => 0x7F800000
  | .fin _ _ _, .inf _ => 0
  | _, _ => nan32

/-- εmax and ε2 of pairs (y, r) (R68): exact values rounded once. Both are 0 when every y and r is 0, and +Inf when only every r is. -/
def canaryMeasures (ps : List (FVal × FVal)) : Word × Word :=
  let zero (v : FVal) : Bool := decide (v.cmp (ofInt 0 0) = some .eq)
  if ps.all fun p => zero p.2 then
    let w : Word := if ps.all fun p => zero p.1 then 0 else 0x7F800000
    (w, w)
  else
    let diffs := ps.map fun p => (p.1.add p.2.neg).abs
    let big (vs : List FVal) : FVal :=
      if vs.any FVal.isNan then .nan else vs.foldl (fun (a : FVal) v => if a.cmp v = some .lt then v else a) (ofInt 0 0)
    let sq (vs : List FVal) : FVal := exactSum (vs.map fun v => v.mul v)
    let ratio := canaryRatio
    let rs := ps.map fun p => p.2.abs
    (ratio (big diffs) (big rs) false, ratio (sq diffs) (sq rs) true)

/-- The canary report of a pass, and the divergence code when ε2 exceeds 2^-CANARY_Q (R68, Table 13-9). -/
def State.canaryReport (s : State) (c slice index : Nat) (e : Word × Word) : State :=
  match s.comp? c with
  | none => s
  | some x =>
    let d : Due := { f := x.fn, cq := x.eventCq, kind := 2, code := 0, id := 0, w2lo := 0, w3 := 0, record := none,
                     raw := some (BitVec.ofNat 64 (x.serve.pass % 2 ^ 32 * 2 ^ 32 + slice % 256 * 2 ^ 24 + index % 2 ^ 24), e.1 ++ e.2), comp := some c }
    let s := State.deliver 4 s [d]
    let s := s.modServe c fun v => { v with canaryDone := true }
    let q := bits x.cur.safeguard 20 16
    if (f32 e.2).cmp ((ofInt 1 0).scale (-(q : Int))) = some .gt then s.reportComps (mkCode 0x10300042 slice) [c] else s

/-- The chosen instruction of a canary pass is complete and waits for its recompute. -/
def State.canaryPending (s : State) (c : Nat) (x : Comp) : Bool :=
  s.canaryPass c && !x.serve.canaryDone && ((s.canaryPlace x).any fun p => (s.core p.1).canaries.any fun k => decide (k.instr.index = p.2)) ||
    x.cur.slices.any fun k => (s.core k).canaries.any fun w => w.held && decide (w.instr.comp = c)

/-- The completed instruction that the array recomputes now: the chosen one, directly after its completion; or, once the pass's stages are over
and none was recomputed, the one that the counts then choose. -/
def State.canaryWork (s : State) (slice : Nat) : Option CanaryWork :=
  let ks := (s.core slice).canaries
  match ks.find? (·.held) with
  | some k => some k
  | none => ks.find? fun k => (s.comp? k.instr.comp).any fun x =>
      decide (x.serve.st = .emit) && s.canaryPass k.instr.comp && !x.serve.canaryDone && decide (s.canaryPlace x = some (slice, k.instr.index))

/-- CANARY_RECOMPUTE: the chosen instruction of a canary pass is recomputed in FP8, compared and reported, and its read extents are released
(R65-R68, R97, R100). -/
def execCanaryRecompute (slice : Nat) (s : State) : Host.Outcome State Fault Refusal :=
  .next (
    if !s.inService ∨ !s.dieUp (dieOf slice) then s
    else
      match s.canaryWork slice with
      | none => s
      | some k =>
        let a := k.instr
        let r := canaryRun a k.ops (2 ^ 40 * s.fresh)
        let (fails, skipped) := r.checks (2 ^ 40 * (s.fresh + a.d.kt))
        let s := { s with fresh := s.fresh + a.d.kt + 1 }
        let s := (s.countEvents slice r skipped).checkActions slice r fails
        let s := s.modCore slice fun z => { z with canaries := z.canaries.map fun w => { w with held := false } }
        let s := s.meter slice 1 a.canaryCycles
        let ys := a.vectors.flatMap fun b => ((outputsOf a b).zip (outputsOf r b)).map fun e => (f32 e.1, f32 e.2)
        if s.canaryPass a.comp && (s.comp? a.comp).all (fun x : Comp => !x.serve.canaryDone) then s.canaryReport a.comp slice a.index (canaryMeasures ys)
        else s)

end Sys2Proof.Machine
end

