-- ==== Sys2Proof/Machine/Coherence.lean ====
section
/-! DEFINITION. The coherence protocol's messages at the home and at the caches (Tables 09-3, 09-4), fills with their ECC outcome (R298), refetch starts (R486), the directory sweep (R274), the thrash window (R245). -/

namespace Sys2Proof.Machine

open Sys2Proof

/-- A message concerns a sector that exists, else the machine faults (R9); it arrives where the panel and die `d` are in service. -/
def State.atSector (s : State) (n d : Nat) (body : State) : Host.Outcome State Fault Refusal :=
  if dramBytes / 256 ≤ n then .fault .absentSector
  else if s.inService && s.dieUp d then .next body
  else .next s

/-! ## The home side (Table 09-4) -/

/-- GETS: read permission. -/
def execGetS (n x hint : Nat) (s : State) : Host.Outcome State Fault Refusal :=
  s.atSector n (homeOf n) (s.request n (.getS x hint) fun s => s.arrived n x fun m => decide (m = .getS hint))

/-- GETM: write permission. -/
def execGetM (n x hint : Nat) (have_ : Bool) (s : State) : Host.Outcome State Fault Refusal :=
  s.atSector n (homeOf n) (s.request n (.getM x hint have_) fun s => s.arrived n x fun m => decide (m = .getM hint have_))

/-- PUTM: absorbed from the owner; taken as X's RecallData where a Recall to X is pending; it waits while a sweep runs; else a violation (R268,
R269, R274). -/
def execPutM (n x : Nat) (v : Sector) (p : Bool) (s : State) : Host.Outcome State Fault Refusal :=
  s.atSector n (homeOf n) (
    let take (s : State) : State := s.arrived n x fun m => decide (m = .putM v p)
    if s.awaited n ≠ some x ∧ !(s.die (homeOf n)).sweep.isEmpty then s.request n (.putM x v p) take
    else
      match (take s).absorbPutM n x v p with
      | some t => t.advance n
      | none => (take s).homeViolation (homeOf n))

/-- ATOMREQ: a combined group (R272, R273). -/
def execAtomReq (n x : Nat) (g : AtomGroup) (s : State) : Host.Outcome State Fault Refusal :=
  s.atSector n (homeOf n) (s.request n (.atom x g) fun s => s.arrived n x fun m => decide (m = .atomReq g))

/-- RADDREQ: an add-to-line group (R246, R249). -/
def execRaddReq (n x : Nat) (g : AtomGroup) (s : State) : Host.Outcome State Fault Refusal :=
  s.atSector n (homeOf n) (s.request n (.radd x g) fun s => s.arrived n x fun m => decide (m = .raddReq g))

/-- INVACK: count down, and complete on the last (R270). -/
def execInvAck (n x : Nat) (s : State) : Host.Outcome State Fault Refusal :=
  s.atSector n (homeOf n) (
    let s := s.arrived n x fun m => decide (m = .invAck)
    if (find? (s.die (homeOf n)).trans n).any fun t => t.acks.contains x then
      (s.modTrans n fun t => { t with acks := removeFirst (fun k => decide (k = x)) t.acks }).advance n
    else s.homeViolation (homeOf n))

/-- RECALLDATA: the owner's data (R268). -/
def execRecallData (n x : Nat) (v : Sector) (p : Bool) (s : State) : Host.Outcome State Fault Refusal :=
  s.atSector n (homeOf n) (
    let s := s.arrived n x fun m => decide (m = .recallData v p)
    if s.awaited n = some x then ((s.takeData n v p).modTrans n fun t => { t with owner := none }).advance n
    else s.homeViolation (homeOf n))

/-! ### Refetch (R485-R488) -/

/-- The composition and refetchable region that own the page at `dpa`, and the offset in the region. -/
def State.refetchRegion (s : State) (dpa : Nat) : Option (Nat × Region × Nat) :=
  (s.yoke.comps.flatMap fun e =>
    e.2.cur.regions.filterMap fun r =>
      if r.shared ∨ !r.ro ∨ (r.golden = 0 ∧ r.replica = 0) then none
      else
        match setOffset? (e.2.cur.set r.set) dpa with
        | some x => if r.offset ≤ x ∧ x < r.offset + r.size then some (e.1, r, x - r.offset) else none
        | none => none).head?

/-- The compositions that map a region, directly or through KIND 01. -/
def State.mappers (s : State) (c : Nat) (r : Region) : List Nat :=
  (s.yoke.comps.filter fun e =>
    decide (e.1 = c) || e.2.cur.regions.any fun q =>
      q.shared && decide (q.srcComp = c) && decide (q.srcVbase < r.vbase + r.size) && decide (r.vbase < q.srcVbase + q.size)).map (·.1)

/-- The sixteen sectors of a page. -/
def pageSectors (page : Nat) : List Nat := (upto 16).map fun i => 16 * page + i

/-- Where the page's replica lies, if a region is mapped there on a partition in service. -/
def State.replicaPage (s : State) (c : Nat) (r : Region) (off : Nat) : Option Nat :=
  if r.replica = 0 then none
  else
    match s.comp? c with
    | none => none
    | some y =>
      match y.cur.region? r.replica with
      | none => none
      | some q =>
        let p := setPlace (y.cur.set q.set) (q.offset + off)
        if s.dieUp (dieOfDpa p) then some p else none

/-- The LOADs of composition `c` under way to a page of its space (R490). -/
def State.loadsTo (s : State) (c a : Nat) : List (Nat × Word) :=
  s.dies.flatMap fun e => e.2.reeveXfers.filterMap fun x =>
    let d := xferDesc x.desc
    match x.use with
    | .load _ => if x.comp = c ∧ d.daddr % 2 ^ 48 < a + 4096 ∧ a < d.daddr % 2 ^ 48 + d.len then some (e.1, x.token) else none
    | .drill _ => none

/-- A poisoned sector of a refetchable page starts a refetch of its page, unless one runs: one event to every composition that maps the
region (R486). -/
def State.startRefetch (s : State) (n : Nat) : State :=
  let page := n / 16
  let d := homeOf n
  if (find? (s.die d).refetch page).isSome then s
  else
    match s.refetchRegion (256 * n) with
    | none => s
    | some (c, r, off) =>
      let rf : Refetch := { comp := c, began := s.time.now, after := s.loadsTo c (r.vbase + off / 4096 * 4096) }
      (s.modDie d fun x => { x with refetch := insert x.refetch page rf }).reportComps (mkCode 0x11200170 d) (s.mappers c r)

/-- The composition that a home request works for. -/
def State.reqComp (s : State) : HomeReq → Option Nat
  | .read src _ _ _ => s.agentComp src
  | .write src _ _ _ _ _ _ _ => s.agentComp src
  | r => r.core?.bind fun k => s.coreComp k

/-- HOME_FILL_DONE: the controller's read or operation ends: parity retries (R295), the ECC outcome of each codeword (R298), a refetch
where it finds poison, and the transaction's completion (R268). -/
def execHomeFillDone (n : Nat) (s : State) : Host.Outcome State Fault Refusal :=
  let d := homeOf n
  s.atSector n d (
    match find? (s.die d).trans n with
    | none => s
    | some t =>
      if !t.fill ∧ !t.memOp then s
      else if s.channelBad n then (s.dramTry n).resetFaulty d
      else
        let write := match t.req with
          | .atom _ _ | .radd _ _ | .write _ _ _ _ _ _ _ _ => true
          | _ => false
        let whole := t.memOp && t.req.wholeWrite
        let s := if whole then s else (s.dramRead n).meter (t.req.payer n) 3 1
        let s := if t.memOp && write then s.meter (t.req.payer n) 4 1 else s
        let s := if !whole && s.mem.poison.contains n then
            let s := s.startRefetch n
            match s.reqComp t.req, s.refetchRegion (256 * n) with
            | some c, some _ => s.flagPoison c
            | _, _ => s
          else s
        (s.modTrans n fun t => { t with fill := false, memOp := false }).advance n)

/-! ### Non-caching agents (R257) -/

/-- The agent's transfer belongs to a revoked context (R458). -/
def State.agentRevoked (s : State) : NcAgent → Bool
  | .transfer q t => (s.xfers q).any fun x => decide (x.token.toNat = t) && s.revokedCtx x.context
  | _ => false

/-- A non-caching request: answered as target reset (status 6) by a die under reset and aborted (status 8) for a revoked context. -/
def State.ncRequest (s : State) (n : Nat) (src : NcAgent) (req : HomeReq) : Host.Outcome State Fault Refusal :=
  if dramBytes / 256 ≤ n then .fault .absentSector
  else if !s.inService then .next s
  else if !s.dieUp (homeOf n) then .next (s.out (.ncDone src n 6))
  else if s.agentRevoked src then .next (s.out (.ncDone src n 8))
  else .next (s.request n req fun s => s)

/-- NONCACHING_READ, of a SHINT and through a read-only region or not (Tables 08-1 and 09-4, R236, R237, R239). -/
def execNonCachingRead (n : Nat) (src : NcAgent) (uncached : Bool) (hint : Nat) (ro : Bool) (s : State) : Host.Outcome State Fault Refusal :=
  s.ncRequest n src (.read src uncached hint ro)

/-- NONCACHING_WRITE, add-to-line or FILL (Tables 08-1 and 09-4, R232, R246). -/
def execNonCachingWrite (n : Nat) (src : NcAgent) (kind : NcWriteKind) (uncached : Bool) (hint first len : Nat) (data : Sector) (poison : Bool)
    (s : State) : Host.Outcome State Fault Refusal :=
  s.ncRequest n src (.write src kind uncached hint first len data poison)

/-! ## The cache side (Table 09-3) -/

/-- A message arrives at cache `k`; `body` says what the line's state makes of it, `none` for a cell marked error. -/
def State.atCache (s : State) (n k : Nat) (p : CohMsg → Bool) (body : State → Option CLine → Option State) : Host.Outcome State Fault Refusal :=
  s.atSector n (dieOf k) (
    let s := s.arrived n k p
    match body s (s.line? k n) with
    | some t => t.pumpCore k
    | none => s.cacheViolation k)

/-- INV: drop the sector and acknowledge. -/
def execInv (n k : Nat) (s : State) : Host.Outcome State Fault Refusal :=
  s.atCache n k (fun m => decide (m = .inv)) fun s l =>
    let ack (s : State) : State := s.send n k .invAck
    match l with
    | none => some (ack s)
    | some l =>
      match l.st with
      | .s => some (ack (s.dropLine k n))
      | .isD => some (ack (s.setLine k n { l with st := .isDI }))
      | .isDI | .imD => some (ack s)
      | .smD => some (ack (s.setLine k n { l with st := .imD }))
      | .m | .miA => none

/-- Answer a Recall from an M line. -/
def State.answerRecall (s : State) (n k : Nat) (l : CLine) (toI : Bool) : State :=
  (if toI then s.dropLine k n else s.setLine k n { l with st := .s, deferred := none }).send n k (.recallData l.data l.poison)

/-- RECALL: answered from M, deferred while ownership is on its way, ignored behind a write-back. -/
def execRecall (n k : Nat) (toI : Bool) (s : State) : Host.Outcome State Fault Refusal :=
  s.atCache n k (fun m => decide (m = .recall toI)) fun s l =>
    match l with
    | none => none
    | some l =>
      match l.st with
      | .m => some (s.answerRecall n k l toI)
      | .imD | .smD => some (s.setLine k n { l with deferred := some toI })
      | .miA => some s
      | .s | .isD | .isDI => none

/-- A store of a revoked context is discarded when its data arrives (R458). -/
def State.keepStore (s : State) (w : WaitStore) : Bool := !s.revokedCtx w.context

/-- DATAS: the waiting loads are served. From IS_D the line enters S and its stores go on as from S; the loads that came behind them see them, as in
SM_D. From IS_D_I it is I: the loads that came after the Inv, and the stores, go on as from I (R201, R202, R204). -/
def execDataS (n k : Nat) (v : Sector) (p : Bool) (s : State) : Host.Outcome State Fault Refusal :=
  s.atCache n k (fun m => decide (m = .dataS v p)) fun s l =>
    match l with
    | none => none
    | some l =>
      let early := l.loads.filter fun w => !w.late
      let late := l.loads.filter fun w => w.late
      match l.st with
      | .isD =>
        let l' : CLine := { l with data := v, poison := p, loads := [] }
        let s := (s.serveLoads n v p early).serveLoads n (l'.performed s.keepStore) p late
        match l.stores with
        | [] => some (s.setLine k n { l' with st := .s })
        | w :: _ => some ((s.setLine k n { l' with st := .smD }).send n k (.getM w.hint true))
      | .isDI =>
        let s := s.serveLoads n v p early
        match l.stores, late with
        | [], [] => some (s.dropLine k n)
        | [], w :: _ =>
          some ((s.setLine k n { freshLine .isD with loads := late.map fun w => { w with late := false } }).send n k (.getS w.hint))
        | w :: _, _ => some ((s.setLine k n { l with st := .imD, loads := late }).send n k (.getM w.hint false))
      | _ => none

/-- Ownership arrives: the stores are performed, the line enters M, the waiting loads see it, a deferred Recall is answered. -/
def State.ownLine (s : State) (n k : Nat) (l : CLine) (v : Sector) (p : Bool) : State :=
  let ws := l.stores.filter fun w => s.keepStore w
  let data := CLine.performed { l with data := v } s.keepStore
  let whole := (upto 256).all fun i => ws.any fun w => w.bytes.any fun b => decide (b.1 = i)
  let m : CLine := { l with st := .m, data := data, poison := p && !whole, loads := [], stores := [], deferred := none }
  let s := ((s.setLine k n m).performedStores n l.stores).serveLoads n data m.poison l.loads
  let s := if ws.isEmpty then s else s.written n
  match l.deferred with
  | some toI => s.answerRecall n k m toI
  | none => s

/-- DATAM: data with ownership. -/
def execDataM (n k : Nat) (v : Sector) (p : Bool) (s : State) : Host.Outcome State Fault Refusal :=
  s.atCache n k (fun m => decide (m = .dataM v p)) fun s l =>
    match l with
    | none => none
    | some l =>
      match l.st with
      | .imD | .smD => some (s.ownLine n k l v p)
      | _ => none

/-- GRANTM: ownership without data. -/
def execGrantM (n k : Nat) (s : State) : Host.Outcome State Fault Refusal :=
  s.atCache n k (fun m => decide (m = .grantM)) fun s l =>
    match l with
    | none => none
    | some l =>
      match l.st with
      | .smD => some (s.ownLine n k l l.data l.poison)
      | _ => none

/-- WBACK: the write-back is complete. -/
def execWback (n k : Nat) (s : State) : Host.Outcome State Fault Refusal :=
  s.atCache n k (fun m => decide (m = .wbAck)) fun s l =>
    match l with
    | none => none
    | some l =>
      match l.st with
      | .miA => some (s.dropLine k n)
      | _ => none

/-- ATOMRESP: the old values reach the members' drill, or the poisoned-data trap (R133, R271). A drill that has ended discards it. -/
def execAtomResp (n k : Nat) (g : AtomGroup) (olds : List DWord) (p : Bool) (s : State) : Host.Outcome State Fault Refusal :=
  s.atCache n k (fun m => decide (m = .atomResp g olds p)) fun s _ =>
    let key := 256 * n + g.byte
    let s := s.modDrill g.drill fun x =>
      { x with mem := x.mem.map fun m =>
        if x.context ≠ g.context ∨ !m.due.contains key then m
        else
          let m := { m with due := removeFirst (fun i => decide (i = key)) m.due }
          if p then { m with bad := m.bad ++ g.members.map fun e => (e.thread, x.globalAddr m.word e.thread) }
          else { m with got := m.got ++ (g.members.zip olds).map fun e => (e.1.thread, e.2.toNat) } }
    some (s.memFinish g.drill)

/-- RADDACK: the add has been performed; on a poisoned sector it changed nothing, and its drill takes the poisoned-data trap (R133, R239, R271,
R299). -/
def execRaddAck (n k : Nat) (g : AtomGroup) (p : Bool) (s : State) : Host.Outcome State Fault Refusal :=
  s.atCache n k (fun m => decide (m = .raddAck g p)) fun s _ =>
    some (if p then s.loseStores g.drill g.context false fun u => decide (u.key = raddKey n) else s.performedOne g.drill g.context (raddKey n))

/-! ## The directory sweep (R274) -/

/-- A directory entry without the cores of die `d`; none where its owner was one of them. -/
def Dir.without (d : Nat) : Dir → Option Dir
  | .un => some .un
  | .sh ks => some (match ks.filter fun k => decide (dieOf k ≠ d) with
    | [] => .un
    | ks => .sh ks)
  | .coarse ds =>
    let r := ds &&& ~~~ (BitVec.ofNat 24 (2 ^ d))
    some (if r = 0 then .un else .coarse r)
  | .ex o => if dieOf o = d then none else some (.ex o)

/-- A write-back that meets a cell marked error: no Recall and no ownership of its sender stands (Table 09-4). -/
def State.strayPutM (s : State) (e : Nat × HomeReq) : Bool :=
  match e.2 with
  | .putM x v p => (find? (s.die (homeOf e.1)).trans e.1).isNone && (s.absorbPutM e.1 x v p).isNone
  | _ => false

/-- COHERENCE_SWEEP_DONE: the home forgets the reset die's cores; sectors that one of them owned are poisoned and reported; waiting
requests start. -/
def execCoherenceSweepDone (home reset : Nat) (s : State) : Host.Outcome State Fault Refusal :=
  .next (
    if !s.inService ∨ !s.dieUp home ∨ !(s.die home).sweep.contains reset then s
    else
      let ns := (s.die home).gran.flatMap fun e => e.2.secs.map fun c => 4 * e.1 + c.1
      let s := ns.foldl (fun (s : State) n =>
        match (s.dirOf n).without reset with
        | some dir => s.modGsec n fun g => { g with dir := dir }
        | none => (s.modGsec n fun g => { g with dir := .un, poison := true, dirty := true }).reportDie home (mkCode 0x109000B2 home)) s
      let s := s.modDie home fun x => { x with sweep := removeFirst (fun d => decide (d = reset)) x.sweep }
      let s := ((keys (s.die home).trans).foldl (fun (s : State) n => s.settleTrans n) s).pumpAll home
      -- a write-back that waited and now finds a cell marked error
      if (s.die home).sweep.isEmpty && (s.die home).pend.any fun e => s.strayPutM e then s.homeViolation home
      else s)

/-! ## The thrash monitor (R245) -/

/-- P lines of a die. -/
def Die.pinnedLines (x : Die) : Nat := (x.gran.filter fun e => e.2.pinned).length

/-- THRASH_WINDOW_END: the last window's Pavg and U are held; an event at the first window in which the condition holds, to every
composition with a pin on the die. -/
def execThrashWindowEnd (die : Nat) (s : State) : Host.Outcome State Fault Refusal :=
  .next (
    if !s.inService ∨ !s.dieUp die then s
    else
      let x := s.die die
      let cfg := s.reg .grnThrashCfg die 0
      let warn := s.reg .grnPinCfg die 0 / 256 % 32
      let p := x.pinnedLines
      let u256 := if x.accesses = 0 then 0 else x.misses * 256 / x.accesses
      let cond := decide (cfg % 2 = 1) && decide (warn * 4096 < p) && decide (cfg / 256 % 256 * x.accesses < x.misses * 256) &&
        decide (4096 ≤ x.accesses)
      let s := s.setReg .grnThrashLast die 0 (min 255 (p / 4096) * 256 + min 255 u256)
      let s := s.modDie die fun x => { x with accesses := 0, misses := 0, thrashing := cond }
      let pinners := x.gran.flatMap fun e => e.2.secs.flatMap fun g => g.2.pins
      if cond ∧ !x.thrashing then s.reportComps (mkCode 0x108000A0 die) (distinct pinners) else s)

end Sys2Proof.Machine
end

