-- ==== Sys2Proof/Machine/Control.lean ====
section
/-! DEFINITION. The control class: branches, exit, traps raised by instructions, special values (Tables 05-12, 05-13). -/

namespace Sys2Proof.Machine

open Sys2Proof

/-- A branch target relative to the PC: PC + 8 × IMM (R144). -/
def relTarget (pc : BitVec 48) (w : DWord) : BitVec 48 := pc + 8 * ((BitVec.ofNat 24 (iImm w)).signExtend 48)

/-- The trap of a branch to `t`, if any: not a multiple of 8, or outside mapped code (R162). -/
def State.targetTrap (s : State) (x : Drill) (t : BitVec 48) : Option Trap :=
  if t.toNat % 8 ≠ 0 then some .misaligned
  else
    match s.translate x.comp x.epoch t.toNat with
    | some y => if y.code then none else some .notMapped
    | none => some .notMapped

/-- Threads by next PC, in order of first appearance. -/
def partsOf (es : List (Nat × BitVec 48)) : List (DWord × BitVec 48) :=
  es.foldl (fun (ps : List (DWord × BitVec 48)) e =>
    let m := BitVec.ofNat 64 (2 ^ e.1)
    if ps.any fun p => decide (p.2 = e.2) then ps.map fun p => if p.2 = e.2 then (p.1 ||| m, p.2) else p
    else ps ++ [(m, e.2)]) []

/-- Take a branch in the active threads, each to its own target; the others fall through (R122, R149, R162). -/
def State.branch (s : State) (d : DrillRef) (x : Drill) (p : Path) (act : DWord) (w : DWord) (target : Nat → BitVec 48) : State :=
  match pickTrap ((threads act).filterMap fun t => (s.targetTrap x (target t)).map fun k => (t, (target t).setWidth 64, k)) with
  | some (t, mask, a) => s.park d t mask a w
  | none =>
    let parts := partsOf ((threads p.mask).map fun t => (t, if bit act t then target t else p.pc + 8))
    match parts with
    | [(_, t)] => s.setDrill d (x.jump t)
    | _ => s.setDrill d (x.split parts)

/-- BRA: to PC + 8 × IMM. -/
def execBra (d : DrillRef) (f : Fetched) (s : State) : Host.Outcome State Fault Refusal :=
  .next (s.issue d f 0xC 0x00 false fun x p act => some (s.branch d x p act f.word fun _ => relTarget p.pc f.word))

/-- BRIND: to the 48-bit address in pair a. -/
def execBrind (d : DrillRef) (f : Fetched) (s : State) : Host.Outcome State Fault Refusal :=
  .next (s.issue d f 0xC 0x01 false fun x p act =>
    some (s.branch d x p act f.word fun t => (x.rdPair (iAU f.word) t (iA f.word)).setWidth 48))

/-- CALL: pair d takes PC + 8, then a branch to PC + 8 × IMM; a trapping call writes nothing (R133). -/
def execCall (d : DrillRef) (f : Fetched) (s : State) : Host.Outcome State Fault Refusal :=
  .next (s.issue d f 0xC 0x02 false fun x p act =>
    let t := relTarget p.pc f.word
    match s.targetTrap x t with
    | some k => some (s.park d k act (t.setWidth 64) f.word)
    | none =>
      let y := x.writePair f.word act fun _ => (p.pc + 8).setWidth 64
      some ((s.setDrill d y).branch d y p act f.word fun _ => t))

/-- EXIT: the active threads stop being live; the last begins the drill's drain (R121, R149). -/
def execExit (d : DrillRef) (f : Fetched) (s : State) : Host.Outcome State Fault Refusal :=
  .next (s.issue d f 0xC 0x03 false fun x p act =>
    let rest := p.mask &&& ~~~ act
    let y := { x with cur := none, stamp := x.stamp + 1,
                      paths := if rest = 0 then x.paths else addPath { mask := rest, pc := p.pc + 8, wait := .runnable, since := x.stamp } x.paths }
    if y.live = 0 then some (s.setDrill d { y with status := .draining p.pc act f.word }) else some (s.syncSettle d y))

/-- NOP: none. -/
def execNop (d : DrillRef) (f : Fetched) (s : State) : Host.Outcome State Fault Refusal :=
  .next (s.issue d f 0xC 0x04 false fun x _ _ => some (s.setDrill d x.retire))

/-- TRAP: a software trap, or with bit [7] clear a software report; bits [6:0] go into the record (Table 04-4). -/
def execTrap (d : DrillRef) (f : Fetched) (s : State) : Host.Outcome State Fault Refusal :=
  .next (s.issue d f 0xC 0x05 false fun _ _ act =>
    some (s.park d (if iImm f.word / 128 % 2 = 1 then .software else .report) act (BitVec.ofNat 64 (iImm f.word % 128)) f.word))

/-- DBREAK: a breakpoint under debug unlock with drill scope, else an illegal instruction (Table 04-4). -/
def execDbreak (d : DrillRef) (f : Fetched) (s : State) : Host.Outcome State Fault Refusal :=
  .next (s.issue d f 0xC 0x06 false fun _ _ act =>
    some (s.park d (if s.debugScope 0 then .breakpoint else .illegal) act 0 f.word))

/-- A special value of Table 05-13, read in one action (R163). -/
def State.special (s : State) (d : DrillRef) (x : Drill) (act : DWord) (sel t : Nat) : DWord :=
  match sel with
  | 0 => BitVec.ofNat 64 t
  | 1 => act
  | 2 => x.live
  | 3 => BitVec.ofNat 64 d.slice
  | 4 => BitVec.ofNat 64 (dieOf d.slice)
  | 5 => BitVec.ofNat 64 (d.slice % 8)
  | 6 => BitVec.ofNat 64 (slotKey d)
  | 7 => x.context.setWidth 64
  | 8 => BitVec.ofNat 64 (x.comp * 256 + x.epoch.toNat)
  | 9 => x.pass.setWidth 64
  | 10 => BitVec.ofNat 64 s.time.now
  | _ => BitVec.ofNat 64 ((s.die (dieOf d.slice)).fcTenths / 10)

/-- SREG: d takes a special value; selectors 1, 2, 10 and 11 are pairs. -/
def execSreg (d : DrillRef) (f : Fetched) (s : State) : Host.Outcome State Fault Refusal :=
  .next (s.issue d f 0xC 0x07 false fun x _ act =>
    let sel := iImm f.word % 32
    let v := s.special d x act sel
    let y := if [1, 2, 10, 11].contains sel then x.writePair f.word act v else x.writeEach f.word act fun t => (v t).setWidth 32
    some (s.setDrill d y.retire))

end Sys2Proof.Machine
end

