-- ==== Sys2Proof/Machine/Flags.lean ====
section
/-! DEFINITION. The conditions that write predicates (ITEST, PLOGIC, FTEST) and the input modifiers of floating operations (Tables 05-3, 05-4, R152, R153). -/

namespace Sys2Proof.Machine

open Sys2Proof

/-- ITEST's condition: EQ, NE, LT, LE, GT, GE; signed, or unsigned with U. -/
def intCond (cmp : Nat) (u : Bool) (a b : Word) : Bool :=
  let lt (x y : Word) := if u then decide (x.toNat < y.toNat) else decide (x.toInt < y.toInt)
  match cmp with
  | 0 => decide (a = b)
  | 1 => decide (a ≠ b)
  | 2 => lt a b
  | 3 => !lt b a
  | 4 => lt b a
  | _ => !lt a b

/-- PLOGIC's operation: AND, OR, XOR, AND-NOT. -/
def predOp (cmp : Nat) (a b : DWord) : DWord :=
  match cmp with
  | 0 => a &&& b
  | 1 => a ||| b
  | 2 => a ^^^ b
  | _ => a &&& ~~~ b

/-- FTEST's condition: every one but NE, NUM and NAN is false on a NaN (R153). -/
def floatCond (cmp : Nat) (a b : Word) : Bool :=
  let r := (f32 a).cmp (f32 b)
  match cmp with
  | 0 => decide (r = some .eq)
  | 1 => decide (r ≠ some .eq)
  | 2 => decide (r = some .lt)
  | 3 => decide (r = some .lt ∨ r = some .eq)
  | 4 => decide (r = some .gt)
  | 5 => decide (r = some .gt ∨ r = some .eq)
  | 6 => decide (r ≠ none)
  | _ => decide (r = none)

/-- An input modifier on a sign bit: the absolute value first, then the negation (R152). -/
def modSign (abs neg : Bool) (mask v : Word) : Word :=
  let v := if abs then v &&& ~~~ mask else v
  if neg then v ^^^ mask else v

/-- The sign bits that modifiers act on: both halves of a BF16 pair, else bit 31. -/
def signMask (pair : Bool) : Word := if pair then 0x80008000 else 0x80000000

/-- Source A of a floating operation with ABSA and NEGA applied. -/
def Drill.fA (x : Drill) (w : DWord) (pair : Bool) (t : Nat) : Word :=
  modSign (bit w 28) (bit w 30) (signMask pair) (x.srcA w t)

/-- Source B with ABSB and NEGB applied. -/
def Drill.fB (x : Drill) (w : DWord) (pair : Bool) (t : Nat) : Word :=
  modSign (bit w 27) (bit w 29) (signMask pair) (x.srcBF w t)

/-- BF2: the operands are BF16 pairs. -/
def iBF2 (w : DWord) : Bool := decide (iModBits w 7 7 = 1)

end Sys2Proof.Machine
end

