-- ==== Sys2Proof/Machine/CrossLane.lean ====
section
/-! DEFINITION. The cross-lane class (Table 05-7, R156). -/

namespace Sys2Proof.Machine

open Sys2Proof

/-- Source A of thread `t` as it stands at issue; a thread that is not live reads as 0 (R156). DESIGN CHOICE: a drill-uniform
source has one value for the drill, and it is read whichever thread is named, live or not. -/
def Drill.lane (x : Drill) (w : DWord) (t : Nat) : Word := if bit x.live t ∨ iAU w then x.srcA w t else 0

def execLread (d : DrillRef) (f : Fetched) (s : State) : Host.Outcome State Fault Refusal :=
  .next (s.alu d f 0x4 0x00 fun x act => x.writeEach f.word act fun t => x.lane f.word (bits (x.srcB f.word t) 5 0))

def execPall (d : DrillRef) (f : Fetched) (s : State) : Host.Outcome State Fault Refusal :=
  .next (s.alu d f 0x4 0x01 fun x act =>
    x.setP (iDst f.word) act (if x.preg (iA f.word) &&& act = act then act else 0))

def execPany (d : DrillRef) (f : Fetched) (s : State) : Host.Outcome State Fault Refusal :=
  .next (s.alu d f 0x4 0x02 fun x act =>
    x.setP (iDst f.word) act (if x.preg (iA f.word) &&& act = 0 then 0 else act))

def execPmask (d : DrillRef) (f : Fetched) (s : State) : Host.Outcome State Fault Refusal :=
  .next (s.alu d f 0x4 0x03 fun x act =>
    x.wrN true 0 (iDst f.word) 2 (x.preg (iA f.word) &&& act).toNat)

/-- LREDUCE's operation: ADD, MIN, MAX, AND, OR; MIN and MAX signed, or unsigned with U. -/
def reduceOp (op : Nat) (u : Bool) (a b : Word) : Word :=
  match op with
  | 0 => a + b
  | 1 => if intCond 2 u b a then b else a
  | 2 => if intCond 2 u a b then b else a
  | 3 => a &&& b
  | _ => a ||| b

/-- LREDUCE: the reduction over the active threads. DESIGN CHOICE: a drill-uniform source gives its value once for each active thread (an ADD over n
threads gives n times it); R146's single execution on the scalar unit against a reduction over threads is left open. -/
def execLreduce (d : DrillRef) (f : Fetched) (s : State) : Host.Outcome State Fault Refusal :=
  .next (s.alu d f 0x4 0x04 fun x act =>
    match threads act with
    | [] => x
    | t :: ts => x.setU (iDst f.word)
        (ts.foldl (fun v t => reduceOp (iModBits f.word 10 8) (bit f.word 31) v (x.srcA f.word t)) (x.srcA f.word t)))

def execLtake (d : DrillRef) (f : Fetched) (s : State) : Host.Outcome State Fault Refusal :=
  .next (s.alu d f 0x4 0x05 fun x _ => x.setU (iDst f.word) (x.lane f.word (iImm f.word % 64)))

end Sys2Proof.Machine
end

