-- ==== Sys2Proof/Machine/Stack.lean ====
section
/-! DEFINITION. Stacked memory: temperature samples, places in a channel, refresh, ECC windows, patrol scrub and margining sweeps (R284, R290-R303). -/

namespace Sys2Proof.Machine

open Sys2Proof

/-- A place in a channel (Table 10-3). -/
structure StackPlace where
  sid : Nat
  pc : Nat
  bg : Nat
  bank : Nat
  row : Nat
  col : Nat
  byte : Nat
  deriving DecidableEq, Repr

/-- Where a channel offset lies in its channel (R284). Nothing in the machine depends on it but the bandwidth. -/
def stackPlace (o : Nat) : StackPlace :=
  let r : Word := BitVec.ofNat 32 (o % 2 ^ 28)
  let x3 (a b c : Nat) : Nat := b2n (xor (xor (bit r a) (bit r b)) (bit r c))
  let q := o / 2 ^ 28
  { sid := q % 3, pc := x3 8 15 22, bg := 2 * x3 10 17 24 + x3 9 16 23, bank := 2 * x3 12 19 26 + x3 11 18 25,
    row := q / 3 * 2 ^ 13 + bits r 27 15, col := 16 * b2n (xor (bit r 14) (bit r 21)) + 8 * x3 13 20 27 + bits r 7 5, byte := bits r 4 0 }

/-- The row of Table 10-6 that a temperature calls for. -/
def refreshRow (ts : Nat) : Nat := if ts ≤ 85 then 0 else if ts ≤ 95 then 1 else 2

/-- The refresh rate after a sample: up at once, down one row after 100 samples in a row at least 3 °C below the bound that row rose
past (R291). -/
def Die.sampleRate (x : Die) (ts : Nat) : Die :=
  let want := refreshRow ts
  if x.rate < want then { x with rate := want, coolSamples := 0 }
  else if 0 < x.rate ∧ refreshRow (ts + 3) < x.rate then
    if 99 ≤ x.coolSamples then { x with rate := x.rate - 1, coolSamples := 0 } else { x with coolSamples := x.coolSamples + 1 }
  else { x with coolSamples := 0 }

/-- The stack goes into self-refresh: every bank is precharged and refreshed, all banks at once, before it (Table 10-2, R293). -/
def Die.selfRefresh (x : Die) : Die :=
  { x with stackOff := true, bankRate := if x.rate = 0 then [] else (upto 1536).map fun b => (b, x.rate) }

/-- A temperature that cannot be read counts as 100 °C. -/
def tempOf (v : Option Nat) : Nat := v.getD 100

/-- STACK_TEMP_SAMPLE: Ts is the higher of the stack's readout and the sensors under its footprint; a reading that fails counts as
100 °C. At 110 °C the stack goes into self-refresh and the partition resets (R290, R291, R293). -/
def execStackTempSample (die : Nat) (readout footprint : Option Nat) (s : State) : Host.Outcome State Fault Refusal :=
  .next (
    if !s.sampling ∨ 24 ≤ die ∨ !s.dieUp die then s
    else
      let s := if readout.isNone ∨ footprint.isNone then s.count .memTempFail die 0 1 else s
      let ts := max (tempOf readout) (tempOf footprint)
      let s := s.setReg .memStackTpeak die 0 (max (s.reg .memStackTpeak die 0) (min 255 ts))
      let first := decide (100 ≤ ts) && !(s.die die).throttle
      let s := s.modDie die fun x =>
        { x.sampleRate ts with ts := ts, throttle := if 100 ≤ ts then true else if ts < 97 then false else x.throttle }
      let s := if first then s.reportDie die (mkCode 0x10A000C2 die) else s
      if 110 ≤ ts then (s.startReset die (mkCode 0x80A000C3 die)).modDie die Die.selfRefresh else s)

/-- BANK_REFRESH: a bank's refresh falls due and is issued; from it the rate in force applies to the bank (R292). -/
def execBankRefresh (die pc bank : Nat) (s : State) : Host.Outcome State Fault Refusal :=
  .next (
    if !s.inService ∨ 24 ≤ die ∨ !s.dieUp die ∨ 32 ≤ pc ∨ 48 ≤ bank then s
    else s.modDie die fun x => { x with bankRate := setD 0 x.bankRate (48 * pc + bank) x.rate })

/-- ECC_WINDOW_END: a new 1 s window begins, under the threshold that MEM_ECC_THR holds now (R298, Table 10-8). -/
def execEccWindowEnd (die : Nat) (s : State) : Host.Outcome State Fault Refusal :=
  .next (
    if !s.inService ∨ 24 ≤ die ∨ !s.dieUp die then s
    else s.modDie die fun x => { x with eccWin := 0, eccReported := false, eccThr := s.reg .memEccThr die 0 })

/-- Codewords of one stack: four to a sector (R297). -/
def stackCodewords : Nat := 16 * channelBytes / 64

/-- One codeword is read: parity retries, then its outcome, unless its sector carries POISON (R295, R298). -/
def State.scrubRead (s : State) (n cw : Nat) : State :=
  let s := s.dramTry n
  if s.mem.poison.contains n then s
  else
    match s.mem.errs.find? fun e => decide (e.1 = cw) with
    | none => s
    | some e => ({ s with mem := { s.mem with errs := removeFirst (fun f => decide (f = e)) s.mem.errs } }).eccRead n e.2

/-- PATROL_SCRUB_READ: the scrubber reads its next codeword and handles it as R298 says; a pass that starts takes the period of
MEM_SCRUB_CFG, 0 for off (R300). -/
def execPatrolScrubRead (die codeword : Nat) (s : State) : Host.Outcome State Fault Refusal :=
  .next (
    if !s.inService ∨ 24 ≤ die ∨ !s.dieUp die ∨ codeword ≠ (s.die die).scrubNext then s
    else
      let s := if codeword = 0 then s.modDie die fun x => { x with scrubPer := s.reg .memScrubCfg die 0 % 256 } else s
      if (s.die die).scrubPer = 0 then s
      else
        let n := die * 16 * channelBytes / 256 + codeword / 4
        let s := s.modDie die fun x => { x with scrubNext := (codeword + 1) % stackCodewords }
        if s.channelBad n then (s.dramTry n).resetFaulty die
        else
          let s := s.scrubRead n (die * stackCodewords + codeword)
          if s.mem.poison.contains n then s.startRefetch n else s)

/-! ## Margining (R301, R302) -/

/-- A write to MEM_MARGIN_CMD whose OP is `op`: refused with ERR while the die is out of service, holds a bound slice, or a sweep runs;
a reserved encoding of OP, STEPS or PATTERN is refused as a register write, and what stands in the reserved field is dropped (R6, R554). A sweep
leaves the stack's contents undefined. -/
def State.startMargin (s : State) (op die : Nat) (w : Word) : State :=
  if bits w 31 28 ≠ op ∨ 24 ≤ die ∨ !s.inService then s
  else
    let err (s : State) : State := s.modDie die fun x => { x with margin := { x.margin with err := true } }
    if !s.dieUp die then err s
    else if bits w 15 8 = 0 ∨ 2 < bits w 7 0 then s.refuseWrite die (Reg.off .memMarginCmd die 0)
    else if ((slicesOf die).any fun k => (s.owner? k).isSome) || (s.die die).margin.busy then err s
    else
      let (k, s) := s.takeFresh 1
      s.modDie die fun x => { x with margin := { Sweep.reset with busy := true, steps := bits w 15 8 }, undef := some (k, []) }

/-- MARGIN_READ_DELAY. -/
def execMarginReadDelay (die : Nat) (w : Word) (s : State) : Host.Outcome State Fault Refusal := .next (s.startMargin 1 die w)
/-- MARGIN_WRITE_DELAY. -/
def execMarginWriteDelay (die : Nat) (w : Word) (s : State) : Host.Outcome State Fault Refusal := .next (s.startMargin 2 die w)
/-- MARGIN_READ_REFERENCE. -/
def execMarginReadReference (die : Nat) (w : Word) (s : State) : Host.Outcome State Fault Refusal := .next (s.startMargin 3 die w)
/-- MARGIN_WRITE_REFERENCE. -/
def execMarginWriteReference (die : Nat) (w : Word) (s : State) : Host.Outcome State Fault Refusal := .next (s.startMargin 4 die w)
/-- MARGIN_SUPPLY. -/
def execMarginSupply (die : Nat) (w : Word) (s : State) : Host.Outcome State Fault Refusal := .next (s.startMargin 5 die w)

/-- MEM_MARGIN_SWEEP_DONE: the sweep ends, with the passing steps on each side and the lane that failed first; the trained settings are
back in force (R302). -/
def execMemMarginSweepDone (die low high lane : Nat) (s : State) : Host.Outcome State Fault Refusal :=
  .next (
    if !s.inService ∨ 24 ≤ die ∨ !(s.die die).margin.busy then s
    else s.modDie die fun x =>
      let m := x.margin
      { x with margin := { m with busy := false, done := true, low := min low m.steps, high := min high m.steps, lane := min lane 35 } })

/-- Training has set, and the controller has stored, the delays and receiver references of every lane at every root step (R294): their values are
free values, and here is the number of those in force. -/
def State.trainStack (s : State) (d : Nat) : State :=
  let (k, s) := s.takeFresh 1
  s.modDie d fun x => { x with trained := some k }

/-- The stored setting of a lane at the root step in force: a step change takes it from there, without retraining (R294). -/
def Die.laneSetting (x : Die) (pc lane : Nat) : Option Word := x.trained.map fun k => Config.trainedSetting k x.step (36 * pc + lane)

/-- Initialise a die's stack: zero data and valid ECC in every codeword (R296, R301). -/
def State.initStack (s : State) (d : Nat) : State :=
  let lo := d * 16 * channelBytes
  { s with mem := { s.mem with dram := clearRange s.mem.dram lo (lo + 16 * channelBytes),
                               poison := s.mem.poison.filter fun n => decide (homeOf n ≠ d),
                               errs := s.mem.errs.filter fun e => decide (homeOf (e.1 / 4) ≠ d) } }.modDie d fun x => { x with undef := none }

end Sys2Proof.Machine
end

