-- ==== Sys2Proof/Machine/Fabric.lean ====
section
/-! DEFINITION. The hedgerow fabric: flits and their CRC, link retry, credits, training agreements, bypass links, routing (R305-R323). -/

namespace Sys2Proof.Machine

open Sys2Proof

/-! ## Ports and switches -/

/-- A port that exists: four of each die and of each headland (R323). -/
def portExists (p : PortRef) : Bool := decide (p.port < 4) && (decide (p.node < 24) || decide (p.node = 0x1E) || decide (p.node = 0x1F))

def State.hport (s : State) (p : PortRef) : HPort :=
  if p.node < 24 then getD .reset (s.die p.node).ports p.port else getD .reset s.hlPorts (4 * (p.node - 0x1E) + p.port)
def State.setHport (s : State) (p : PortRef) (x : HPort) : State :=
  if p.node < 24 then s.modDie p.node fun d => { d with ports := setD .reset d.ports p.port x }
  else { s with hlPorts := setD .reset s.hlPorts (4 * (p.node - 0x1E) + p.port) x }
def State.switch (s : State) (node : Nat) : Switch := if node < 24 then (s.die node).sw else getD .reset s.hlSw (node - 0x1E)
def State.setSwitch (s : State) (node : Nat) (w : Switch) : State :=
  if node < 24 then s.modDie node fun d => { d with sw := w } else { s with hlSw := setD .reset s.hlSw (node - 0x1E) w }

/-- A switch that runs: a headland's, or that of a die whose partition is in service. -/
def State.nodeUp (s : State) (node : Nat) : Bool := s.inService && (decide (24 ≤ node) || s.dieUp node)

/-- The block of a node's registers, the site of its codes (R322, R323). -/
def nodeBlock (node : Nat) : Nat := if node < 24 then node else 24 + (node - 0x1E)
def nodeSite (node : Nat) : Nat := if node < 24 then node else 0xFA + (node - 0x1E)

/-- Report a code of a port or die: to the compositions on the die, or on the PF admin CQ for a headland (R322, R481). -/
def State.reportNode (s : State) (node base : Nat) : State :=
  let c := mkCode base (nodeSite node)
  if node < 24 then s.reportDie node c else s.reportPF c

/-- The lane roles of a port, two bits a group (R28). -/
def State.portRole (s : State) (p : PortRef) : Half :=
  getD 0 s.start.roles (if p.node < 24 then 4 * (s.die p.node).pos + p.port else 112 + 4 * (p.node - 0x1E) + p.port)

/-- The groups that have role `r`. -/
def roleGroups (roles : Half) (r : Nat) : Byte :=
  (upto 8).foldl (fun (m : Byte) g => if bits roles (2 * g + 1) (2 * g) = r then m ||| BitVec.ofNat 8 (2 ^ g) else m) 0

/-! ## Flits (Tables 11-1 to 11-3) -/

/-- One bit step of the ECMA-182 CRC. -/
def crcStep (c : BitVec 64) : BitVec 64 := if bit c 63 then (c <<< 1) ^^^ 0x42F0E1EBA9EA3693 else c <<< 1

/-- One byte of the CRC, most significant bit first. -/
def crcByte (c : BitVec 64) (b : Byte) : BitVec 64 :=
  let c := c ^^^ ((b.setWidth 64) <<< 56)
  crcStep (crcStep (crcStep (crcStep (crcStep (crcStep (crcStep (crcStep c)))))))

/-- The CRC of bytes, inverted at both ends (R308). -/
def crc64 (bs : List Byte) : BitVec 64 := (bs.foldl crcByte 0xFFFFFFFFFFFFFFFF) ^^^ 0xFFFFFFFFFFFFFFFF

/-- Bytes 0-279, and the CRC that bytes 280-287 carry. -/
def flitBytes (f : BitVec 2304) : List Byte := (upto 280).map fun i => BitVec.ofNat 8 (bits f (8 * i + 7) (8 * i))
def flitOk (f : BitVec 2304) : Bool := decide ((crc64 (flitBytes f)).toNat = bits f 2303 2240)

/-- Link-header fields (Table 11-2). -/
def fSeq (f : BitVec 2304) : BitVec 12 := BitVec.ofNat 12 (bits f 63 52)
def fAck (f : BitVec 2304) : BitVec 12 := BitVec.ofNat 12 (bits f 51 40)
def fCvc (f : BitVec 2304) : Nat := bits f 39 36
def fCcnt (f : BitVec 2304) : Nat := bits f 35 30
def fKind (f : BitVec 2304) : Nat := bits f 29 28
def fNmsg (f : BitVec 2304) : Nat := bits f 27 23
def fPoison (f : BitVec 2304) : Bool := decide (bits f 22 22 = 1)
/-- Message header `i` of a control flit; header 0 of a data flit. -/
def fHdr (f : BitVec 2304) (i : Nat) : BitVec 128 := BitVec.ofNat 128 (bits f (64 + 128 * i + 127) (64 + 128 * i))
def fData (f : BitVec 2304) : Sector := BitVec.ofNat 2048 (bits f 2239 192)

/-- A message of a source partition's earlier generation, which every receiver discards (R503). -/
def State.staleMsg (s : State) (m : HdgMsg) : Bool := decide (m.src < 24) && decide (m.rgen ≠ (s.die m.src).rgen.toNat)

/-- The messages of an accepted flit that is no further data flit (R309). -/
def flitMsgs (f : BitVec 2304) : List HdgMsg :=
  if fKind f = 1 then [{ hdr := fHdr f 0, data := some (fData f), poison := fPoison f, more := none }]
  else (upto (min 17 (fNmsg f))).map fun i => { hdr := fHdr f i, data := none, poison := false, more := none }

/-- A further data flit: a data flit with NMSG 0 (Table 11-2). -/
def fFurther (f : BitVec 2304) : Bool := decide (fKind f = 1) && decide (fNmsg f = 0)

/-! ## Link layer (R310-R313) -/

/-- The SEQ of a sent flit has been acknowledged by ACKSEQ `a`. -/
def acked (a seq : BitVec 12) : Bool := decide ((a - seq).toNat < 2048)

/-- Take the ACKSEQ and the credits of a received flit. -/
def HPort.takeLink (p : HPort) (f : BitVec 2304) : HPort :=
  let left := p.replay.filter fun e => !acked (fAck f) e.seq
  let p := { p with replay := left, nakRun := if left.any fun e => decide (e.seq = p.nakSeq) then p.nakRun else 0 }
  if fCvc f ≤ 8 then { p with credits := setD 0 p.credits (fCvc f) (getD 0 p.credits (fCvc f) + fCcnt f) } else p

/-- Buffer credits fall due to the partner (R313). -/
def HPort.owe (p : HPort) (pools : List Nat) : HPort := { p with owed := pools.foldl (fun m c => setD 0 m c (getD 0 m c + 1)) p.owed }

/-- The credits that the next flit returns, CVC and CCNT; one without any carries CVC 15 (Table 11-2). -/
def HPort.giveCredits (p : HPort) : (Nat × Nat) × HPort :=
  match p.owed with
  | e :: _ => ((e.1, min 63 e.2), { p with owed := setD 0 p.owed e.1 (e.2 - min 63 e.2) })
  | [] => ((15, 0), p)

/-- The active groups of a port, and the one whose turn it is (R310). -/
def HPort.groups (p : HPort) : List Nat := (upto 8).filter fun g => bit p.agreed g
def HPort.turn (p : HPort) : Nat := ((p.groups.find? fun g => decide (p.nextGroup ≤ g)).or p.groups.head?).getD 0

/-- Send a flit without SEQ on a group: it returns ACKSEQ and credits (R310). -/
def HPort.sendLink (p : HPort) (nak : Option (BitVec 12)) (g : Nat) : HPort :=
  let (c, p) := p.giveCredits
  { p with ackDue := false, linkOut := p.linkOut ++ [{ group := g, nak := nak, ack := p.rxSeq - 1, cvc := c.1, ccnt := c.2 }] }

/-- The receiver names the missing SEQ on every active group (R311). -/
def HPort.sendNak (p : HPort) : HPort := p.groups.foldl (fun (p : HPort) g => p.sendLink (some p.rxSeq) g) { p with gap := true }

/-- An active port that owes an ACKSEQ or credits sends an idle flit while no command waits. -/
def HPort.idle (p : HPort) : HPort :=
  if p.st = .active ∧ (p.ackDue ∨ p.owed ≠ []) then p.sendLink none p.turn else p

/-- The pool whose buffer an arriving flit of a VC takes: the VC's eight first, then the shared pool (R313). -/
def State.poolFor (s : State) (p : PortRef) (vc : Nat) : Nat :=
  let held := ((s.switch p.node).inbox.map fun h => if h.port = p.port then h.credits.count vc else 0).sum
  if held + getD 0 (s.hport p).owed vc < 8 then vc else 8

/-- Messages of a flit in the switch: the last one carries the credit away. -/
def heldMsgs (port : Nat) (seq : BitVec 12) (pool : Nat) : List HdgMsg → List Held
  | [] => []
  | [m] => [{ port := port, seq := seq, credits := [pool], msg := m }]
  | m :: ms => { port := port, seq := seq, credits := [], msg := m } :: heldMsgs port seq pool ms

/-- The message of a switch that an arriving further data flit belongs to: the one of that port whose flit came just before (R309). -/
def Switch.waitsMore (w : Switch) (port : Nat) (seq : BitVec 12) : Option Nat :=
  w.inbox.findIdx? fun h => decide (h.port = port) && decide (h.seq = seq - 1) && !h.msg.whole

/-- An accepted flit enters the switch: a further data flit completes its message, and messages of an old generation are discarded; the buffer of a
flit that leaves nothing in the switch is free at once (R309, R313, R503). -/
def State.enterSwitch (s : State) (p : PortRef) (f : BitVec 2304) : State :=
  let w := s.switch p.node
  let owe (s : State) (pool : Nat) : State := s.setHport p ((s.hport p).owe [pool])
  if fFurther f then
    match w.waitsMore p.port (fSeq f) with
    | none => owe s (s.poolFor p 0)
    | some i =>
      let pool := s.poolFor p ((w.inbox[i]?.map fun h => h.msg.vc).getD 0)
      s.setSwitch p.node { w with inbox := w.inbox.mapIdx fun j h =>
        if j = i then { h with credits := h.credits ++ [pool], msg := { h.msg with more := some (fData f, fPoison f) } } else h }
  else
    let all := flitMsgs f
    let pool := s.poolFor p ((all.head?.map HdgMsg.vc).getD 0)
    match all.filter fun m => !s.staleMsg m with
    | [] => owe s pool
    | ms => s.setSwitch p.node { w with inbox := w.inbox ++ heldMsgs p.port (fSeq f) pool ms }

/-- FLIT_RECEIVE: a flit with a bad CRC, or out of order, is dropped and the missing SEQ NAKed, and while a gap is open every later flit is dropped;
else ACKSEQ and credits are taken and the messages enter the switch (R308-R313, R503). -/
def execFlitReceive (p : PortRef) (f : BitVec 2304) (s : State) : Host.Outcome State Fault Refusal :=
  .next (
    if !portExists p ∨ !s.nodeUp p.node ∨ (s.hport p).st ≠ .active then s
    else if !flitOk f then (s.setHport p (s.hport p).sendNak).count .hdgCrcErr (nodeBlock p.node) p.port 1
    else
      let x := s.hport p
      if fKind f = 0 ∨ fKind f = 3 then s.setHport p (x.takeLink f)
      else if fSeq f = x.rxSeq then
        (s.setHport p { x.takeLink f with rxSeq := x.rxSeq + 1, gap := false, ackDue := true }).enterSwitch p f
      else if !x.gap ∧ (fSeq f - x.rxSeq).toNat < 2048 then s.setHport p x.sendNak
      else s)

/-- A port leaves the active state and trains (R312, R320). -/
def State.retrain (s : State) (p : PortRef) : State := if p.node < 24 then s.retrainPort p.node p.port else s.retrainHl (p.node - 0x1E) p.port

/-- The flits from SEQ `a` up are sent again (R311). -/
def HPort.resent (p : HPort) (a : BitVec 12) : Nat := (p.replay.filter fun e => decide ((e.seq - a).toNat < 2048)).length

/-- NAK: the sender sends again from the named SEQ, counting each flit; the eighth NAK in a row for one SEQ retrains the port
(R311, R312, Table 11-5). -/
def execNak (p : PortRef) (seq : BitVec 12) (s : State) : Host.Outcome State Fault Refusal :=
  .next (
    if !portExists p ∨ !s.nodeUp p.node ∨ (s.hport p).st ≠ .active then s
    else
      let x := s.hport p
      if !(x.replay.any fun e => decide (e.seq = seq)) then s
      else
        let run := if x.nakSeq = seq then x.nakRun + 1 else 1
        let n := x.resent seq
        let x := { x with nakSeq := seq, nakRun := run }
        if 8 ≤ run then (s.setHport p x).retrain p
        else (s.setHport p { x with winReplays := x.winReplays + n }).count .hdgReplay (nodeBlock p.node) p.port n)

/-- ACK_PROGRESS_TIMEOUT: ACKSEQ has not advanced for 10 µs while flits are unacknowledged (R312). -/
def execAckProgressTimeout (p : PortRef) (s : State) : Host.Outcome State Fault Refusal :=
  .next (
    if !portExists p ∨ !s.nodeUp p.node ∨ (s.hport p).st ≠ .active ∨ (s.hport p).replay.isEmpty then s else s.retrain p)

/-! ## Bypass links (R29, R30, R316) -/

/-- A position is fallow. -/
def State.fallowAt (s : State) (pos : Nat) : Bool := bit s.start.fallow pos

/-- The detour path of a fallow die in rows 1-5: its four hops, each by position and port at both ends (R29). -/
def detour (pos : Nat) : List ((Nat × Nat) × (Nat × Nat)) :=
  let c := pos % 4
  let d := if c ≤ 2 then c + 1 else 2
  let (out, back) := if c ≤ 2 then (1, 3) else (3, 1)
  let up := pos - 4
  let down := pos + 4
  [((up, out), (up / 4 * 4 + d, back)), ((up / 4 * 4 + d, 2), (pos / 4 * 4 + d, 0)), ((pos / 4 * 4 + d, 2), (down / 4 * 4 + d, 0)),
   ((down / 4 * 4 + d, back), (down, out))]

/-- The groups that a hop's port end gives to a fallow die's bypass link: 6-7, or 4-5 where a lower fallow die has 6-7 (R30). -/
def State.bypassGroups (s : State) (fallow : Nat) (e : Nat × Nat) : Byte :=
  let other := (upto 28).find? fun q =>
    decide (q ≠ fallow) && s.fallowAt q && decide (4 ≤ q) && decide (q < 24) && (detour q).any fun h => decide (h.1 = e) || decide (h.2 = e)
  match other with
  | some q => if q < fallow then 0x30 else 0xC0
  | none => 0xC0

/-- The bypass link over a fallow die is up: both its groups pass at both ends of every hop (R316). -/
def State.bypassUp (s : State) (fallow : Nat) : Bool :=
  (detour fallow).all fun h => [h.1, h.2].all fun e =>
    match s.dieAt e.1 with
    | some d =>
      let g := s.bypassGroups fallow e
      decide (((s.hport { node := d, port := e.2 }).bypassUp &&& g) = g)
    | none => false

/-- The bypass links that are up, by fallow position. -/
def State.upLinks (s : State) : List Nat := (upto 28).filter fun q => s.fallowAt q && decide (4 ≤ q) && decide (q < 24) && s.bypassUp q

/-- Report the bypass links that have gone down since `before`: the site is the die at the upper end (R322). -/
def State.reportLinks (s : State) (before : List Nat) : State :=
  let now := s.upLinks
  (before.filter fun q => !now.contains q).foldl (fun (s : State) q =>
    match s.dieAt (q - 4) with
    | some d => s.reportNode d 0x20B000DC
    | none => s) s

/-- LANE_LOCK_LOSS: loss of lock on an active group retrains the port; on a bypass group it takes the bypass link down (R312, R316). -/
def execLaneLockLoss (p : PortRef) (group : Nat) (s : State) : Host.Outcome State Fault Refusal :=
  .next (
    if !portExists p ∨ !s.nodeUp p.node ∨ 8 ≤ group then s
    else
      let x := s.hport p
      if x.st = .active ∧ bit x.agreed group then s.retrain p
      else if bit x.bypassUp group then
        (s.setHport p { x with bypassUp := x.bypassUp &&& ~~~ (BitVec.ofNat 8 (2 ^ group)) }).reportLinks s.upLinks
      else s)

/-- PARTNER_TRAINING_SEQUENCE: the partner trains, so this side does too (R312). -/
def execPartnerTrainingSequence (p : PortRef) (s : State) : Host.Outcome State Fault Refusal :=
  .next (if !portExists p ∨ !s.nodeUp p.node ∨ (s.hport p).st ≠ .active then s else s.retrain p)

/-! ## Agreements (R316) -/

/-- A failed agreement: the third in a row takes the port down until the next start-up. -/
def State.failAgreement (s : State) (p : PortRef) : State :=
  let x := s.hport p
  if 2 ≤ x.fails then
    (s.setHport p { x.begin with st := .down, fails := 3 }).reportNode p.node (0x20B000D4 + p.port)
  else s.setHport p { x.begin with fails := x.fails + 1 }

/-- The other end of a die's port: positions form seven rows of four, and a headland faces row 0 or row 6. -/
def State.partner (s : State) (d q : Nat) : Option PortRef :=
  let pos := (s.die d).pos
  match neighbour pos q with
  | some (p, r) => (s.dieAt p).map fun h => { node := h, port := r }
  | none =>
    if q = 0 ∧ pos < 4 then some { node := 0x1E, port := pos }
    else if q = 2 ∧ 24 ≤ pos then some { node := 0x1F, port := pos - 24 } else none

/-- The other end of a port. -/
def State.partnerOf (s : State) (p : PortRef) : Option PortRef :=
  if p.node < 24 then s.partner p.node p.port
  else if p.node = 0x1E then (s.dieAt p.port).map fun d => { node := d, port := 0 }
  else (s.dieAt (24 + p.port)).map fun d => { node := d, port := 2 }

/-- The credits that a port starts with: the partner's buffers for it that hold no flit (R313). -/
def State.freshCredits (s : State) (p : PortRef) : SMap Nat :=
  let held (v : Nat) : Nat := match s.partnerOf p with
    | some o => ((s.switch o.node).inbox.map fun h => if h.port = o.port then h.credits.count v else 0).sum
    | none => 0
  (upto 9).foldl (fun m v => setD 0 m v ((if v = 8 then 448 else 8) - held v)) []

/-- The port becomes active at the agreed width, with fresh sequence numbers and the credits of the partner's free buffers (R310, R313); fewer groups
than its fabric role are reported. -/
def State.activate (s : State) (p : PortRef) (mask : Byte) : State :=
  let x := s.hport p
  let y := { x with st := .active, fails := 0, agreed := mask, offerOut := none, offerIn := none, confirmOut := none, confirmIn := none }
  let z := { y with txSeq := 0, rxSeq := 0, gap := false, ackDue := false, nextGroup := 0, nakRun := 0, replay := [] }
  let s := s.setHport p { z with credits := s.freshCredits p }
  let s := match s.partnerOf p with
    | some o => s.setHport o { s.hport o with owed := [] }
    | none => s
  if mask = roleGroups (s.portRole p) 1 then s else s.reportNode p.node (0x10B000D0 + p.port)

/-- Go on with an agreement: form the agreed mask and send CONFIRM once both OFFERs are there; a mask of 0 fails; so do CONFIRMs that differ, and like
ones succeed. -/
def State.agree (s : State) (p : PortRef) : State :=
  let x := s.hport p
  let x := match x.offerOut, x.offerIn with
    | some a, some b => { x with confirmOut := some (a &&& b) }
    | _, _ => x
  let s := s.setHport p x
  if x.confirmOut = some 0 then s.failAgreement p
  else
    match x.confirmOut, x.confirmIn with
    | some a, some b => if a = b then s.activate p a else s.failAgreement p
    | _, _ => s

/-- GROUP_TRAINING_DONE: the fabric groups that pass form the local mask and are offered; the bypass groups that pass carry their bypass
links. -/
def execGroupTrainingDone (p : PortRef) (mask : Byte) (s : State) : Host.Outcome State Fault Refusal :=
  .next (
    if !portExists p ∨ !s.nodeUp p.node ∨ (s.hport p).st ≠ .training ∨ (s.hport p).offerOut.isSome then s
    else
      let x := s.hport p
      let role := s.portRole p
      let l := mask &&& roleGroups role 1
      ((s.setHport p { x with localMask := l, offerOut := some l, bypassUp := mask &&& roleGroups role 2 }).reportLinks s.upLinks).agree p)

/-- HDG_OFFER: the partner's OFFER with its local mask. -/
def execHdgOffer (p : PortRef) (mask : Byte) (s : State) : Host.Outcome State Fault Refusal :=
  .next (
    if !portExists p ∨ !s.nodeUp p.node ∨ (s.hport p).st ≠ .training ∨ (s.hport p).offerIn.isSome then s
    else (s.setHport p { s.hport p with offerIn := some mask }).agree p)

/-- HDG_CONFIRM: the partner's CONFIRM. -/
def execHdgConfirm (p : PortRef) (mask : Byte) (s : State) : Host.Outcome State Fault Refusal :=
  .next (
    if !portExists p ∨ !s.nodeUp p.node ∨ (s.hport p).st ≠ .training ∨ (s.hport p).confirmIn.isSome then s
    else (s.setHport p { s.hport p with confirmIn := some mask }).agree p)

/-- AGREEMENT_TIMEOUT: 100 ms have passed and the port still trains: no OFFER has come, or no CONFIRM; an agreement takes no longer. -/
def execAgreementTimeout (p : PortRef) (s : State) : Host.Outcome State Fault Refusal :=
  .next (
    if !portExists p ∨ !s.nodeUp p.node ∨ (s.hport p).st ≠ .training then s else s.failAgreement p)

/-! ## Routing (R317-R321) -/

/-- Where a message stands: row −1 is headland A, row 7 headland B. -/
structure Spot where
  row : Int
  col : Nat
  deriving DecidableEq, Repr

/-- The spot of a node; a headland's column is that of the port `port` it sends on. -/
def State.spotOf (s : State) (node port : Nat) : Spot :=
  if node = 0x1E then { row := -1, col := port } else if node = 0x1F then { row := 7, col := port }
  else { row := ((s.die node).pos / 4 : Nat), col := (s.die node).pos % 4 }

/-- The port at a spot in a direction (0 N, 1 E, 2 S, 3 W), by node and port number. -/
def State.portAt (s : State) (a : Spot) (dir : Nat) : Option PortRef :=
  if a.row = -1 then some { node := 0x1E, port := a.col }
  else if a.row = 7 then some { node := 0x1F, port := a.col }
  else (s.dieAt (4 * a.row.toNat + a.col)).map fun d => { node := d, port := dir }

/-- The port is active. -/
def State.activeAt (s : State) (a : Spot) (dir : Nat) : Bool :=
  match s.portAt a dir with
  | some p => decide ((s.hport p).st = .active)
  | none => false

/-- How a message leaves a spot for the next one. -/
inductive Hop where
  /-- through this port, cost 1 -/
  | port (dir : Nat) (next : Spot)
  /-- over a fallow die, cost 3 -/
  | bypass (next : Spot)
  /-- the next hop, in this direction, is not active -/
  | blocked (dir : Nat)
  deriving DecidableEq, Repr

/-- A vertical step toward a row: a fallow die is crossed by its bypass link, unless it stands in the row sought (R317, R318). -/
def State.vertical (s : State) (a : Spot) (toward : Int) : Hop :=
  let up := decide (toward < a.row)
  let r : Int := if up then a.row - 1 else a.row + 1
  let b : Spot := { row := r, col := a.col }
  if 0 ≤ r ∧ r ≤ 6 ∧ s.fallowAt (4 * r.toNat + a.col) then
    if r = toward ∨ r = 0 ∨ r = 6 ∨ !s.bypassUp (4 * r.toNat + a.col) then .blocked (if up then 0 else 2)
    else .bypass { b with row := if up then r - 1 else r + 1 }
  else if s.activeAt a (if up then 0 else 2) ∧ s.activeAt b (if up then 2 else 0) then .port (if up then 0 else 2) b
  else .blocked (if up then 0 else 2)

/-- A horizontal step toward a column. -/
def State.horizontal (s : State) (a : Spot) (toward : Nat) : Hop :=
  let east := decide (a.col < toward)
  let b : Spot := { a with col := if east then a.col + 1 else a.col - 1 }
  if s.activeAt a (if east then 1 else 3) ∧ s.activeAt b (if east then 3 else 1) then .port (if east then 1 else 3) b else .blocked (if east then 1 else 3)

/-- What a switch does with a message: deliver it, or hand it on at a level (R317). -/
inductive Forward where
  | deliver
  | hop (level : Nat) (h : Hop)
  deriving DecidableEq, Repr

/-- Leg 1 of the procedure of R317. -/
def State.leg1 (s : State) (a : Spot) (dst : Nat) : Forward :=
  let d := s.spotOf dst 0
  if a.row ≠ d.row then .hop 1 (s.vertical a d.row)
  else if 24 ≤ dst then .deliver
  else if a.col ≠ d.col then .hop 1 (s.horizontal a d.col)
  else .deliver

/-- The procedure of R317. -/
def State.forward (s : State) (a : Spot) (level mrow mcol dst : Nat) : Forward :=
  if level = 0 then
    if a.row ≠ mrow then .hop 0 (s.vertical a mrow)
    else if a.col ≠ mcol then .hop 0 (s.horizontal a mcol)
    else s.leg1 a dst
  else s.leg1 a dst

/-- The hop count of a route, none where it is not valid (R318). -/
def State.walk (s : State) : Nat → Spot → Nat → Nat → Nat → Nat → Option Nat
  | 0, _, _, _, _, _ => none
  | n + 1, a, level, mrow, mcol, dst =>
    match s.forward a level mrow mcol dst with
    | .deliver => some 0
    | .hop l (.port _ b) => (s.walk n b l mrow mcol dst).map (· + 1)
    | .hop l (.bypass b) => (s.walk n b l mrow mcol dst).map (· + 3)
    | .hop _ (.blocked _) => none

/-- The order of R319: cost, then (MCOL ≠ destination column, |MROW − destination row|, MROW, MCOL), then the headland's port column. -/
def State.routeKey (s : State) (dst : Nat) (r : Route) : List Nat :=
  let d := s.spotOf dst r.mcol
  [r.hops, b2n (decide (r.mcol ≠ d.col)), ((r.mrow : Int) - d.row).natAbs, r.mrow, r.mcol, r.port]

/-- Compare keys term by term. -/
def keyLt : List Nat → List Nat → Bool
  | a :: as, b :: bs => decide (a < b) || (decide (a = b) && keyLt as bs)
  | _, _ => false

/-- The route chosen for a pair (R319). -/
def State.route? (s : State) (src dst : Nat) : Option Route :=
  let cols := if src < 24 then [0] else upto 4
  let cands := cols.flatMap fun c => (upto 7).flatMap fun r => (upto 4).filterMap fun m =>
    (s.walk 40 (s.spotOf src c) 0 r m dst).map fun h => { hops := h, mrow := r, mcol := m, port := c : Route }
  cands.foldl (fun (best : Option Route) r =>
    match best with
    | none => some r
    | some b => if keyLt (s.routeKey dst r) (s.routeKey dst b) then some r else some b) none

/-- Every node of the fabric that runs. -/
def State.nodes (s : State) : List Nat := ((upto 24).filter fun d => s.dieUp d) ++ [0x1E, 0x1F]

/-- The route table of a node. -/
def State.routesFrom (s : State) (src : Nat) : List (Nat × Route) :=
  ((s.nodes.filter fun d => decide (d ≠ src)).filterMap fun d => (s.route? src d).map fun r => (d, r))

/-- Left-over messages of the node's ports move into the reroute buffer while it has room (R320). -/
def State.refillReroute (s : State) (node : Nat) : State :=
  (upto 4).foldl (fun (s : State) q =>
    let x := s.hport { node := node, port := q }
    if x.left.isEmpty then s
    else
      let (w, rest) := (s.switch node).park q x.left
      (s.setSwitch node w).setHport { node := node, port := q } { x with left := rest }) s

/-- A new table gives a message of the reroute buffer its route; one for this node itself, or for a partition not in service, needs none. -/
def State.rerouteBy (s : State) (node : Nat) (t : List (Nat × Route)) (r : Rerouted) : Rerouted :=
  match find? t r.msg.dst with
  | some x => { r with msg := r.msg.setRoute x, ready := true }
  | none => { r with ready := decide (r.msg.dst = node) || (decide (r.msg.dst < 24) && !s.dieUp r.msg.dst) }

/-- A new route table has come: the messages of the reroute buffer that it gives a route start again at LEVEL 0 with the new turn (R320). -/
def State.reinject (s : State) (node : Nat) : State :=
  let s := s.refillReroute node
  let w := s.switch node
  s.setSwitch node { w with reroute := w.reroute.map fun r => s.rerouteBy node w.routes r }

/-- New route tables for every node (R319). -/
def State.newRoutes (s : State) : State :=
  (s.nodes.map fun n => (n, s.routesFrom n)).foldl (fun (s : State) t => s.setSwitch t.1 { s.switch t.1 with routes := t.2 }) s

/-- The running nodes that die `d` has no route to, or from. -/
def State.lacks (s : State) (d : Nat) : List Nat :=
  s.nodes.filter fun e => decide (e ≠ d) && ((find? (s.switch d).routes e).isNone || (find? (s.switch e).routes d).isNone)

/-- Die `d` has no route to or from some running node (R321). -/
def State.isolated (s : State) (d : Nat) : Bool := !(s.lacks d).isEmpty

/-- Of the running dies that lack a route, the one that lacks most; the lowest of several. -/
def State.worst (s : State) : Option Nat :=
  (upto 24).foldl (fun (b : Option Nat) d =>
    if !s.dieUp d ∨ !s.isolated d then b
    else if (b.map fun e => decide ((s.lacks d).length ≤ (s.lacks e).length)).getD false then b else some d) none

/-- A die cut off from others leaves service, or, while a partition under reset holds its ports down, resets with that partition (R321, R505); then
the routes are looked at anew, so a die that only lacked a route to one that has left stays. DESIGN CHOICE: R321 calls both ends of a missing route
isolated; the model takes out the die that lacks most routes first. -/
def State.dropCutOff : Nat → State → State
  | 0, s => s
  | n + 1, s =>
    match s.worst with
    | none => s
    | some d =>
      let s := match (upto 24).find? fun r => decide ((s.die r).part = .resetting) with
        | some r => s.startReset d (s.die r).partCode
        | none => s.leaveService d (mkCode 0x80B000DD d)
      State.dropCutOff n s.newRoutes

/-- New route tables; cut-off dies leave; rerouted messages are injected again (R319-R321, R505). -/
def State.recomputeRoutes (s : State) : State :=
  let s := s.newRoutes.dropCutOff 24
  s.nodes.foldl (fun (s : State) n => s.reinject n) s

/-- ROUTE_RECOMPUTE. -/
def execRouteRecompute (s : State) : Host.Outcome State Fault Refusal := .next (if !s.inService then s else s.recomputeRoutes)

/-! ### Forwarding -/

/-- The port may send a message: it holds a credit for each of its flits, and its replay buffer has room (R311, R313). -/
def HPort.canSend (p : HPort) (m : HdgMsg) : Bool :=
  decide (p.replay.length + m.flits ≤ 1024) && decide (m.flits ≤ getD 0 p.credits m.vc + getD 0 p.credits 8)

/-- Send one flit of a message on the group whose turn it is: a dedicated credit first; the flit returns ACKSEQ and credits (R310, R311, R313). -/
def HPort.sendFlit (p : HPort) (m : HdgMsg) (cont : Bool) : HPort :=
  let pool := if 0 < getD 0 p.credits m.vc then m.vc else 8
  let (c, p) := p.giveCredits
  { p with txSeq := p.txSeq + 1, credits := setD 0 p.credits pool (getD 0 p.credits pool - 1), nextGroup := p.turn + 1, ackDue := false,
           replay := p.replay ++ [{ seq := p.txSeq, ack := p.rxSeq - 1, cvc := c.1, ccnt := c.2, group := p.turn, cont := cont, msg := m }] }

/-- Send a message: the further data flit of a large one takes the next SEQ (R309). -/
def HPort.send (p : HPort) (m : HdgMsg) : HPort := if m.more.isSome then (p.sendFlit m false).sendFlit m true else p.sendFlit m false

/-- Take message `i` out of a switch. The credits of its flits fall due on the port it came by; while another message of the same flit stays, they
go with that one. -/
def State.takeHeld (s : State) (node i : Nat) (h : Held) : State :=
  let w := s.switch node
  let rest := w.inbox.eraseIdx i
  match rest.findIdx? fun g => decide (g.port = h.port) && decide (g.seq = h.seq) && decide (h.port < 4) with
  | some j => s.setSwitch node { w with inbox := rest.mapIdx fun k g => if k = j then { g with credits := g.credits ++ h.credits } else g }
  | none =>
    let s := s.setSwitch node { w with inbox := rest }
    if h.credits.isEmpty ∨ 4 ≤ h.port then s
    else s.setHport { node := node, port := h.port } ((s.hport { node := node, port := h.port }).owe h.credits)

/-- Take message `i` out of the reroute buffer. -/
def State.takeRerouted (s : State) (node i : Nat) : State :=
  let w := s.switch node
  (s.setSwitch node { w with reroute := w.reroute.eraseIdx i }).refillReroute node

/-- A message of the node's own: SRC, the reset generation of the node, and the turn from its route table (R319, Table 11-3). -/
def State.stamp (s : State) (node : Nat) (m : HdgMsg) : HdgMsg :=
  let gen := if node < 24 then (s.die node).rgen.toNat else 0
  let m := { m with hdr := setField (setField m.hdr 119 115 node) 71 68 gen }
  match find? (s.switch node).routes m.dst with
  | some r => m.setRoute r
  | none => m.setLevel 0

/-- A message to a partition that is not in service goes no further: its holder answers a request with status 6, and drops the others (R321, R502). -/
def State.answerGone (s : State) (node : Nat) (m : HdgMsg) : State :=
  if m.cls ≠ 0 ∨ (m.src < 24 ∧ !s.dieUp m.src) then s
  else
    let h := setField (setField (setField m.hdr 127 126 2) 124 120 m.src) 15 0 6
    let a := s.stamp node { hdr := h, data := none, poison := false, more := none }
    let w := s.switch node
    s.setSwitch node (if m.src = node then { w with delivered := w.delivered ++ [a] }
      else { w with inbox := w.inbox ++ [{ port := 4, seq := 0, credits := [], msg := a }] })

/-- Charge the flits of a message that a unit of a die sends to the composition of its CONTEXT, on the sending core's slice, or on the composition's
lowest slice of the die where another unit sends it (Table 14-6, R406). -/
def State.meterMsg (s : State) (node : Nat) (m : HdgMsg) : State :=
  match s.compOfCtx m.context with
  | none => s
  | some c =>
    if m.dst = node ∨ m.context = 0 ∨ 24 ≤ node ∨ (m.dst < 24 ∧ !s.dieUp m.dst) then s
    else
      match if m.unit < 8 then some (8 * node + m.unit) else s.lowestOn c node with
      | some k => s.meterKey k (16 * c + 6) m.flits
      | none => s

/-- The destination home segment withholds its request credits: a request for it waits in the switch (R259, R265, R314). UNIT 8-11 names the
segment (Table 11-3). -/
def State.unitWaits (s : State) (node : Nat) (m : HdgMsg) : Bool :=
  let unit := m.unit
  decide (node < 24) && decide (m.cls = 0) && decide (8 ≤ unit) && decide (unit ≤ 11) && (s.die node).withholds (unit - 8)

/-- The column that a message of a headland goes by: that of the port it came by or starts at (R317). -/
def State.column (s : State) (node port : Nat) (m : HdgMsg) : Nat :=
  if port < 4 then port else ((find? (s.switch node).routes m.dst).map (·.port)).getD 0

/-- Handle a message that stands at a node: `take` removes it from where it is, `block` is what becomes of it where the next hop, in a direction, is
not active; without credits it waits (R313, R314, R317, R320, R502, R503). -/
def State.pass (s : State) (node port : Nat) (m : HdgMsg) (take : State → State) (block : State → Nat → State) : State :=
  if s.staleMsg m then take s
  else if m.dst < 24 ∧ !s.dieUp m.dst then (take s).answerGone node m
  else
    let a := s.spotOf node (s.column node port m)
    match s.forward a m.level m.mrow m.mcol m.dst with
    | .deliver =>
      if s.unitWaits node m then s
      else
        let s := take s
        s.setSwitch node { s.switch node with delivered := (s.switch node).delivered ++ [m] }
    | .hop l hop =>
      match hop with
      | .blocked dir => block s dir
      | .bypass b =>
        match s.portAt b 0 with
        | some p =>
          let s := take s
          s.setSwitch p.node { s.switch p.node with
            inbox := (s.switch p.node).inbox ++ [{ port := 4, seq := 0, credits := [], msg := m.setLevel l }] }
        | none => s
      | .port dir _ =>
        match s.portAt a dir with
        | some p =>
          if (s.hport p).canSend (m.setLevel l) then
            let s := take s
            s.setHport p ((s.hport p).send (m.setLevel l))
          else s
        | none => s

/-- A message whose next hop is not active moves to the reroute buffer, where that has room; else it stays where it is (R320). -/
def State.toReroute (s : State) (node : Nat) (m : HdgMsg) (take : State → State) (dir : Nat) : State :=
  if (s.switch node).rerouteRoom dir < m.flits then s
  else
    let s := take s
    s.setSwitch node { s.switch node with reroute := (s.switch node).reroute ++ [{ port := dir, msg := m, ready := false }] }

/-- SWITCH_FORWARD: a switch delivers a message, hands it to the next port or bypass link, or moves it to the reroute buffer. A message of a unit of
the node is injected (R319); one in the reroute buffer waits for its new route. -/
def execSwitchForward (node : Nat) (src : FwdSource) (s : State) : Host.Outcome State Fault Refusal :=
  .next (
    if !(decide (node < 24) || decide (node = 0x1E) || decide (node = 0x1F)) ∨ !s.nodeUp node then s
    else
      match src with
      | .held i =>
        match (s.switch node).inbox[i]? with
        | none => s
        | some h =>
          if !h.msg.whole then s
          else s.pass node h.port h.msg (fun s => s.takeHeld node i h) (fun t dir => t.toReroute node h.msg (fun t => t.takeHeld node i h) dir)
      | .rerouted i =>
        match (s.switch node).reroute[i]? with
        | none => s
        | some r =>
          if !r.ready then s
          else
            s.pass node 4 r.msg (fun s => s.takeRerouted node i) (fun t dir =>
              t.setSwitch node { t.switch node with
                reroute := (t.switch node).reroute.mapIdx fun j x => if j = i then { x with port := dir, ready := false } else x })
      | .injected m =>
        if !m.whole then s
        else
          let m := s.stamp node m
          if m.dst ≠ node ∧ (find? (s.switch node).routes m.dst).isNone ∧ !(m.dst < 24 ∧ !s.dieUp m.dst) then s.toReroute node m (fun t => t.meterMsg node m) 0
          else s.pass node 4 m (fun t => t.meterMsg node m) (fun t dir => t.toReroute node m (fun t => t.meterMsg node m) dir))

/-- Every active port that owes an ACKSEQ or credits sends an idle flit (R310). DESIGN CHOICE: the spec does not say when idle flits go; the model
sends them while no command waits. -/
def State.idleFlits (s : State) : State :=
  { s with dies := mapVals (fun _ (x : Die) => if x.part = .inService then { x with ports := mapVals (fun _ p => p.idle) x.ports } else x) s.dies,
           hlPorts := mapVals (fun _ p => p.idle) s.hlPorts }

/-- REPLAY_WINDOW_END: a port's 1 s window of replays ends; more than the threshold in force are reported, and HDG_REPLAY_THR is taken for
the next window (R322, Table 11-5). -/
def execReplayWindowEnd (p : PortRef) (s : State) : Host.Outcome State Fault Refusal :=
  .next (
    if !portExists p ∨ !s.nodeUp p.node then s
    else
      let x := s.hport p
      let s := if x.thr < x.winReplays then s.reportNode p.node (0x10B000D8 + p.port) else s
      s.setHport p { x with winReplays := 0, thr := s.reg .hdgReplayThr (nodeBlock p.node) 0 })

end Sys2Proof.Machine
end

