-- ==== Sys2Proof/Machine/Floating.lean ====
section
/-! DEFINITION. The floating and conversion classes (Tables 05-4 and 05-6). -/

namespace Sys2Proof.Machine

open Sys2Proof

/-- Two-source floating operation, on FP32 or on both halves of BF16 pairs. -/
def State.flt2 (s : State) (d : DrillRef) (f : Fetched) (op : Nat) (h : Word → Word → Word) : State :=
  s.alu d f 0x2 op fun x act => x.writeEach f.word act fun t =>
    let pair := iBF2 f.word
    let a := x.fA f.word pair t
    let b := x.fB f.word pair t
    if pair then bfPair2 h a b else h a b

/-- One-source floating operation on FP32. -/
def State.flt1 (s : State) (d : DrillRef) (f : Fetched) (op : Nat) (h : Word → Word) : State :=
  s.alu d f 0x2 op fun x act => x.writeEach f.word act fun t => h (x.fA f.word false t)

def execFadd (d : DrillRef) (f : Fetched) (s : State) : Host.Outcome State Fault Refusal :=
  .next (s.flt2 d f 0x00 fadd32)

def execFsub (d : DrillRef) (f : Fetched) (s : State) : Host.Outcome State Fault Refusal :=
  .next (s.flt2 d f 0x01 fsub32)

def execFmul (d : DrillRef) (f : Fetched) (s : State) : Host.Outcome State Fault Refusal :=
  .next (s.flt2 d f 0x02 fmul32)

def execFmac (d : DrillRef) (f : Fetched) (s : State) : Host.Outcome State Fault Refusal :=
  .next (s.alu d f 0x2 0x03 fun x act => x.writeEach f.word act fun t =>
    let pair := iBF2 f.word
    let a := x.fA f.word pair t
    let b := x.fB f.word pair t
    let c := x.srcC f.word t
    if pair then bfPair3 fmac32 a b c else fmac32 a b c)

def execFmin (d : DrillRef) (f : Fetched) (s : State) : Host.Outcome State Fault Refusal :=
  .next (s.flt2 d f 0x04 fmin32)

def execFmax (d : DrillRef) (f : Fetched) (s : State) : Host.Outcome State Fault Refusal :=
  .next (s.flt2 d f 0x05 fmax32)

def execFtest (d : DrillRef) (f : Fetched) (s : State) : Host.Outcome State Fault Refusal :=
  .next (s.alu d f 0x2 0x06 fun x act => x.writePred f.word act fun t =>
    floatCond (iModBits f.word 10 8) (x.fA f.word false t) (x.fB f.word false t))

def execFrcp (d : DrillRef) (f : Fetched) (s : State) : Host.Outcome State Fault Refusal :=
  .next (s.flt1 d f 0x07 (approx32 0x07))

def execFrsq (d : DrillRef) (f : Fetched) (s : State) : Host.Outcome State Fault Refusal :=
  .next (s.flt1 d f 0x08 (approx32 0x08))

def execFsqrt (d : DrillRef) (f : Fetched) (s : State) : Host.Outcome State Fault Refusal :=
  .next (s.flt1 d f 0x09 fsqrt32)

def execFex2 (d : DrillRef) (f : Fetched) (s : State) : Host.Outcome State Fault Refusal :=
  .next (s.flt1 d f 0x0A (approx32 0x0A))

def execFlg2 (d : DrillRef) (f : Fetched) (s : State) : Host.Outcome State Fault Refusal :=
  .next (s.flt1 d f 0x0B (approx32 0x0B))

def execFtanh (d : DrillRef) (f : Fetched) (s : State) : Host.Outcome State Fault Refusal :=
  .next (s.flt1 d f 0x0C (approx32 0x0C))

def execFsin (d : DrillRef) (f : Fetched) (s : State) : Host.Outcome State Fault Refusal :=
  .next (s.flt1 d f 0x0D (approx32 0x0D))

def execFcos (d : DrillRef) (f : Fetched) (s : State) : Host.Outcome State Fault Refusal :=
  .next (s.flt1 d f 0x0E (approx32 0x0E))

/-- The BF16 pair products are exact and rounded once with the addend; the modifiers act on both halves of a pair. -/
def execFdotbp (d : DrillRef) (f : Fetched) (s : State) : Host.Outcome State Fault Refusal :=
  .next (s.alu d f 0x2 0x0F fun x act => x.writeEach f.word act fun t =>
    fdotbp (x.fA f.word true t) (x.fB f.word true t) (x.srcC f.word t))

/-- A conversion of `v` by the word's DFMT, RND and SAT (R154). -/
def cvtTo (w : DWord) (v : FVal) : Word :=
  match cvtFmt (iModBits w 10 7) with
  | some df => cvtEncode df (rndOf (iModBits w 2 1)) (bit w 24) v
  | none => 0

/-- The source value of a conversion by the word's SFMT. -/
def cvtFrom (w : DWord) (a : Word) : FVal :=
  match cvtFmt (iModBits w 6 3) with
  | some sf => cvtDecode sf a
  | none => .nan

def execCvt (d : DrillRef) (f : Fetched) (s : State) : Host.Outcome State Fault Refusal :=
  .next (s.alu d f 0x3 0x00 fun x act => x.writeEach f.word act fun t => cvtTo f.word (cvtFrom f.word (x.srcA f.word t)))

def execCvts (d : DrillRef) (f : Fetched) (s : State) : Host.Outcome State Fault Refusal :=
  .next (s.alu d f 0x3 0x01 fun x act => x.writeEach f.word act fun t =>
    cvtTo f.word (scaleBy (bits (x.srcB f.word t) 7 0) (cvtFrom f.word (x.srcA f.word t))))

/-- QMX on one lane group: the active threads from `lo` to `hi` form one block (R155). With a drill-uniform source and destination
the instruction runs once and the block has one value. -/
def qmxGroup (w : DWord) (x : Drill) (ts : List Nat) (y : Drill) : Drill :=
  match ts, qmxElem (iModBits w 10 7) with
  | _ :: _, some e =>
    let q := quantBlock e (ts.map fun t => f32 (x.srcA w t))
    (ts.zip q.codes).foldl (fun y tc => y.wr (iDU w) tc.1 (iDst w) (BitVec.ofNat 32 (q.scale % 256 * 256 + tc.2 % 256))) y
  | _, _ => y

def execQmx (d : DrillRef) (f : Fetched) (s : State) : Host.Outcome State Fault Refusal :=
  .next (s.alu d f 0x3 0x02 fun x act =>
    let ts := execThreads f.word act
    qmxGroup f.word x (ts.filter fun t => decide (32 ≤ t)) (qmxGroup f.word x (ts.filter fun t => decide (t < 32)) x))

end Sys2Proof.Machine
end

