-- ==== Sys2Proof/Machine/Transfer.lean ====
section
/-! DEFINITION. The transfer engines: descriptor checks, chunks, their sources and destinations, tallies, completion (R174-R193). -/

namespace Sys2Proof.Machine

open Sys2Proof

/-! ## Queues -/

def XQueue.slice (q : XQueue) : Nat := 8 * q.die + q.q

/-- Replace the transfers of a queue. -/
def State.setXfers (s : State) (q : XQueue) (xs : List Xfer) : State :=
  if q.q < 8 then s.modCore (XQueue.slice q) fun c => { c with xfers := xs } else s.modDie q.die fun d => { d with reeveXfers := xs }

def State.xfer? (s : State) (q : XQueue) (t : Word) : Option Xfer := (s.xfers q).find? fun x => decide (x.token = t)
def State.modXfer (s : State) (q : XQueue) (t : Word) (f : Xfer → Xfer) : State :=
  s.setXfers q ((s.xfers q).map fun x => if x.token = t then f x else x)

/-- The slice to which a queue's work is charged (R406, R455). -/
def XQueue.payer (q : XQueue) : Nat := if q.q < 8 then XQueue.slice q else 8 * q.die

/-! ## Descriptor checks (R180) -/

namespace XferDesc

def add (d : XferDesc) : Bool := decide (d.op = 1 ∨ d.op = 2)

/-- Every row of one side lies in the seedbed, offsets taken modulo `2^k` of the address form. -/
def rowsInside (first stride : Int) (rows len : Nat) : Bool :=
  let last := first + stride * (rows - 1 : Nat)
  decide (0 ≤ min first last) && decide (max first last + len ≤ 0x400000)

/-- The checks that depend on the descriptor alone. -/
def valid (d : XferDesc) (w : List DWord) : Bool :=
  let side (k : Nat) : Bool := decide (k ≤ 2)
  decide (d.op ≤ 3) && decide (d.skind ≤ 4) && decide (d.dkind ≤ 5) && decide (d.len ≠ 0) &&
  decide (bits (w.getD 4 0) 63 14 = 0) && decide (bits (w.getD 5 0) 63 17 = 0) && decide (w.getD 6 0 = 0) && decide (w.getD 7 0 = 0) &&
  (side d.skind || side d.dkind) &&
  (decide (d.skind = 1) || decide (d.shint = 0)) && (decide (d.dkind = 1) || decide (d.dhint = 0)) &&
  (decide (d.skind ≠ 2) || (decide (d.saddr % 256 = 0) && decide (d.len % 256 = 0) && decide (d.sstride % 256 = 0))) &&
  (decide (d.dkind ≠ 2) || (decide (d.daddr % 256 = 0) && decide (d.len % 256 = 0) && decide (d.dstride % 256 = 0))) &&
  (!d.add || (decide (d.dkind = 1) && decide (d.len % 4 = 0) && decide (d.dstride % 4 = 0) && decide (d.daddr % 4 = 0))) &&
  (decide (d.op ≠ 3) || (decide (d.skind = 0) && decide (d.len % 8 = 0))) &&
  (!d.tally || (decide (d.dkind ≠ 3) && decide (d.tslice < 192))) &&
  (d.tally || decide (w.getD 4 0 = 0)) && (d.crec || decide (d.caddr = 0)) &&
  (decide (d.nrows = 1) || decide ((d.len : Int) ≤ d.dstride.natAbs)) &&
  (d.isFill || decide (d.skind ≠ 0) || rowsInside d.saddr d.sstride d.nrows d.len) &&
  (decide (d.dkind ≠ 0) || rowsInside d.daddr d.dstride d.nrows d.len) &&
  (decide (d.dkind ≠ 5) || (decide (d.daddr / 2 ^ 60 = 0) && decide (d.daddr / 2 ^ 40 % 256 = 0) && decide (d.daddr / 2 ^ 22 % 1024 = 0) &&
    decide (d.daddr / 2 ^ 32 % 256 < 192) && rowsInside (d.daddr % 2 ^ 22 : Nat) d.dstride d.nrows d.len)) &&
  !anyOverlap d.sSpans d.dSpans

/-- The panel fields that one side names: those of the first and last byte of every row, addresses taken modulo 2^64. -/
def fields (s : State) (c : Nat) (row : Nat → Int) (rows len : Nat) : List PanelField :=
  (upto rows).flatMap fun r => [s.panelField c (BitVec.ofInt 64 (row r)), s.panelField c (BitVec.ofInt 64 (row r + len - 1))]

def sFields (s : State) (c : Nat) (d : XferDesc) : List PanelField := fields s c d.srow d.nrows d.len
def dFields (s : State) (c : Nat) (d : XferDesc) : List PanelField := fields s c d.drow d.nrows d.len

/-- The panel that a SLICE destination names. -/
def dpanel (s : State) (c : Nat) (d : XferDesc) : PanelField := s.panelField c (BitVec.ofNat 64 d.daddr)

/-- Every row of one side has its reserved bits [63:60] 0 (R9). -/
def reservedOk (row : Nat → Int) (rows len : Nat) : Bool :=
  (upto rows).all fun r => decide (0 ≤ row r) && decide (row r + len ≤ 2 ^ 60)

/-- The checks that depend on the panel's address: a DEVICE or UNCACHED side here, a REMOTE side elsewhere, in every row (R180); a SLICE
destination in the issuing core's own seedbed must not overlap the source. -/
def panelsOk (s : State) (c slice : Nat) (d : XferDesc) : Bool :=
  let here (l : List PanelField) : Bool := l.all fun f => decide (f = .here)
  let away (l : List PanelField) : Bool := l.all fun f => decide (f ≠ .here)
  (d.isFill || decide (d.skind ≠ 1 ∧ d.skind ≠ 2) || here (sFields s c d)) &&
  (decide (d.dkind ≠ 1 ∧ d.dkind ≠ 2) || here (dFields s c d)) &&
  (d.isFill || decide (d.skind ≠ 4) || (away (sFields s c d) && reservedOk d.srow d.nrows d.len)) &&
  (decide (d.dkind ≠ 4) || (away (dFields s c d) && reservedOk d.drow d.nrows d.len)) &&
  (decide (d.dkind ≠ 5 ∨ d.skind ≠ 0) || d.isFill || decide (dpanel s c d ≠ .here) || decide (d.daddr / 2 ^ 32 % 256 ≠ slice) ||
    !anyOverlap d.sSpans (spanOf 0 (d.daddr % 2 ^ 22 : Nat) ((d.daddr % 2 ^ 22 : Nat) + d.dstride * (d.nrows - 1 : Nat)) d.len))

/-- The destination, or the source, lies on another panel. -/
def toRemote (s : State) (c : Nat) (d : XferDesc) : Bool := decide (d.dkind = 4) || (decide (d.dkind = 5) && decide (dpanel s c d ≠ .here))
def fromRemote (d : XferDesc) : Bool := !d.isFill && decide (d.skind = 4)

/-! ### Chunks (R192) -/

/-- Where row `r` begins within the blocks that its chunks are cut at: 256-byte blocks of the destination, or for REMOTE and SLICE destinations 256
bytes from its first aligned 64-bit word, so that each word written whole is written at once (R192, R200). -/
def rowStart (d : XferDesc) (r : Nat) : Nat := (d.drow r % (if 4 ≤ d.dkind then 8 else 256)).toNat

/-- Chunks of row `r`. -/
def chunksIn (d : XferDesc) (r : Nat) : Nat := ceilDiv (d.rowStart r + d.len) 256

/-- Offset and length of chunk `j` of row `r`. -/
def chunkAt (d : XferDesc) (r j : Nat) : Nat × Nat :=
  let lo := 256 * j - d.rowStart r
  (lo, min d.len (256 * (j + 1) - d.rowStart r) - lo)

/-- Row, offset and length of chunk `i`. -/
def placeFrom (d : XferDesc) : Nat → Nat → Nat → Option (Nat × Nat × Nat)
  | 0, _, _ => none
  | n + 1, r, i => if i < d.chunksIn r then some (r, d.chunkAt r i) else placeFrom d n (r + 1) (i - d.chunksIn r)
def place (d : XferDesc) (i : Nat) : Option (Nat × Nat × Nat) := placeFrom d d.nrows 0 i

/-- Chunks in all. -/
def total (d : XferDesc) : Nat := ((upto d.nrows).map fun r => d.chunksIn r).sum

/-- Up to 16 consecutive chunks of one row from chunk `i`: one frame's worth (Table 12-3). -/
def frameFrom (d : XferDesc) (i : Nat) : List (Nat × Nat × Nat) :=
  match d.place i with
  | none => []
  | some (r, o, l) => ((upto 16).filterMap fun k => d.place (i + k)).takeWhile fun p => decide (p.1 = r) && decide (o ≤ p.2.1) && decide (l ≠ 0)

end XferDesc

/-! ## Statuses (Table 06-5) -/

/-- A status after which no further chunk is issued (R188, R457). -/
def stops (st : Nat) : Bool := [1, 2, 4, 5, 6, 8].contains st
def Xfer.stopped (x : Xfer) : Bool := x.bad.any stops || x.descPoisoned
/-- The lowest nonzero status met. -/
def lowestStatus (l : List Nat) : Nat := l.foldl (fun a b => if a = 0 ∨ (b ≠ 0 ∧ b < a) then b else a) 0

/-! ## Sources -/

/-- What reading or writing a chunk comes to: done, a failure's status, held at translation, or waiting for sector `n` at its home. -/
inductive Moved (α : Type) where
  | ok (a : α)
  | fail (status : Nat)
  | held
  | wait (n : Nat)
  deriving Repr

/-- What follows a move that is done. -/
def Moved.bind {α β : Type} (m : Moved α) (f : α → Moved β) : Moved β :=
  match m with
  | .ok a => f a
  | .fail st => .fail st
  | .held => .held
  | .wait n => .wait n

/-- Bytes with a poison mark each. -/
abbrev Marked := List (Byte × Bool)

/-- Some byte is marked. -/
def anyPoison (bs : Marked) : Bool := bs.any (·.2)

/-- Where offset `a` of a composition's space lies for a transfer: its translation, or why it cannot be had (R391, R394, R400, R502, R504). -/
def State.xferPlace (s : State) (c : Nat) (e : Byte) (a : Nat) (write load : Bool) : Moved Xlat :=
  match s.translate c e a with
  | none => .fail 2
  | some y =>
    if write ∧ y.ro ∧ !load then .fail 2
    else if s.heldAt c e y then .held
    else if s.servable y ∨ (write ∧ s.dieUp (dieOfDpa y.dpa)) then .ok y
    else
      match s.replicaOf y with
      | some p => if s.dieUp (dieOfDpa p) ∧ !write then .ok { y with dpa := p } else .fail 6
      | none => if y.ro ∧ !write ∧ (s.die (dieOfDpa y.dpa)).part ≠ .outOfService then .held else .fail 6

/-- The offset on the panel of a composition address. -/
def offsetOf (a : Int) : Nat := (a % 2 ^ 48).toNat

/-- Cut [a, a + n) at 256-byte boundaries. -/
def pieces (a : Int) (n : Nat) : Nat → List (Int × Nat)
  | 0 => []
  | k + 1 =>
    let room := 256 - (a % 256).toNat
    if n = 0 then []
    else if n ≤ room then [(a, n)]
    else (a, room) :: pieces (a + room) (n - room) k

/-- How a read of device memory goes about it: whose it is, its hint, who pays, whether it allocates nothing, who waits, and which 256-byte blocks of the
address space it is the last to read, which a discarding source drops (Table 08-1, R237). -/
structure ReadHow where
  comp : Nat
  epoch : Byte
  hint : Nat
  payer : Nat
  uncached : Bool
  waiter : Waiter
  lastRead : Int → Bool

/-- Read runs of device memory, each within a sector. A poisoned sector of a page under refetch stalls the reader, and its pass carries the POISON
flag (R487, R488). -/
def State.readDevice (s : State) (h : ReadHow) : List (Int × Nat) → Moved (State × Marked)
  | [] => .ok (s, [])
  | (a, n) :: ps =>
    (s.xferPlace h.comp h.epoch (offsetOf a) false false).bind fun y =>
      let k := y.dpa / 256
      let discard := if h.lastRead (a / 256) then some (s.discardDebug h.comp y.ro) else none
      match s.ncRead k (if h.hint = 3 then 2 else h.hint) h.payer (h.uncached || y.uncached) discard h.waiter with
      | none => .wait k
      | some (s, v, p) =>
        if p ∧ y.refetchable ∧ s.refetching (pageOf y.dpa) then .held
        else
          let bs := (sectorBytes v (y.dpa % 256) n).map fun b => (b, p)
          (State.readDevice s h ps).bind fun r => .ok (r.1, bs ++ r.2)

/-- The 256-byte blocks of the source that chunk `j` reads. -/
def XferDesc.blocks (d : XferDesc) (j : Nat) : List Int :=
  match d.place j with
  | none => []
  | some (r, o, n) => (pieces (d.srow r + o) n 18).map fun p => p.1 / 256

/-- Read a chunk's source on this panel; `later`: the chunks that are still to read theirs, `w`: who waits. -/
def State.readChunk (s : State) (q : XQueue) (x : Xfer) (later : List Nat) (w : Waiter) (r o n : Nat) : Moved (State × Marked) :=
  let d := xferDesc x.desc
  let a := d.srow r + o
  let how (uncached : Bool) : ReadHow :=
    { comp := x.comp, epoch := x.epoch, hint := d.shint, payer := XQueue.payer q, uncached := uncached, waiter := w,
      lastRead := fun g => decide (d.shint = 3) && !(later.any fun j => (d.blocks j).contains g) }
  if d.isFill then
    .ok (s, (upto n).map fun i => (BitVec.ofNat 8 (d.saddr / 2 ^ (8 * ((o + i) % 8))), false))
  else
    match d.skind with
    | 0 =>
      let c := s.core (XQueue.slice q)
      .ok (s, (upto n).map fun i => (readByte c.seedbed (a.toNat + i), c.sbPoisoned (a.toNat + i) 1))
    | 1 => s.readDevice (how false) (pieces a n 18)
    | 2 => s.readDevice (how true) (pieces a n 18)
    | _ =>
      match s.hostFetch (s.compPasid x.comp) (BitVec.ofInt 64 a).toNat n with
      | some (s, bs) => .ok (s.meterOut (XQueue.payer q) 8 n, bs.map fun b => (b, false))
      | none => .fail 5

/-! ## Destinations -/

/-- Write marked bytes into a core's seedbed. -/
def Core.sbMarked (c : Core) (a : Nat) (bs : Marked) : Core :=
  let c := c.sbWrite a (bs.map (·.1)) false
  let bad := (bs.mapIdx fun i b => (a + i, b.2)).filter (·.2)
  { c with sbPoison := bad.foldl (fun l e => addOnce (e.1 / 32) l) c.sbPoison }

/-- Write marked bytes to the seedbed of a slice; a context that is switched out takes them in its saved image (R453). -/
def State.sliceWrite (s : State) (k a : Nat) (bs : Marked) : State :=
  s.modCore k fun c =>
    match c.saved with
    | none => c.sbMarked a bs
    | some v =>
      let t := { c with seedbed := v.seedbed, sbPoison := v.sbPoison }.sbMarked a bs
      { c with saved := some { v with seedbed := t.seedbed, sbPoison := t.sbPoison } }

/-- Write marked bytes of one sector of device memory, at offset `a` of the composition's space; poisoned source bytes poison the sector, in DRAM too
where the write goes through (R236, Table 06-5). -/
def State.writeDevice (s : State) (c : Nat) (e : Byte) (kind : NcWriteKind) (hint payer : Nat) (uncached load : Bool) (w : Waiter) (a : Nat)
    (bs : Marked) : Moved State :=
  (s.xferPlace c e a true load).bind fun y =>
    let n := y.dpa / 256
    match s.ncWrite n (y.dpa % 256) (bs.map (·.1)) kind (anyPoison bs) (if hint = 3 then 2 else hint) payer (uncached || y.uncached) w with
    | none => .wait n
    | some s => .ok s

/-- A slice destination on this panel: its die in service (6), the slice bound to the composition (2). A slice that is leaving still takes the
requests of the previous epoch, whose map has it (R391, R394, R502). -/
def State.sliceStatus (s : State) (c : Nat) (e : Byte) (k : Nat) : Nat :=
  if !s.dieUp (dieOf k) then 6
  else
    match s.owner? k with
    | some (o, leaving) =>
      if o ≠ c then 2
      else if leaving ∧ !((s.comp? c).bind fun x => x.mapOf e).any (fun m => m.slices.contains k) then 2
      else 0
    | none => 2

/-- The runs of unmarked bytes, each with its offset. -/
def cleanRuns : Nat → Marked → List (Nat × List Byte)
  | _, [] => []
  | i, (b, p) :: bs =>
    let rest := cleanRuns (i + 1) bs
    if p then rest
    else
      match rest with
      | (j, r) :: rs => if j = i + 1 then (i, b :: r) :: rs else (i, [b]) :: rest
      | [] => [(i, [b])]

/-- Bytes of marked data that host memory takes: poisoned ones are not written (Table 06-5); watchers of the lines wake (R125). -/
def State.hostMarked (s : State) (f : Nat) (pasid : Option Nat) (a : Nat) (bs : Marked) : Option (State × Bool) :=
  if !s.hostOk pasid a bs.length then none
  else
    ((cleanRuns 0 bs).foldl (fun (r : Option (State × Bool)) e =>
      r.bind fun r => (r.1.hostWrite f pasid (a + e.1) e.2).map fun t => (t.1, r.2 || t.2)) (some (s, false))).map fun r =>
      (r.1.hostWake pasid a bs.length, r.2)

/-- A LOAD that the reeve received after a refetch of the page at composition address `a` began waits for its end (R490). -/
def State.loadHeld (s : State) (q : XQueue) (x : Xfer) (a : Int) : Bool :=
  match x.use with
  | .drill _ => false
  | .load _ =>
    match s.translate x.comp x.epoch (offsetOf a) with
    | none => false
    | some y =>
      match find? (s.die (dieOfDpa y.dpa)).refetch (pageOf y.dpa) with
      | some r => !r.after.contains (q.die, x.token)
      | none => false

/-- Write a chunk at its destination on this panel. -/
def State.writeChunk (s : State) (q : XQueue) (x : Xfer) (w : Waiter) (r o : Nat) (bs : Marked) : Moved State :=
  let d := xferDesc x.desc
  let a := d.drow r + o
  let load := match x.use with
    | .load _ => true
    | _ => false
  if s.loadHeld q x a then .held
  else match d.dkind with
  | 0 => .ok (s.modCore (XQueue.slice q) fun c => c.sbMarked a.toNat bs)
  | 1 => s.writeDevice x.comp x.epoch (if d.op = 1 then .addF32 else if d.op = 2 then .addBf16 else .write) d.dhint (XQueue.payer q) false load w
      (offsetOf a) bs
  | 2 => s.writeDevice x.comp x.epoch .write 0 (XQueue.payer q) true load w (offsetOf a) bs
  | 3 =>
    let f := ((s.comp? x.comp).map (·.fn)).getD 0
    match s.hostMarked f (s.compPasid x.comp) (BitVec.ofInt 64 a).toNat bs with
    | none => .fail 5
    | some (s, due) =>
      let s := s.meterOut (XQueue.payer q) 8 bs.length
      .ok (if due then s.dueCodes f [mkCode 0x10D000F5 f] else s)
  | _ =>
    let k := d.daddr / 2 ^ 32 % 256
    let st := s.sliceStatus x.comp x.epoch k
    if st ≠ 0 then .fail st
    else
      let s := s.sliceWrite k ((d.daddr % 2 ^ 22 : Nat) + d.dstride * r + o).toNat bs
      .ok (if dieOf k = q.die then s else s.meter (XQueue.payer q) 6 (accessFlits bs.length))

/-! ## Tallies (R192, R193) -/

/-- Count a performed chunk of `n` bytes on counter `i` of slice `k` for context `ctx`: the state, and 7 where the counter is another's.
A frozen counter ignores the increment. -/
def State.tallyChunk (s : State) (k i n : Nat) (ctx : Half) : State × Nat :=
  if !s.dieUp (dieOf k) then (s, 6)
  else
    let t := (s.core k).tally i
    if t.owner ≠ some ctx then (s, 7)
    else if t.frozen then (s, 0)
    else
      (s.modCore k fun c => ({ c with tallies := insert c.tallies i { t with value := t.value + BitVec.ofNat 32 n } } : Core).releaseWaits, 0)

/-- Note that chunk `i` is done, with the statuses it met. -/
def State.chunkDone (s : State) (q : XQueue) (t : Word) (is : List Nat) (sts : List Nat) : State :=
  s.modXfer q t fun x =>
    let done := is.foldl (fun l i => addOnce i l) x.done
    { x with done := done, bad := x.bad ++ sts.filter (fun st => decide (st ≠ 0)),
             freedR := x.freedR || decide (done.length = (xferDesc x.desc).total) }

/-- A chunk's data has been read: write it, count it, note it. -/
def State.landChunk (s : State) (q : XQueue) (x : Xfer) (w : Waiter) (i r o : Nat) (bs : Marked) : Moved State :=
  let d := xferDesc x.desc
  match s.writeChunk q x w r o bs with
  | .fail st => .ok (s.chunkDone q x.token [i] [st])
  | m =>
    m.bind fun s =>
      let (s, st) := if d.tally then s.tallyChunk d.tslice d.tctr bs.length x.context else (s, 0)
      .ok ((s.chunkDone q x.token [i] [st, if anyPoison bs then 3 else 0]).meter (XQueue.payer q) 9 bs.length)

/-! ## Frames to other panels (R332-R339) -/

/-- Frames of a transfer that are not acknowledged or answered. -/
def State.framesOut (s : State) (q : XQueue) (t : Word) : Bool :=
  s.link.conns.any fun e => (e.2.window ++ e.2.reads).any fun f => match f.use with
    | .xfer p u _ => decide (p = q) && decide (u = t)
    | .lease _ _ => false

/-- Read the chunks of a frame from chunk `i` up, in order; those behind them are still to be read. -/
def State.readFrame (s : State) (q : XQueue) (x : Xfer) (w : Waiter) : Nat → List (Nat × Nat × Nat) → Moved (State × Marked)
  | _, [] => .ok (s, [])
  | i, (r, o, n) :: ps =>
    let later := ((upto (xferDesc x.desc).total).filter fun j => decide (i < j))
    (s.readChunk q x later w r o n).bind fun a =>
      (State.readFrame a.1 q x w (i + 1) ps).bind fun b => .ok (b.1, a.2 ++ b.2)

/-- POISONMASK of a payload: chunk `k` is its bytes from 256 `k` up (R330). -/
def payloadPoison (bs : Marked) : Half :=
  BitVec.ofNat 16 (((upto 16).map fun k => if anyPoison ((bs.drop (256 * k)).take 256) then 2 ^ k else 0).sum)

/-- Issue the next frame of a transfer to or from another panel. A failure ends the chunks of the frame; `.held` while the window is full. -/
def State.issueFrame (s : State) (q : XQueue) (x : Xfer) : Moved State :=
  let d := xferDesc x.desc
  let ps := d.frameFrom x.issued
  match ps with
  | [] => .held
  | (r, o, _) :: _ =>
    let len := (ps.map fun p => p.2.2).sum
    let to_ := d.toRemote s x.comp
    let addr := if to_ then BitVec.ofInt 64 (d.drow r + o) else BitVec.ofInt 64 (d.srow r + o)
    let peer := bits addr 59 48
    -- every byte of the frame on the panel that its address names
    let last := if to_ then BitVec.ofInt 64 (d.drow r + o + len - 1) else BitVec.ofInt 64 (d.srow r + o + len - 1)
    let reach := s.panelField x.comp addr = .other ∧ bits last 59 48 = peer
    let pos := (s.die q.die).pos
    let h := s.headlandFor pos peer
    let next (s : State) : State := s.modXfer q x.token fun y =>
      { y with issued := y.issued + ps.length, freedR := y.freedR || (to_ && decide (d.total ≤ y.issued + ps.length)) }
    let failed (st : Nat) : Moved State := .ok ((next s).chunkDone q x.token ((upto ps.length).map fun k => x.issued + k) [st])
    let sent (m : Option State) : Moved State := match m with
      | none => .held
      | some s => .ok ((next s).notePeer x.comp peer)
    if !reach ∨ (s.livePorts h (s.conn (connKey h peer)).peerPorts).isEmpty then failed 4
    else
      let w2 (tally : Bool) (g : BitVec 4) : DWord := tltW2 x.context x.epoch x.comp (if tally then d.tslice else 0) (if tally then d.tctr else 0) tally g len
      if to_ then
        match s.readFrame q x (.chunk q x.token x.issued) x.issued ps with
        | .fail st => failed st
        | m =>
          m.bind fun a =>
            let s := if anyPoison a.2 then a.1.modXfer q x.token fun y => { y with bad := y.bad ++ [3] } else a.1
            sent ((s.sendWrite h peer addr (w2 d.tally) (payloadPoison a.2) (a.2.map (·.1)) (.xfer q x.token x.issued)).map fun s =>
              (s.meterOut (XQueue.payer q) 7 len).meter (XQueue.payer q) 9 len)
      else sent (s.sendReadReq h peer addr (w2 false) (.xfer q x.token x.issued))

/-- A chunk waits for a sector, and for no other meanwhile (R265). -/
def State.holdChunk (s : State) (q : XQueue) (t : Word) (i n : Nat) : State := s.holdOnly n (.chunk q t i)

/-- Issue frames while they can be sent. -/
def State.issueFrames : Nat → State → XQueue → Word → State
  | 0, s, _, _ => s
  | n + 1, s, q, t =>
    match s.xfer? q t with
    | none => s
    | some x =>
      let running := match x.phase with
        | .running _ => true
        | _ => false
      if !running ∨ x.stopped ∨ s.revokedCtx x.context then s
      else
        match s.issueFrame q x with
        | .ok s => State.issueFrames n s q t
        | .wait m => s.holdChunk q t x.issued m
        | _ => s

/-- A transfer that crosses panels. -/
def Xfer.remote (s : State) (x : Xfer) : Bool := (xferDesc x.desc).fromRemote || (xferDesc x.desc).toRemote s x.comp

/-! ## TRANSFER_START (R174, R180) -/

/-- Engines working for queue `q` of a die, and the queue's cap. -/
def Die.working (x : Die) (q : Nat) : Nat := (x.engines.filter fun e => decide (e.2 = some q)).length
def State.xferCap (s : State) (q : XQueue) : Nat :=
  let r := s.reg .memXferCap q.die 0
  (if q.q < 8 then r % 16 else r / 16 % 16) + 1

/-- The oldest waiting transfer of a queue that nothing holds. -/
def State.takeable (s : State) (q : XQueue) : Option Xfer :=
  if q.q < 8 ∧ !s.coreIssues (XQueue.slice q) then none
  else
    (s.xfers q).find? fun x =>
      decide (x.phase = .waiting) && !s.revokedCtx x.context &&
        (decide (8 ≤ q.q) || !(s.core (XQueue.slice q)).rangeHeld x.seq x.reads x.writes)

/-- The queues in visiting order from rotation place `p`: the reeve's first in each round. -/
def visitOrder (p : Nat) : List Nat := (upto 9).map fun i => match (p + i) % 9 with
  | 0 => 8
  | j => j - 1

/-- TRANSFER_START: an idle engine takes a transfer, checks its descriptor, and sends the first frames of one that crosses panels. -/
def execTransferStart (die engine : Nat) (s : State) : Host.Outcome State Fault Refusal :=
  .next (
    let x := s.die die
    if !s.inService ∨ !s.dieUp die ∨ 16 ≤ engine ∨ (getD none x.engines engine).isSome then s
    else
      let ok (i : Nat) : Option (XQueue × Xfer) :=
        let q : XQueue := { die := die, q := i }
        if s.xferCap q ≤ x.working i then none else (s.takeable q).map fun t => (q, t)
      match (visitOrder x.rotation).findSome? ok with
      | none => s
      | some (q, t) =>
        let pos := if q.q = 8 then 0 else q.q + 1
        let s := s.modDie die fun x => { x with engines := setD none x.engines engine (some q.q), rotation := (pos + 1) % 9 }
        let d := xferDesc t.desc
        let invalid := t.oddDesc || !(d.valid t.desc) || !(d.panelsOk s t.comp (XQueue.slice q))
        let bad := if t.descPoisoned then [3] else if invalid ∧ t.issued = 0 ∧ q.q < 8 then [1] else []
        let s := s.modXfer q t.token fun y => { y with phase := .running engine, bad := y.bad ++ bad }
        if t.remote s then s.issueFrames (d.total + 1) q t.token else s)

/-! ## TRANSFER_CHUNK_ARRIVE (R181-R193) -/

/-- TRANSFER_CHUNK_ARRIVE: chunk `i` of a running transfer is read, written and counted at its destination on this panel; one that
crosses panels sends its next frames. Something under way at a sector, a hold or a refetch holds the chunk. -/
def execTransferChunkArrive (q : XQueue) (t : Word) (i : Nat) (s : State) : Host.Outcome State Fault Refusal :=
  .next (
    if !s.inService ∨ !s.dieUp q.die then s
    else
      match s.xfer? q t with
      | none => s
      | some x =>
        let running := match x.phase with
          | .running _ => true
          | _ => false
        let d := xferDesc x.desc
        if !running ∨ x.stopped ∨ x.done.contains i ∨ s.revokedCtx x.context then s
        else if x.remote s then s.issueFrames (d.total + 1) q t
        else
          match d.place i with
          | none => s
          | some (r, o, n) =>
            let w : Waiter := .chunk q t i
            let later := (upto d.total).filter fun j => decide (j ≠ i) && !x.done.contains j
            match s.readChunk q x later w r o n with
            | .held =>
              -- a reader that stalls on poisoned shared weights flags its pass (R488)
              if d.skind = 1 ∨ d.skind = 2 then
                (match s.translate x.comp x.epoch (offsetOf (d.srow r + o)) with
                  | some y => if s.sectorPoisoned (y.dpa / 256) ∧ s.refetching (pageOf y.dpa) then s.flagPoison x.comp else s
                  | none => s)
              else s
            | .fail st => s.chunkDone q t [i] [st]
            | .wait n => (s.holdChunk q t i n).resetFaulties
            | .ok (s1, bs) =>
              match s1.landChunk q x w i r o bs with
              | .ok s2 => s2.resetFaulties
              | .wait n => (s.holdChunk q t i n).resetFaulties
              | _ => s)

/-! ## TRANSFER_COMPLETE (R184, R185, R188, R189) -/

/-- Every issued chunk has been answered and none is left to issue. -/
def State.xferFinished (s : State) (q : XQueue) (x : Xfer) : Bool :=
  !s.framesOut q x.token && (x.stopped || decide (x.done.length = (xferDesc x.desc).total))

/-- The latest complete token moves over transfers that finished in turn (R184). -/
def advanceTokens : Nat → Word → List XferDone → Word × List XferDone
  | 0, d, l => (d, l)
  | n + 1, d, l => if l.any fun e => decide (e.token = d + 1) then advanceTokens n (d + 1) (l.filter fun e => decide (e.token ≠ d + 1)) else (d, l)

/-- The completion status of a LOAD whose transfer ended with a status of Table 06-5 (Table 13-8). -/
def loadStatus (st : Nat) : Nat := if st = 0 then 0 else if st = 5 then 5 else if st = 6 then 6 else if st = 8 then 4 else if st ≤ 2 then 1 else 3

/-- TRANSFER_COMPLETE: the completion record is written, the token completes in token order, a failure is reported and fails its pass, the
engine is idle again. -/
def execTransferComplete (q : XQueue) (t : Word) (s : State) : Host.Outcome State Fault Refusal :=
  .next (
    if !s.inService ∨ !s.dieUp q.die then s
    else
      match s.xfer? q t with
      | none => s
      | some x =>
        let engine := match x.phase with
          | .running e => some e
          | _ => none
        if (engine.isNone ∧ !x.bad.contains 8) ∨ !s.xferFinished q x then s
        else
          let d := xferDesc x.desc
          let st := lowestStatus x.bad
          let s := if d.crec ∧ !x.descPoisoned ∧ q.q < 8 then
              s.modCore (XQueue.slice q) fun c => c.sbPut (32 * d.caddr) (natLe 8 (st * 2 ^ 60 + t.toNat))
            else s
          let s := match engine with
            | some e => s.modDie q.die fun y => { y with engines := setD none y.engines e none }
            | none => s
          let s := s.setXfers q ((s.xfers q).filter fun y => decide (y.token ≠ t))
          let fin : XferDone := { token := t, status := st }
          if q.q < 8 then
            let s := s.modCore (XQueue.slice q) fun c =>
              let (done, early) := advanceTokens (c.early.length + 1) c.xferDone (c.early ++ [fin])
              ({ c with xferDone := done, early := early } : Core).releaseWaits
            if st = 0 ∨ st = 8 then s
            else
              let s := s.reportComps (mkCode (0x4060007F + st) (XQueue.slice q)) [x.comp]
              if st = 3 ∧ !x.descPoisoned ∧ !d.isFill ∧ (d.skind = 1 ∨ d.skind = 2) then s.failPoison x.comp (d.saddr % 2 ^ 48) else s.failPass x.comp
          else
            let s := s.modDie q.die fun y =>
              let (done, early) := advanceTokens (y.reeveEarly.length + 1) y.reeveDone (y.reeveEarly ++ [fin])
              { y with reeveDone := done, reeveEarly := early }
            let s := if st = 0 ∨ st = 8 then s else s.logCode (mkCode (0x4060007F + st) 0xFF)
            match x.use with
            | .load e =>
              -- a LOAD of several transfers completes with its last one, or at the first failure
              let more := (s.xfers q).filter fun y => decide (y.use = .load e)
              if st ≠ 0 then
                (s.setXfers q ((s.xfers q).filter fun y => decide (y.use ≠ .load e ∨ y.phase ≠ .waiting))).complete e (loadStatus st)
              else if more.isEmpty then s.complete e 0
              else s
            | .drill _ => s)

end Sys2Proof.Machine
end

