-- ==== Sys2Proof/Machine/ScaleOut.lean ====
section
/-! DEFINITION. Scale-out: received frames, acknowledgements, resends, discovery and ports (R324-R343), frames held for an epoch (R397). -/

namespace Sys2Proof.Machine

open Sys2Proof

/-! ## Receiving a data frame (R327, R329, R331, R336) -/

/-- A scale-out port that is up while the panel is in service. -/
def State.portUp (s : State) (port : Nat) : Bool := s.inService && decide (port < 16) && bit s.link.up port

/-- Count a dropped frame. -/
def State.xltDrop (s : State) : State := s.count .xltDrop 0 0 1

/-- The connection that a frame received on a port belongs to. -/
def rxKey (port : Nat) (f : TltFrame) : Nat := connKey (port / 8) (tSrc f)

/-- Whether the headland takes a data frame: VER 1, and SYSID and DST its own. -/
def State.takesFrame (s : State) (f : TltFrame) : Bool :=
  decide (tVer f = 1) && match s.addr? with
    | some (a, sys) => decide (tDst f = a) && decide (tSysid f = sys)
    | none => false

/-- Bytes of a TLT frame from the destination address to the FCS (R327, R329). -/
def tBytes (f : TltFrame) : Nat := 14 + (if f.eth.tag.isSome then 4 else 0) + 32 + f.payload.length + 4

/-- The MAC passes the frame to the panel: its EtherType and its length are accepted (R327). -/
def State.macTakes (s : State) (f : TltFrame) : Bool := decide (f.eth.type = s.tltEtherType) && decide (tBytes f ≤ 4150)

/-- A data frame of TYPE `type` arrives on a port: one that the MAC does not pass, and a foreign one, is dropped and counted; from any other the
peer's ports are learnt. -/
def State.dataFrame (s : State) (port : Nat) (f : TltFrame) (type : Nat) (body : State → State) : State :=
  if !s.portUp port ∨ tType f ≠ type then s
  else if !s.macTakes f ∨ !s.takesFrame f then s.xltDrop
  else
    let k := rxKey port f
    body (s.setConn k { s.conn k with peerPorts := tPorts f })

/-- The generation rule of R336 for a request: the current generation, or up to 7 ahead, which resets the receive window; frames of the old one
that are held for an epoch are dropped with it. -/
def State.rxGen (s : State) (k : Nat) (g : BitVec 4) : Option State :=
  let c := s.conn k
  let ahead := (g - c.rxGen).toNat
  if ahead = 0 then some s
  else if ahead ≤ 7 then
    let s := { s with link := { s.link with held := s.link.held.filter fun h => decide (rxKey h.port h.frame ≠ k) } }
    some (s.setConn k { c with rxGen := g, rxBase := 0, rxSeen := [], ackDue := false })
  else none

/-! ## Performing a WRITE (R330, R333, R334) -/

/-- ADDR in the SLICE form: its slice and seedbed byte. -/
def sliceForm (a : DWord) : Option (Nat × Nat) :=
  if bits a 63 60 = 0 ∧ bits a 47 40 = 0 ∧ bits a 31 22 = 0 ∧ bits a 39 32 < 192 then some (bits a 39 32, bits a 21 0) else none

/-- The slice that pays for another panel's access to offset `a`: the owner of the sector (R406). -/
def State.framePayer (s : State) (f : TltFrame) (a : Nat) : Nat := ((s.translate (tComp f) (tEpoch f) a).map fun y => sliceOfDpa y.dpa).getD 0

/-- The offset that byte `i` of a frame's data has on this panel: none beyond its end. -/
def frameOffset (f : TltFrame) (a : Int) : Option Nat :=
  let o := bits f.w1 47 0 + (a - bits f.w1 47 0).toNat
  if o < 2 ^ 48 then some o else none

/-- Write marked bytes of a frame at offsets of its composition's space, sector by sector. -/
def State.remoteWrite (s : State) (f : TltFrame) (w : Waiter) : List (Int × Nat) → Marked → Moved State
  | [], _ => .ok s
  | (a, n) :: ps, bs =>
    match frameOffset f a with
    | none => .fail 2
    | some o =>
      (s.writeDevice (tComp f) (tEpoch f) .write 0 (s.framePayer f o) false false w o (bs.take n)).bind fun s =>
        State.remoteWrite s f w ps (bs.drop n)

/-- Perform the chunks of a WRITE from `k` up: each is written and then counted (R192, R193). The statuses met come back. -/
def State.frameChunks (s : State) (f : TltFrame) (w : Waiter) (slice : Option (Nat × Nat)) : Nat → Nat → Moved (State × List Nat)
  | 0, _ => .ok (s, [])
  | n + 1, k =>
    let bs : Marked := ((f.payload.drop (256 * k)).take 256).map fun b => (b, bit (tPoison f) k)
    if bs.isEmpty then .ok (s, [])
    else
      let rest (s : State) (st : Nat) : Moved (State × List Nat) :=
        (State.frameChunks s f w slice n (k + 1)).bind fun r => .ok (r.1, st :: r.2)
      let written : Moved State := match slice with
        | some (sl, a) =>
          let st := s.sliceStatus (tComp f) (tEpoch f) sl
          if st ≠ 0 then .fail st
          else if 0x400000 < a + 256 * k + bs.length then .fail 2
          else .ok (s.sliceWrite sl (a + 256 * k) bs)
        | none => s.remoteWrite f w (pieces (bits f.w1 47 0 + 256 * k : Nat) bs.length 2) bs
      match written with
      | .fail st => rest s st
      | m =>
        m.bind fun s =>
          let (s, st) := if tTally f then s.tallyChunk (tTslice f) (tTctr f) bs.length (tContext f) else (s, 0)
          rest s st

/-- What becomes of a frame by its EPOCH (R394, R397). -/
inductive EpochUse where
  | live | ahead | dead
  deriving DecidableEq, Repr

def State.epochUse (s : State) (c : Nat) (e : Byte) : EpochUse :=
  match s.comp? c with
  | none => .dead
  | some x =>
    if !x.span then .dead
    else if (x.mapOf e).isSome then .live
    else if e = x.cur.epoch + 1 then .ahead
    else .dead

/-- Send the ACK of one failed frame (R334). -/
def State.failAck (s : State) (port : Nat) (f : TltFrame) (st : Nat) : State :=
  s.sendPlain (port / 8) (tSrc f) 3 (tSeq f) (fun g => tltW2 (tContext f) (tEpoch f) (tComp f) 0 0 false g 0) 0 st []

/-- The base moves over the frames acknowledged in turn. -/
def advanceBase : Nat → BitVec 24 → List (Nat × Nat) → BitVec 24
  | 0, b, _ => b
  | n + 1, b, l => if l.any fun e => decide (e.1 = b.toNat) then advanceBase n (b + 1) l else b

/-- Keep the outcome of a frame in the 256-frame window (R333). -/
def Conn.note (c : Conn) (seq : BitVec 24) (st : Nat) : Conn :=
  let seen := (seq.toNat, st) :: c.rxSeen
  let base := advanceBase 257 c.rxBase seen
  { c with rxBase := base, rxSeen := seen.filter fun e => decide ((BitVec.ofNat 24 e.1 - (base - 256)).toNat < 512) }

/-- A frame has its outcome: a failure is acknowledged at once, success falls due for the next ACK. -/
def State.frameDone (s : State) (port : Nat) (f : TltFrame) (st : Nat) : State :=
  let k := rxKey port f
  let s := s.setConn k ((s.conn k).note (tSeq f) st)
  if st = 0 then s.setConn k { s.conn k with ackDue := true } else s.failAck port f st

/-- A frame as it is kept on the panel. -/
def State.heldFrame (s : State) (port : Nat) (f : TltFrame) : HeldFrame := { port := port, frame := f, comp := tComp f, since := s.time.now }

/-- The same request on the same connection. -/
def sameFrame (port : Nat) (f : TltFrame) (h : HeldFrame) : Bool :=
  decide (rxKey h.port h.frame = rxKey port f) && decide (h.frame.w0 = f.w0) && decide (tCgen h.frame = tCgen f)

/-- The place of a received frame in the homes' arrival order (R265). -/
def frameWaiter (port : Nat) (f : TltFrame) : Waiter := .frame (rxKey port f) (decide (tType f = 1)) (tSeq f)

/-- A received frame that cannot be performed yet waits on the panel, at the home of sector `n` if one is what it waits for. -/
def State.holdFrame (s : State) (port : Nat) (f : TltFrame) (n : Option Nat) : State :=
  let s := if s.link.waiting.any (sameFrame port f) then s
    else { s with link := { s.link with waiting := s.link.waiting ++ [s.heldFrame port f] } }
  match n with
  | some n => (s.holdOnly n (frameWaiter port f)).resetFaulties
  | none => s

/-- The frame waits no longer. -/
def State.unqueueFrame (s : State) (port : Nat) (f : TltFrame) : State :=
  { s with link := { s.link with waiting := s.link.waiting.filter fun h => !sameFrame port f h } }

/-- Hold a frame for an epoch that is not yet committed. -/
def State.holdEpoch (s : State) (port : Nat) (f : TltFrame) : State :=
  { s with link := { s.link with held := s.link.held ++ [s.heldFrame port f] } }

/-- What a frame's move comes to: it has waited long enough, or it waits. -/
def State.frameMoved {α : Type} (s : State) (port : Nat) (f : TltFrame) (m : Moved α) (fail : Nat → State) (ok : α → State) : State :=
  match m with
  | .held => s.holdFrame port f none
  | .wait n => s.holdFrame port f (some n)
  | .fail st => (fail st).unqueueFrame port f
  | .ok a => (ok a).unqueueFrame port f

/-- The slice and offset that a WRITE's ADDR names in the SLICE form; where it could also be the REMOTE form, a free value decides. -/
def State.frameSlice (s : State) (f : TltFrame) : Option (Nat × Nat) :=
  match sliceForm f.w1 with
  | some p => if (s.translate (tComp f) (tEpoch f) (bits f.w1 47 0)).isNone ∨ Config.frameIsSlice f.w1 then some p else none
  | none => none

/-- Perform a WRITE frame: dropped for a revoked context, answered with status 2 under a dead epoch, held for the epoch one ahead; it waits
where something under way holds it (R334, R397, R458). -/
def State.performWrite (s : State) (port : Nat) (f : TltFrame) : State :=
  let c := tComp f
  if s.revokedCtx (tContext f) then (s.frameDone port f 8).unqueueFrame port f
  else
    match s.epochUse c (tEpoch f) with
    | .dead => (s.frameDone port f 2).unqueueFrame port f
    | .ahead => s.holdEpoch port f
    | .live =>
      s.frameMoved port f (s.frameChunks f (frameWaiter port f) (s.frameSlice f) 16 0) (s.frameDone port f) fun r =>
        ((r.1.frameDone port f (lowestStatus r.2)).notePeer c (tSrc f)).resetFaulties

/-- Record a frame received for a composition (Table 20-5). -/
def State.recordFrame (s : State) (f : TltFrame) : State :=
  let payload := (find? s.tst.captures (tComp f)).any fun k => k.payload
  s.record (tComp f) 3 (dwordBytes [f.w0, f.w1, f.w2, f.w3] ++ if payload then f.payload else [])

/-- The frame is already held for its epoch, or waits. -/
def State.heldAlready (s : State) (port : Nat) (f : TltFrame) : Bool :=
  s.link.held.any (sameFrame port f) || s.link.waiting.any (sameFrame port f)

/-- TLT_WRITE: a new frame is performed; a duplicate is acknowledged again with its recorded status and performed no second time. -/
def execTltWrite (port : Nat) (f : TltFrame) (s : State) : Host.Outcome State Fault Refusal :=
  .next (s.dataFrame port f 0 fun s =>
    let k := rxKey port f
    match s.rxGen k (tCgen f) with
    | none => s
    | some s =>
      let c := s.conn k
      match find? c.rxSeen (tSeq f).toNat with
      | some 0 => s.setConn k { c with ackDue := true }
      | some st => s.failAck port f st
      | none =>
        if 256 ≤ (tSeq f - c.rxBase).toNat ∨ s.heldAlready port f then s
        else (s.recordFrame f).performWrite port f)

/-- The acknowledgement bitmap: bit `i` for SEQ + 1 + `i`. -/
def ackBitmap (c : Conn) : List Byte :=
  (upto 32).map fun b => BitVec.ofNat 8 (((upto 8).map fun i =>
    if (find? c.rxSeen (c.rxBase + BitVec.ofNat 24 (8 * b + i)).toNat).isSome then 2 ^ i else 0).sum)

/-- WRITE_ACK_SEND: the ACK with STATUS 0: the highest SEQ up to which every frame is acknowledged, and the bitmap (R334). -/
def execWriteAckSend (headland peer : Nat) (s : State) : Host.Outcome State Fault Refusal :=
  .next (
    let k := connKey headland peer
    let c := s.conn k
    if !s.inService ∨ 2 ≤ headland ∨ 4096 ≤ peer ∨ !c.ackDue ∨ (pickPort (s.livePorts headland c.peerPorts) c.nextPort none).isNone then s
    else (s.setConn k { c with ackDue := false }).sendPlain headland peer 3 (c.rxBase - 1) (fun g => tltW2 0 0 0 0 0 false g 0) 0 0 (ackBitmap c))

/-! ## Reads (R338) -/

/-- Send a READ_RESP. -/
def State.readResp (s : State) (port : Nat) (f : TltFrame) (poison : Half) (st : Nat) (bs : List Byte) : State :=
  s.sendPlain (port / 8) (tSrc f) 2 (tSeq f) (fun g => tltW2 (tContext f) (tEpoch f) (tComp f) 0 0 false g bs.length) poison st bs

/-- Perform a READ_REQ: coherently at the home; a refused one answers with its status (R338, R397, R458). -/
def State.performRead (s : State) (port : Nat) (f : TltFrame) : State :=
  let c := tComp f
  let refuse (st : Nat) : State := (s.readResp port f 0 st []).unqueueFrame port f
  if s.revokedCtx (tContext f) then refuse 8
  else
    match s.epochUse c (tEpoch f) with
    | .dead => refuse 2
    | .ahead => s.holdEpoch port f
    | .live =>
      let a := bits f.w1 47 0
      if 2 ^ 48 < a + tLen f then refuse 2
      else
        let how : ReadHow := { comp := c, epoch := tEpoch f, hint := 0, payer := s.framePayer f a, uncached := false, waiter := frameWaiter port f,
                               lastRead := fun _ => false }
        s.frameMoved port f (s.readDevice how (pieces (a : Nat) (tLen f) 18)) (fun st => s.readResp port f 0 st []) fun r =>
          ((r.1.readResp port f (payloadPoison r.2) 0 (r.2.map (·.1))).notePeer c (tSrc f)).resetFaulties

/-- TLT_READ_REQ: performed when it arrives, and again when it is resent. -/
def execTltReadReq (port : Nat) (f : TltFrame) (s : State) : Host.Outcome State Fault Refusal :=
  .next (s.dataFrame port f 1 fun s =>
    match s.rxGen (rxKey port f) (tCgen f) with
    | none => s
    | some s => if s.heldAlready port f then s else (s.recordFrame f).performRead port f)

/-- A fetch of a leased sector fails: poison to every waiting load, counted (R252). -/
def State.leaseFails (s : State) (die key : Nat) : State :=
  match s.lease? die key with
  | none => s
  | some l =>
    let s := ((s.dropLease die key).count .grnLeaseFail die 0 1).serveLoads key 0 true l.loads
    (slicesOf die).foldl (fun (s : State) k => s.pumpCore k) s

/-- The data of a leased sector arrives, poisoned or not: the waiting loads are served; the lease stays for LEASE_US from t0, if it has not ended
meanwhile (R251-R253). -/
def State.leaseArrives (s : State) (die key : Nat) (v : Sector) (poison : Bool) : State :=
  match s.lease? die key with
  | none => s
  | some l =>
    let s := if l.ended ∨ l.t1 ≤ l.t0 then s.dropLease die key
      else s.setLease die key { l with data := v, poison := poison, pending := false, loads := [] }
    let s := s.serveLoads key v poison l.loads
    (slicesOf die).foldl (fun (s : State) k => s.pumpCore k) s

/-- Land the chunks of a READ_RESP one after another. -/
def State.landFrame (s : State) (q : XQueue) (t : Word) (w : Waiter) : List (Nat × Nat × Nat) → Nat → Marked → Moved State
  | [], _, _ => .ok s
  | (r, o, n) :: ps, i, bs =>
    match s.xfer? q t with
    | none => .ok s
    | some x =>
      (s.landChunk q x w i r o (bs.take n)).bind fun s => State.landFrame s q t w ps (i + 1) (bs.drop n)

/-- The chunks that a frame of a transfer from chunk `i` up carries, by number. -/
def State.frameChunkNos (s : State) (q : XQueue) (t : Word) (i : Nat) : List Nat :=
  match s.xfer? q t with
  | none => []
  | some x => (upto ((xferDesc x.desc).frameFrom i).length).map fun k => i + k

/-- The chunks from `i` up that a frame of context `ctx` carried are done, if its transfer is still the queue's one of that token (R460). -/
def State.frameChunksDone (s : State) (q : XQueue) (t : Word) (i : Nat) (ctx : Half) (st : Nat) : State :=
  match s.xfer? q t with
  | some x => if x.context = ctx then s.chunkDone q t (s.frameChunkNos q t i) [st] else s
  | none => s

/-- Forget an answered READ_REQ. -/
def State.dropRead (s : State) (k : Nat) (tag : BitVec 24) : State :=
  s.setConn k { s.conn k with reads := (s.conn k).reads.filter fun e => decide (e.seq ≠ tag) }

/-- The chunks of a response land; while one has to wait, the response waits on the panel. -/
def State.landResp (s : State) (port : Nat) (f : TltFrame) (q : XQueue) (t : Word) (i : Nat) (bs : Marked) : State :=
  match s.xfer? q t with
  | none => (s.dropRead (rxKey port f) (tSeq f)).unqueueFrame port f
  | some x =>
    let d := xferDesc x.desc
    match s.landFrame q t (.chunk q t i) (d.frameFrom i) i bs with
    | .held => s.holdFrame port f none
    | .wait n => ((s.holdFrame port f none).holdOnly n (.chunk q t i)).resetFaulties
    | .fail _ => s
    | .ok s => (((s.dropRead (rxKey port f) (tSeq f)).unqueueFrame port f).issueFrames (d.total + 1) q t).resetFaulties

/-- Marked bytes of a frame's payload (R330). -/
def tMarked (f : TltFrame) : Marked := f.payload.mapIdx fun i b => (b, bit (tPoison f) (i / 256))

/-- The READ_REQ that a response answers. -/
def State.readOf (s : State) (port : Nat) (f : TltFrame) : Option SentFrame :=
  (s.conn (rxKey port f)).reads.find? fun e => decide (e.seq = tSeq f)

/-- Try every waiting frame again, in order of arrival. -/
def State.serveFrames (s : State) : State :=
  s.link.waiting.foldl (fun (s : State) h =>
    match tType h.frame with
    | 0 => s.performWrite h.port h.frame
    | 1 => s.performRead h.port h.frame
    | _ =>
      match (s.readOf h.port h.frame).map SentFrame.use with
      | some (.xfer q t i) => s.landResp h.port h.frame q t i (tMarked h.frame)
      | _ => s.unqueueFrame h.port h.frame) s

/-- TLT_READ_RESP: the data of a lease fetch or of a transfer's frame, or its refusal. A response whose tag is free is discarded (R460). -/
def execTltReadResp (port : Nat) (f : TltFrame) (s : State) : Host.Outcome State Fault Refusal :=
  .next (s.dataFrame port f 2 fun s =>
    let k := rxKey port f
    match s.readOf port f with
    | none => s
    | some e =>
      if tCgen f ≠ (s.conn k).txGen ∨ s.heldAlready port f then s
      else
        let s := s.recordFrame f
        match e.use with
        | .lease die key =>
          let s := s.dropRead k (tSeq f)
          if tStatus f ≠ 0 then s.leaseFails die key else s.leaseArrives die key (sectorOf f.payload) (anyPoison (tMarked f))
        | .xfer q t i =>
          if tStatus f ≠ 0 then (s.dropRead k (tSeq f)).frameChunksDone q t i (tContext e.frame) (tStatus f)
          else s.landResp port f q t i (tMarked f))

/-! ## Acknowledgements (R334, R339, R508) -/

/-- A frame that an ACK with STATUS 0 acknowledges. -/
def ackCovers (f : TltFrame) (seq : BitVec 24) : Bool :=
  let ahead := (seq - tSeq f).toNat
  if ahead = 0 ∨ 2 ^ 23 ≤ ahead then true
  else if ahead ≤ 256 then bit (f.payload.getD ((ahead - 1) / 8) 0) ((ahead - 1) % 8)
  else false

/-- A sent frame has been answered: its chunks are done, and the transfer may send more. -/
def State.sentDone (s : State) (e : SentFrame) (st : Nat) : State :=
  match e.use with
  | .xfer q t i =>
    let s := s.frameChunksDone q t i (tContext e.frame) st
    match s.xfer? q t with
    | some x => if x.context = tContext e.frame then s.issueFrames ((xferDesc x.desc).total + 1) q t else s
    | none => s
  | .lease _ _ => s

/-- Take acknowledged frames out of the window. -/
def State.ackFrames (s : State) (k : Nat) (p : SentFrame → Bool) (st : Nat) : State :=
  let c := s.conn k
  let s := s.setConn k { c with window := c.window.filter fun e => !p e }
  (c.window.filter p).foldl (fun (s : State) e => s.sentDone e st) s

/-- TLT_ACK: frees window entries; a failure names one frame; STATUS 6 with CONTEXT 0 tells that a spanning composition restarts. -/
def execTltAck (port : Nat) (f : TltFrame) (s : State) : Host.Outcome State Fault Refusal :=
  .next (s.dataFrame port f 3 fun s =>
    let k := rxKey port f
    if tCgen f ≠ (s.conn k).txGen then s
    else if tStatus f = 6 ∧ tContext f = 0 then
      match s.comp? (tComp f) with
      | some x =>
        if x.span ∧ (tEpoch f = x.cur.epoch ∨ tEpoch f = x.cur.epoch - 1 ∨ tEpoch f = x.cur.epoch + 1) then
          (s.recordFrame f).startRestart (tComp f)
        else s
      | none => s
    else if tStatus f = 0 then s.ackFrames k (fun e => ackCovers f e.seq) 0
    else s.ackFrames k (fun e => decide (e.seq = tSeq f)) (tStatus f))

/-! ## Resends (R335, R337, R457) -/

/-- A connection fails: the transfers and lease fetches with a frame outstanding on it fail, and the next frame opens it anew. -/
def State.failConn (s : State) (k : Nat) : State :=
  let c := s.conn k
  let s := s.setConn k { c with window := [], reads := [], txNext := 0, txGen := c.txGen + 1 }
  let s := (c.window ++ c.reads).foldl (fun (s : State) e =>
    match e.use with
    | .xfer q t i => s.frameChunksDone q t i (tContext e.frame) 4
    | .lease die key => s.leaseFails die key) s
  let s := s.count .xltConnFail 0 0 1
  let i := s.rel.head % 256
  let s := s.reportComps 0x202FF035 ((s.yoke.comps.filter fun e => e.2.span && !e.2.cur.slices.isEmpty).map (·.1))
  { s with mod := { s.mod with alerts := addOnce i s.mod.alerts } }

/-- A frame sent again: its port map and port are today's, and XLT_RETX_CFG's values from now on. While no port is up at both ends the frame cannot
go out, and the try counts all the same, so that the connection fails after RETRIES of them (R335). -/
def State.resend (s : State) (k headland : Nat) (read : Bool) (e : SentFrame) : State :=
  let c := s.conn k
  let swap (e' : SentFrame) (c : Conn) : Conn :=
    let put (l : List SentFrame) : List SentFrame := l.map fun x => if x.seq = e.seq then e' else x
    if read then { c with reads := put c.reads } else { c with window := put c.window }
  let again : SentFrame := { e with sentAt := s.time.now, tries := e.tries + 1, rto := s.rtoNow, retries := s.retriesNow }
  match pickPort (s.livePorts headland c.peerPorts) c.nextPort (some e.port) with
  | none => s.setConn k (swap again c)
  | some p =>
    let g : TltFrame := { e.frame with w3 := tltW3 (tPoison e.frame) s.link.up (tStatus e.frame) }
    ((s.setConn k { swap { again with port := p, frame := g } c with nextPort := p + 1 }).count .xltRetx 0 p 1).wire p g

/-- RETRANSMIT_TIMEOUT: a frame unacknowledged RTO µs after it was sent goes out again, through a different up port when there is one; after
RETRIES resends the connection fails. Frames of a revoked context are not resent. -/
def execRetransmitTimeout (headland peer : Nat) (read : Bool) (seq : BitVec 24) (s : State) : Host.Outcome State Fault Refusal :=
  .next (
    let k := connKey headland peer
    let c := s.conn k
    if !s.inService ∨ 2 ≤ headland ∨ 4096 ≤ peer then s
    else
      match (if read then c.reads else c.window).find? fun e => decide (e.seq = seq) with
      | none => s
      | some e =>
        if s.time.now < e.sentAt + e.rto * 1000 then s
        else if s.revokedCtx (tContext e.frame) then
          let s := s.setConn k { c with window := c.window.filter fun x => decide (read = true ∨ x.seq ≠ seq),
                                        reads := c.reads.filter fun x => decide (read = false ∨ x.seq ≠ seq) }
          match e.use with
          | .xfer q t i => s.frameChunksDone q t i (tContext e.frame) 8
          | .lease die key => s.leaseFails die key
        else if e.retries ≤ e.tries then s.failConn k
        else s.resend k headland read e)

/-! ## Frames held for an epoch (R397) -/

/-- Answer a held frame with status 2. -/
def State.refuseHeld (s : State) (h : HeldFrame) : State :=
  if tType h.frame = 1 then s.readResp h.port h.frame 0 2 [] else s.frameDone h.port h.frame 2

/-- EPOCH_HOLD_TIMEOUT: a frame held 10 ms for an epoch that has not been committed is answered with status 2. -/
def execEpochHoldTimeout (index : Nat) (s : State) : Host.Outcome State Fault Refusal :=
  .next (
    match s.link.held[index]? with
    | none => s
    | some h =>
      if !s.inService ∨ s.time.now < h.since + 10000000 then s
      else { s with link := { s.link with held := s.link.held.eraseIdx index } }.refuseHeld h)

/-- The frames held for a composition go on once it has committed their epoch. -/
def State.releaseHeld (s : State) (c : Nat) : State :=
  let mine := s.link.held.filter fun h => decide (h.comp = c)
  let s := { s with link := { s.link with held := s.link.held.filter fun h => decide (h.comp ≠ c) } }
  mine.foldl (fun (s : State) h =>
    if tType h.frame = 1 then s.performRead h.port h.frame else s.performWrite h.port h.frame) s

/-! ## Discovery (R340-R343) -/

/-- What the panel says of itself on a port. -/
def State.discovery (s : State) (port : Nat) : Discovery :=
  let (a, sys) := s.addr?.getD (0, 0)
  { nonce := s.link.nonce.getD 0, panelId := s.sec.panelId, valid := s.link.sysAddr.isSome, address := BitVec.ofNat 12 a,
    sysid := BitVec.ofNat 8 sys, port := port, portMap := s.start.portMap,
    eth := s.ethHdr 0 (s.factoryMac port) s.tltEtherType }

/-- Up ports. -/
def State.upPorts (s : State) : List Nat := (upto 16).filter fun p => bit s.link.up p

/-- A discovery frame to an address. -/
def discTo (d : Discovery) (dst : BitVec 48) : Discovery := { d with eth := { d.eth with dst := dst } }

/-- Send a discovery frame of a type on ports, from their factory addresses (R340). -/
def State.sendDisc (s : State) (ps : List Nat) (type : Nat) (dst : BitVec 48) : State :=
  ps.foldl (fun (s : State) p => s.emit (.disc p type (discTo (s.discovery p) dst))) s

/-- A discovery frame arrives on a port: one with another EtherType is dropped and counted (R327). -/
def State.discFrame (s : State) (port : Nat) (h : Discovery) (body : State → State) : State :=
  if !s.portUp port then s else if h.eth.type ≠ s.tltEtherType then s.xltDrop else body s

/-- TLT_HELLO: another panel that claims this panel's address. -/
def execTltHello (port : Nat) (h : Discovery) (s : State) : Host.Outcome State Fault Refusal :=
  .next (s.discFrame port h fun s =>
      match s.addr? with
      | some (a, _) =>
        if h.valid ∧ h.address.toNat = a ∧ h.panelId ≠ s.sec.panelId then s.logMctp 0x202FF034 else s
      | none => s)

/-- TLT_ASSIGN: the first that matches NONCE and PANEL_ID gives the address and is confirmed on every up port; later ones are confirmed
again or refused. -/
def execTltAssign (port : Nat) (h : Discovery) (s : State) : Host.Outcome State Fault Refusal :=
  .next (s.discFrame port h fun s =>
      match s.addr? with
      | none =>
        if s.link.nonce = some h.nonce ∧ h.panelId = s.sec.panelId then
          let s := { s with link := { s.link with sysAddr := some (h.address, h.sysid) } }
          (s.sendDisc s.upPorts 0xA h.eth.src).logMctp 0x102FF036
        else s
      | some (a, sys) =>
        if h.address.toNat = a ∧ h.sysid.toNat = sys then s.sendDisc s.upPorts 0xA h.eth.src
        else s.sendDisc [port] 0xC h.eth.src)

/-- TLT_RELEASE: accepted only while no spanning composition is bound; every connection is dropped and a new NONCE is due. -/
def execTltRelease (port : Nat) (h : Discovery) (s : State) : Host.Outcome State Fault Refusal :=
  .next (s.discFrame port h fun s =>
    if s.link.sysAddr.isNone then s
    else if s.yoke.comps.any fun e => e.2.span then s.sendDisc [port] 0xC h.eth.src
    else { s with link := { s.link with sysAddr := none, conns := [], nonce := none, held := [], waiting := [] } })

/-- HELLO_TIMER: a HELLO on every up port, with VALID as the panel stands; `nonce` is the random value of an unassigned start. -/
def execHelloTimer (nonce : DWord) (s : State) : Host.Outcome State Fault Refusal :=
  .next (
    if !s.inService then s
    else
      let s := if s.link.nonce.isNone then { s with link := { s.link with nonce := some nonce } } else s
      s.sendDisc s.upPorts 0x8 0x03474C000001)

/-! ## Dropped frames (R326, R327) -/

/-- The TLT frame types that are not reserved (Table 12-3). -/
def tltTypes : List (BitVec 4) := [0, 1, 2, 3, 8, 9, 10, 11, 12]

/-- The MAC passes a frame to the panel: no PAUSE or PFC, at most 4,150 bytes, and PTP, or a TLT frame of VER 1 and a known TYPE. -/
def State.macPasses (s : State) (f : MacFrame) : Bool :=
  !f.pause && decide (f.bytes ≤ 4150) &&
    (decide (f.eth.type = ptpEtherType) || (decide (f.eth.type = s.tltEtherType) && decide (f.ver = 1) && tltTypes.contains f.type))

/-- ETHERNET_FRAME_DROP: a received frame that is neither an accepted TLT frame nor PTP is dropped, and counted in XLT_DROP, or in XLT_FCS_ERR for a
bad FCS (R326, R327, R329); one that the MAC passes is no drop. -/
def execEthernetFrameDrop (port : Nat) (f : MacFrame) (s : State) : Host.Outcome State Fault Refusal :=
  .next (
    if !s.portUp port then s
    else if !f.fcsOk then s.count .xltFcsErr 0 port 1
    else if s.macPasses f then s
    else s.xltDrop)

end Sys2Proof.Machine
end

