-- ==== Sys2Proof/Machine/Ptp.lean ====
section
/-! DEFINITION. Scale-out ports and time: link loss, the PTP clock and the device time counter (R332, R344-R349, R352). -/

namespace Sys2Proof.Machine

open Sys2Proof

def State.setTime (s : State) (t : Time) : State := { s with time := t }

/-- PTP is enabled (TIM_PTP_CFG). -/
def State.ptpOn (s : State) : Bool := s.inService && decide (s.reg .timPtpCfg 0 0 / 256 % 2 = 1)

/-- Record a time event in every capture (Table 20-5). -/
def State.recordTime (s : State) (code : Nat) : State :=
  (keys s.tst.captures).foldl (fun (s : State) c => s.record c 7 (natLe 8 (code * 2 ^ 32) ++ natLe 8 s.time.now)) s

/-- The clock enters holdover: it keeps its last disciplined rate, and an offset that is being slewed is slewed no further; reported (R349). -/
def State.enterHoldover (s : State) : State :=
  if s.time.st = .acquiring ∨ s.time.st = .locked then
    ((s.setTime { s.time with st := .holdover, heldAt := s.time.now, heldReported := false, good := 0, slew := 0, pendSync := none }).logMctp 0x10CFF0E2).recordTime
      0x10CFF0E2
  else s

/-- The best master of those announced on up ports: the lowest rank, then the lowest port (R344). -/
def bestPort (up : Half) : List (Nat × (DWord × Nat)) → Option (Nat × Nat)
  | [] => none
  | (p, (_, r)) :: ms =>
    match bestPort up ms with
    | none => if bit up p then some (p, r) else none
    | some (q, t) => if bit up p && decide (r ≤ t) then some (p, r) else some (q, t)

/-- Run the best master clock algorithm: the port in the SLAVE state, or none, which begins holdover. -/
def State.runBmca (s : State) : State :=
  let port := (bestPort s.link.up s.time.masters).map (·.1)
  if port = s.time.port then s
  else
    let t := { s.time with port := port, good := 0, pendSync := none, reqAt := none }
    match port with
    | none => (s.setTime t).enterHoldover
    | some _ => s.setTime { t with st := if t.st = .holdover then .holdover else .acquiring }

/-! ## Ports -/

/-- SCALEOUT_PORT_LINK_LOSS: the port is down, reported; frames go by other ports, and PTP by another master. -/
def execScaleoutPortLinkLoss (port : Nat) (s : State) : Host.Outcome State Fault Refusal :=
  .next (
    if !s.portUp port then s
    else
      let s := { s with link := { s.link with up := s.link.up &&& ~~~ (BitVec.ofNat 16 (2 ^ port)) } }
      (s.logMctp (mkCode 0x20200031 port)).runBmca)

/-- SCALEOUT_PORT_LINK_UP: a port of the port map regains link and rejoins the rotation. -/
def execScaleoutPortLinkUp (port : Nat) (s : State) : Host.Outcome State Fault Refusal :=
  .next (
    if !s.inService ∨ 16 ≤ port ∨ bit s.link.up port ∨ bits s.start.portMap (2 * port + 1) (2 * port) = 0 then s
    else { s with link := { s.link with up := s.link.up ||| BitVec.ofNat 16 (2 ^ port) } })

/-! ## The clock (R344-R348) -/

/-- The destination address of the PTP messages of the profile (R344). -/
def ptpAddress : BitVec 48 := 0x011B19000000

/-- The domain set in TIM_PTP_CFG. -/
def State.ptpDomain (s : State) : Byte := BitVec.ofNat 8 (s.reg .timPtpCfg 0 0 % 128)

/-- The port takes a PTP message: PTP is on, the port up, and the EtherType, destination and domain are the clock's (R327, R344). -/
def State.takesPtp (s : State) (port : Nat) (h : PtpHdr) : Bool :=
  s.ptpOn && s.portUp port && decide (h.eth.type = ptpEtherType) && decide (h.eth.dst = ptpAddress) && decide (h.domain = s.ptpDomain)

/-- The hardware timestamp of an event message: the counter's value with an error of at most 4 ns (R345). -/
def State.eventStamp (s : State) (err : Int) : Nat := ((s.time.now : Int) + max (-4) (min 4 err)).toNat

/-- PTP_ANNOUNCE: a port's master and its rank in the best master clock algorithm. -/
def execPtpAnnounce (port : Nat) (h : PtpHdr) (master : DWord) (rank : Nat) (s : State) : Host.Outcome State Fault Refusal :=
  .next (
    if !s.takesPtp port h then s
    else (s.setTime { s.time with masters := insert s.time.masters port (master, rank) }).runBmca)

/-- ANNOUNCE_RECEIPT_TIMEOUT: the port's master is gone. -/
def execAnnounceReceiptTimeout (port : Nat) (s : State) : Host.Outcome State Fault Refusal :=
  .next (if !s.ptpOn ∨ 16 ≤ port then s else (s.setTime { s.time with masters := erase s.time.masters port }).runBmca)

/-- Every lease on the panel ends; a fetch under way serves only the loads that wait for it (R253, R347). -/
def State.endLeases (s : State) : State := { s with dies := mapVals (fun _ d => d.endLeases fun _ _ => true) s.dies }

/-- A measured offset of the counter from the master: slewed, removed by one forward step, or run off at half rate; the lock state follows
(R347, R348). The rate that the reeve's servo settles on is a free value within 100 ppm. -/
def State.discipline (s : State) (off : Int) : State :=
  let t := { s.time with rate := (Config.freeNat s.fresh % 200001 : Nat) - 100000 }
  let s := { s with fresh := s.fresh + 1 }
  let thr : Int := s.reg .timStepThr 0 0
  let good := if off.natAbs < 50 then t.good + 1 else 0
  let locked := decide (16 ≤ good)
  let t1 := { t with offset := off, good := min good 16, st := if locked then .locked else .acquiring, slew := 0, back := 0, half := false }
  let s1 : State :=
    if (off.natAbs : Int) ≤ thr then s.setTime { t1 with slew := -off * 10000 }
    else if off < 0 then
      let s := (s.setTime { t1 with now := t.now + off.natAbs, ms := t.ms - off }).endLeases
      ((s.count .timSteps 0 0 1).logMctp 0x10CFF0E1).recordTime 0x10CFF0E1
    else s.setTime { t1 with back := off.toNat }
  if locked ∧ t.st ≠ .locked then s1.logMctp 0x10CFF0E0 else s1

/-- The interval in ns that a message announces as a power of two of a second. -/
def intervalNs (k : Int) : Nat := if 0 ≤ k then 1000000000 * 2 ^ k.toNat else 1000000000 / 2 ^ (-k).toNat

/-- The offset from the master that the latest Sync measured. -/
def State.measured (s : State) (origin rx : Nat) : State :=
  let ms : Int := (rx : Int) - origin
  (s.setTime { s.time with ms := ms, pendSync := none }).discipline (ms - s.time.delay)

/-- PTP_SYNC on the slave port, timestamped: a one-step Sync gives the offset; a two-step Sync waits for its Follow_Up. -/
def execPtpSync (port : Nat) (h : PtpHdr) (twoStep : Bool) (logInterval : Int) (origin : Nat) (err : Int) (s : State) :
    Host.Outcome State Fault Refusal :=
  .next (
    if !s.takesPtp port h ∨ s.time.port ≠ some port then s
    else
      let rx := s.eventStamp err
      let s := s.setTime { s.time with syncAt := s.time.now, syncEvery := some (intervalNs logInterval) }
      if twoStep then s.setTime { s.time with pendSync := some (port, rx) } else s.measured origin rx)

/-- PTP_FOLLOW_UP: the precise origin of the two-step Sync before it. -/
def execPtpFollowUp (port : Nat) (h : PtpHdr) (origin : Nat) (s : State) : Host.Outcome State Fault Refusal :=
  .next (
    if !s.takesPtp port h then s
    else
      match s.time.pendSync with
      | some (p, rx) => if p ≠ port then s else s.measured origin rx
      | none => s)

/-- PTP_DELAY_REQ_TIMER: the slave port sends a Delay_Req, timestamped. -/
def execPtpDelayReqTimer (port : Nat) (err : Int) (s : State) : Host.Outcome State Fault Refusal :=
  .next (
    if !s.ptpOn ∨ !s.portUp port ∨ s.time.port ≠ some port then s
    else
      let tx := s.eventStamp err
      let h : PtpHdr := { eth := s.ethHdr ptpAddress (s.portMac port) ptpEtherType, domain := s.ptpDomain }
      (s.setTime { s.time with reqAt := some tx }).emit (.delayReq port h tx))

/-- PTP_DELAY_RESP: the path delay is half the sum of the two one-way differences. -/
def execPtpDelayResp (port : Nat) (h : PtpHdr) (rx : Nat) (s : State) : Host.Outcome State Fault Refusal :=
  .next (
    if !s.takesPtp port h ∨ s.time.port ≠ some port then s
    else
      match s.time.reqAt with
      | none => s
      | some tx => s.setTime { s.time with reqAt := none, delay := ((s.time.ms + ((rx : Int) - tx)) / 2).toNat })

/-- HOLDOVER_TIMEOUT: no Sync for four announced intervals. -/
def execHoldoverTimeout (s : State) : Host.Outcome State Fault Refusal :=
  .next (
    match s.time.syncEvery with
    | none => s
    | some n => if !s.inService ∨ s.time.now < s.time.syncAt + 4 * n then s else s.enterHoldover)

/-- HOLDOVER_LIMIT_EXPIRY: a holdover longer than TIM_HOLD_LIMIT seconds is reported once. -/
def execHoldoverLimitExpiry (s : State) : Host.Outcome State Fault Refusal :=
  .next (
    if !s.inService ∨ s.time.st ≠ .holdover ∨ s.time.heldReported ∨
        s.time.now ≤ s.time.heldAt + s.reg .timHoldLimit 0 0 * 1000000000 then s
    else (s.setTime { s.time with heldReported := true }).logMctp 0x20CFF0E3)

/-- Restart the best master clock algorithm: no master is known, no port is in the SLAVE state. -/
def State.restartBmca (s : State) : State := (s.setTime { s.time with masters := [] }).runBmca

end Sys2Proof.Machine
end

