-- ==== Sys2Proof/Machine/HostQ.lean ====
section
/-! DEFINITION. The host interface: doorbells, fetching entries, queue commands, quiesce, dirty logs, interrupts, virtual functions and function resets (R354-R378). -/

namespace Sys2Proof.Machine

open Sys2Proof

/-! ## Functions -/

/-- A function that exists: the PF, and the VFs while VF Enable is 1. -/
def State.fnExists (s : State) (f : Nat) : Bool := decide (f = 0) || decide (f ≤ s.host.vfs)

/-- A function that answers: it exists, the panel is in service, and it is neither in D3hot nor in reset (PRESUMED, from PCIe: D3hot). -/
def State.fnReady (s : State) (f : Nat) : Bool := s.inService && s.fnExists f && !(s.fn f).d3hot && !(s.fn f).resetting

/-- Queue IDs of a function, and its MSI-X vectors (R358, Table 13-1). -/
def queueIds (f : Nat) : Nat := if f = 0 then 4096 else 512
def vectors (f : Nat) : Nat := if f = 0 then 2048 else 64

def State.sq? (s : State) (f q : Nat) : Option Sq := find? (s.fn f).sqs q
def State.cq? (s : State) (f q : Nat) : Option Cq := find? (s.fn f).cqs q
def State.setSq (s : State) (f q : Nat) (x : Sq) : State := s.modFn f fun y => { y with sqs := insert y.sqs q x }
def State.setCq (s : State) (f q : Nat) (x : Cq) : State := s.modFn f fun y => { y with cqs := insert y.cqs q x }

/-- A stopped admin queue shows in HST_FN_STATUS. -/
def State.noteAqErr (s : State) (f q : Nat) : State := if q = 0 then s.modFn f fun x => { x with aqErr := true } else s

/-! ## Doorbells (R359, R360, R362) -/

/-- Slots from `a` forward to `b` on a ring of `n`. -/
def ringDist (n a b : Nat) : Nat := (b + n - a % n) % n

/-- Moving the tail to `v` is a queue error: beyond the ring, or past the head of the latest completion. -/
def Sq.tailError (q : Sq) (v : Nat) : Bool :=
  decide (q.size ≤ v) || decide (q.size - 1 - ringDist q.size q.told q.tail < ringDist q.size q.tail v)

/-- Moving the head to `v` is a queue error: beyond the ring, or beyond the last entry written. -/
def Cq.headError (q : Cq) (v : Nat) : Bool := decide (q.size ≤ v) || decide (ringDist q.size q.head q.tail < ringDist q.size q.head v)

/-- A DELETE_SQ that names the queue has been fetched (R364). -/
def State.deletingSq (s : State) (f q : Nat) : Bool :=
  q ≠ 0 && (s.fn f).entries.any fun y => decide (y.ref.sq = 0) && decide (y.opcode = 3) && decide (bits (y.word 4) 63 48 = q)

/-- A doorbell's index moves the tail of an SQ. -/
def State.sqTail (s : State) (f q : Nat) (v : Word) : State :=
  match s.sq? f q with
  | none => s.count .hstDbDrop 0 f 1
  | some x =>
    let i := bits v 15 0
    if x.deleting.isSome ∨ s.deletingSq f q then s.count .hstDbDrop 0 f 1
    else if x.stopped then s
    else if x.tailError i then ((s.setSq f q { x with stopped := true }).noteAqErr f q).reportFn f (mkCode 0x40D000F0 f)
    else s.setSq f q { x with tail := i }

/-- A doorbell's index moves the head of a CQ: slots are free again, and buffered entries go out. -/
def State.cqHead (s : State) (f q : Nat) (v : Word) : State :=
  match s.cq? f q with
  | none => s.count .hstDbDrop 0 f 1
  | some x =>
    let i := bits v 15 0
    if x.stopped then s
    else if x.headError i then ((s.setCq f q { x with stopped := true }).noteAqErr f q).reportFn f (mkCode 0x40D000F0 f)
    else
      let (s, cs) := (s.setCq f q { x with head := i }).cqDrain (x.buffer.length + 1) f q
      (s.dueCodes f cs).settleSq f 0

/-- One more request waits behind those to BAR4 (R215). -/
def State.barWait (s : State) (o : BarOp) : State := { s with host := { s.host with barQ := s.host.barQ ++ [o] } }

/-- SQ_TAIL: behind the BAR4 requests that wait (R215). -/
def execSqTail (f q : Nat) (v : Word) (s : State) : Host.Outcome State Fault Refusal :=
  .next (
    if !s.fnReady f ∨ queueIds f ≤ q then s
    else if s.host.barQ.isEmpty then s.sqTail f q v
    else s.barWait (.sqTail f q v))

/-- CQ_HEAD: as SQ_TAIL. -/
def execCqHead (f q : Nat) (v : Word) (s : State) : Host.Outcome State Fault Refusal :=
  .next (
    if !s.fnReady f ∨ queueIds f ≤ q then s
    else if s.host.barQ.isEmpty then s.cqHead f q v
    else s.barWait (.cqHead f q v))

/-! ## Fetching (R361, R364) -/

/-- A free ring slot on the CQ for one more completion. -/
def Cq.slotFree (c : Cq) : Bool := decide (ringDist c.size c.head c.tail + c.buffer.length + c.reserved + 1 < c.size)

/-- Bytes of a 20 ms frame of a stream: RATE samples in its format (R419, Table 15-3). -/
def Stream.frameBytes (t : Stream) : Nat := if t.format = 0 then 2 * t.rate else 4 * t.rate

/-- The samples or text that an AUDIO or TEXT_IN entry brings, read from the host under the composition's PASID. -/
def State.entryData (s : State) (x : Entry) : Option (List Byte) :=
  match s.comp? x.comp with
  | none => some []
  | some c =>
    match c.serve.streams.find? fun t => decide (t.handle.toNat = bits (x.word 2) 63 32) with
    | none => some []
    | some t =>
      let n := if x.opcode = 0x44 then t.frameBytes else if x.opcode = 0x45 then bits (x.word 2) 12 0 else 0
      s.hostRead c.pasid (x.word 3).toNat n

/-- The read of a serving command's data goes out to the host (R355). -/
def State.sendEntryRead (s : State) (x : Entry) : State :=
  match s.comp? x.comp, s.entryData x with
  | some c, some bs => if bs.isEmpty then s else s.hostSend false c.pasid (x.word 3).toNat bs.length
  | _, _ => s

/-- Record a fetched entry for the composition it names (Table 20-5). -/
def State.recordEntry (s : State) (x : Entry) : State :=
  if compOp x.opcode ∧ ((s.comp? x.comp).any fun c => decide (c.fn = x.ref.fn)) then
    let payload := (find? s.tst.captures x.comp).any fun k => k.payload
    s.record x.comp 1 (dwordBytes x.w ++ natLe 8 (x.ref.fn * 2 ^ 16 + x.ref.sq) ++ if payload then (s.entryData x).getD [] else [])
  else s

/-- SQ_ENTRY_FETCH: the next entry of an SQ is read, once a completion slot is free; an entry with a reserved opcode or a reserved header bit
completes with status 0x01 once FENCE lets it start. A failed read stops the queue. -/
def execSqEntryFetch (f q : Nat) (s : State) : Host.Outcome State Fault Refusal :=
  .next (
    if !s.fnReady f then s
    else
      match s.sq? f q with
      | none => s
      | some x =>
        let y := s.fn f
        let slot := (s.cq? f x.cq).any fun c => !c.stopped && c.slotFree
        if x.stopped ∨ x.deleting.isSome ∨ x.head = x.tail ∨ !slot ∨ (q = 0 ∧ y.aqRemoving) ∨ (q ≠ 0 ∧ (y.quiesced ∨ y.quiescing.isSome)) then s
        else
          match s.hostWords x.pasid (x.base.toNat + 64 * x.head) 8 with
          | none => ((s.setSq f q { x with stopped := true }).noteAqErr f q).reportFn f (mkCode 0x40D000F1 f)
          | some w =>
            let e : Entry := { ref := { fn := f, sq := q, num := y.nextOrder }, w := w, cq := x.cq, at_ := s.time.now, started := false,
                                seq := s.host.fetches }
            let s := { s with host := { s.host with fetches := s.host.fetches + 1 } }
            let s := (s.hostSend false x.pasid (x.base.toNat + 64 * x.head) 64).setSq f q { x with head := (x.head + 1) % x.size }
            let s := s.modFn f fun y =>
              { y with entries := y.entries ++ [e], nextOrder := y.nextOrder + 1,
                       cqs := (match find? y.cqs x.cq with
                         | some c => insert y.cqs x.cq { c with reserved := c.reserved + 1 }
                         | none => y.cqs) }
            let s := s.recordEntry e
            if e.reserved ∧ s.fenced e then s.complete e.ref 1 else s)

/-! ## Queue commands (Table 13-6) -/

/-- NOP_COMMAND. -/
def execNopCommand (e : EntryRef) (s : State) : Host.Outcome State Fault Refusal :=
  .next (s.command e 0 none fun _ s => s.complete e 0)

/-- Words from `i` up are 0. -/
def Entry.zeroFrom (x : Entry) (i : Nat) : Bool := (x.w.drop i).all fun w => decide (w = 0)

/-- A ring size field: 2 to 65,536 entries, a power of two. -/
def ringSizeOk (m : Nat) : Bool := decide (1 ≤ m) && decide (2 ^ Nat.log2 (m + 1) = m + 1)

/-- PV and PASID of word 4. -/
def pasidOf (w : DWord) : Option Nat := if bit w 31 then some (bits w 19 0) else none

/-- CREATE_CQ. -/
def execCreateCq (e : EntryRef) (s : State) : Host.Outcome State Fault Refusal :=
  .next (s.command e 1 (some true) fun x s =>
    let w4 := x.word 4
    let w5 := x.word 5
    let q := bits w4 63 48
    let bad := decide (bits (x.word 2) 11 0 ≠ 0 ∨ bits (x.word 3) 11 0 ≠ 0 ∨ bits w4 30 20 ≠ 0) ||
      decide (bits w5 63 53 ≠ 0 ∨ bits w5 41 34 ≠ 0 ∨ bits w5 25 16 ≠ 0) || !x.zeroFrom 6 ||
      !ringSizeOk (bits w4 47 32) || decide (queueIds e.fn ≤ q) || (s.cq? e.fn q).isSome || decide (vectors e.fn ≤ bits w5 52 42)
    if bad then s.complete e 1
    else
      let c : Cq := { base := x.word 2, recBase := x.word 3, size := bits w4 47 32 + 1, pasid := pasidOf w4, vector := bits w5 52 42,
                      aggr := bits w5 33 26, hold := bits w5 15 0, head := 0, tail := 0, phase := true, stopped := false, reserved := 0,
                      buffer := [], lost := false, unsignalled := 0, oldestAt := 0 }
      (s.setCq e.fn q c).complete e 0)

/-- CREATE_SQ. -/
def execCreateSq (e : EntryRef) (s : State) : Host.Outcome State Fault Refusal :=
  .next (s.command e 2 (some true) fun x s =>
    let w4 := x.word 4
    let q := bits w4 63 48
    let cq := bits (x.word 5) 63 48
    let bad := decide (bits (x.word 2) 11 0 ≠ 0 ∨ x.word 3 ≠ 0 ∨ bits w4 30 20 ≠ 0 ∨ bits (x.word 5) 47 0 ≠ 0) || !x.zeroFrom 6 ||
      !ringSizeOk (bits w4 47 32) || decide (queueIds e.fn ≤ q) || (s.sq? e.fn q).isSome || (s.cq? e.fn cq).isNone
    if bad then s.complete e 1
    else
      let y : Sq := { base := x.word 2, size := bits w4 47 32 + 1, pasid := pasidOf w4, cq := cq, head := 0, tail := 0, told := 0,
                      stopped := false, deleting := none }
      (s.setSq e.fn q y).complete e 0)

/-- Word 4 names the queue and every other operand bit is 0. -/
def Entry.onlyQid (x : Entry) : Bool :=
  decide (x.word 2 = 0 ∧ x.word 3 = 0 ∧ bits (x.word 4) 47 0 = 0) && x.zeroFrom 5

/-- DELETE_SQ: completes once every entry fetched from the SQ has completed. -/
def execDeleteSq (e : EntryRef) (s : State) : Host.Outcome State Fault Refusal :=
  .next (s.command e 3 (some true) fun x s =>
    let q := bits (x.word 4) 63 48
    if !x.onlyQid then s.complete e 1
    else if q = 0 then s.complete e 2
    else
      match s.sq? e.fn q with
      | none => s.complete e 1
      | some y => if y.deleting.isSome then s.complete e 1 else (s.setSq e.fn q { y with deleting := some e }).settleSq e.fn q)

/-- DELETE_CQ: refused while an SQ or a bound composition names the CQ. -/
def execDeleteCq (e : EntryRef) (s : State) : Host.Outcome State Fault Refusal :=
  .next (s.command e 4 (some true) fun x s =>
    let q := bits (x.word 4) 63 48
    if !x.onlyQid then s.complete e 1
    else if q = 0 then s.complete e 2
    else if (s.cq? e.fn q).isNone then s.complete e 1
    else if ((s.fn e.fn).sqs.any fun y => decide (y.2.cq = q)) || s.yoke.comps.any fun c => decide (c.2.fn = e.fn) && decide (c.2.eventCq = q) then
      s.complete e 2
    else (s.modFn e.fn fun y => { y with cqs := erase y.cqs q }).complete e 0)

/-! ## Quiesce (R373, R374) -/

/-- The open serving entries of a composition; LOAD's end with their transfers. -/
def State.servingEntries (s : State) (c : Nat) : List EntryRef :=
  match s.comp? c with
  | none => []
  | some x => ((s.fn x.fn).entries.filter fun y => decide (0x40 ≤ y.opcode ∧ y.opcode ≤ 0x47) && decide (y.comp = c)).map (·.ref)

/-- A slot without the buffers of entries that have completed. -/
def TSlot.unbuffered (l : TSlot) : TSlot := { l with textBufs := [], speechBufs := [] }

/-- The open serving entries of a composition complete with status 0x04; its admitted streams stay open (R373, R457). -/
def State.abortServing (s : State) (c : Nat) : State :=
  let es := s.servingEntries c
  let off (v : StreamState) : StreamState := { v with slots := mapVals (fun _ l => l.unbuffered) v.slots }
  let s := s.modServe c fun v =>
    { v with pendFrames := [], stopEntry := none,
             streams := (v.streams.filter fun t => t.admitted).map fun t => { t with closing := none, kept := off t.kept, work := off t.work } }
  es.foldl (fun (s : State) e => s.complete e 4) s

/-- At a pass boundary of a composition whose function quiesces, its open serving entries end. DEDUCED from R373: every entry fetched is
complete. -/
def State.quiesceServe (s : State) (c : Nat) : State :=
  match s.comp? c with
  | none => s
  | some x => if (s.fn x.fn).quiescing.isNone ∨ !x.serve.st.still then s else s.abortServing c

/-- QUIESCE: fetching stops on the I/O queues, compositions stop at their next boundary. -/
def execQuiesce (e : EntryRef) (s : State) : Host.Outcome State Fault Refusal :=
  .next (s.command e 8 (some true) fun x s =>
    if !x.zeroFrom 2 then s.complete e 1
    else if (s.fn e.fn).quiesced then s.complete e 0
    else if (s.fn e.fn).quiescing.isSome then s.complete e 2
    else
      let s := s.modFn e.fn fun y => { y with quiescing := some e }
      let cs := (s.yoke.comps.filter fun c => decide (c.2.fn = e.fn)).map (·.1)
      (cs.foldl (fun (s : State) c => s.quiesceServe c) s).settleQuiesce e.fn)

/-- QUIESCE_TIMEOUT: 100 ms after QUIESCE was fetched the compositions that still run are torn down; once they have stopped, QUIESCE completes with
status 0x07. -/
def execQuiesceTimeout (f : Nat) (s : State) : Host.Outcome State Fault Refusal :=
  .next (
    match (s.fn f).quiescing with
    | none => s
    | some e =>
      if !s.inService ∨ (s.entry? e).all (fun x => decide (s.time.now < x.at_ + 100000000)) then s
      else
        let run := (s.yoke.comps.filter fun c => decide (c.2.fn = f) && !c.2.serve.st.still).map (·.1)
        if run.isEmpty ∨ (s.fn f).quiesceLate then s
        else run.foldl (fun (s : State) c => s.beginTeardown c false false) (s.modFn f fun y => { y with quiesceLate := true }))

/-- RESUME: compositions and queues go back to work. -/
def execResume (e : EntryRef) (s : State) : Host.Outcome State Fault Refusal :=
  .next (s.command e 9 (some true) fun x s =>
    if !x.zeroFrom 2 then s.complete e 1 else (s.modFn e.fn fun y => { y with quiesced := false }).complete e 0)

/-! ## Dirty-page logs (R371, R372) -/

/-- LOG_START. -/
def execLogStart (e : EntryRef) (s : State) : Host.Outcome State Fault Refusal :=
  .next (s.command e 0x0A (some true) fun x s =>
    let lo := (x.word 2).toNat
    let hi := (x.word 3).toNat
    let n := hi - lo
    if lo % 4096 ≠ 0 ∨ hi % 4096 ≠ 0 ∨ hi < lo + 4096 ∨ 0x40000000000 < n ∨ bits (x.word 4) 63 32 ≠ 0 ∨ bits (x.word 4) 30 20 ≠ 0 ∨
        !x.zeroFrom 5 then s.complete e 1
    else if (s.fn e.fn).log.isSome then s.complete e 2
    else
      (s.modFn e.fn fun y => { y with log := some { lo := lo, hi := hi, pasid := pasidOf (x.word 4), pages := [], outside := false } }).complete e 0)

/-- The bitmap of a log: bit `k` of byte `k / 8` for page LO + `k` × 4 KiB. -/
def DirtyLog.bitmap (l : DirtyLog) : List Byte :=
  (upto ((l.hi - l.lo + 32767) / 32768)).map fun b => BitVec.ofNat 8 (((upto 8).map fun i =>
    if l.pages.contains (l.lo / 4096 + 8 * b + i) then 2 ^ i else 0).sum)

/-- LOG_SNAPSHOT: the bitmap so far goes to DEST under the admin queue's PASID, unlogged, and a cleared one takes its place. -/
def execLogSnapshot (e : EntryRef) (s : State) : Host.Outcome State Fault Refusal :=
  .next (s.command e 0x0B (some true) fun x s =>
    match (s.fn e.fn).log with
    | none => s.complete e 2
    | some l =>
      if !x.zeroFrom 3 then s.complete e 1
      else
        let bs := l.bitmap
        let pasid := ((s.sq? e.fn 0).map (·.pasid)).getD none
        let dest := (x.word 2).toNat
        match s.hostPut pasid dest bs with
        | none => s.complete e 5
        | some s => (s.modFn e.fn fun y => { y with log := some { l with pages := [], outside := false } }).complete e 0 s.time.now bs.length)

/-- LOG_STOP. -/
def execLogStop (e : EntryRef) (s : State) : Host.Outcome State Fault Refusal :=
  .next (s.command e 0x0C (some true) fun x s =>
    if !x.zeroFrom 2 then s.complete e 1 else (s.modFn e.fn fun y => { y with log := none }).complete e 0)

/-! ## Interrupts and translation (R365, R368) -/

/-- INTERRUPT_HOLD_TIMEOUT: HOLD µs have passed since the oldest unsignalled entry. -/
def execInterruptHoldTimeout (f q : Nat) (s : State) : Host.Outcome State Fault Refusal :=
  .next (
    match s.cq? f q with
    | none => s
    | some c =>
      if !s.fnReady f ∨ c.unsignalled = 0 ∨ c.hold = 0 ∨ s.time.now < c.oldestAt + c.hold * 1000 then s else s.signal f q)

/-- Clear a vector's mask and send its pending message. -/
def State.unmaskVec (s : State) (f vec : Nat) : State :=
  let k := msixCtrl f vec
  let s := { s with regs := s.regs.set k (s.regs.get k &&& ~~~ 1) }
  if (s.fn f).pendingVec.contains vec then
    (s.modFn f fun x => { x with pendingVec := removeFirst (fun v => decide (v = vec)) x.pendingVec }).out (.msix f vec)
  else s

/-- MSIX_UNMASK. -/
def execMsixUnmask (f vec : Nat) (s : State) : Host.Outcome State Fault Refusal :=
  .next (if !s.fnReady f ∨ vectors f ≤ vec then s else s.unmaskVec f vec)

/-- ATS_INVALIDATE: the cache's translations of the range go, and it is completed once the accesses that used them are over; here each access is
over within its own step. -/
def execAtsInvalidate (pasid lo hi : Nat) (s : State) : Host.Outcome State Fault Refusal :=
  .next (
    if !s.inService then s
    else
      let base := hostKey (some pasid) 0 / 4096
      let keep (k : Nat) : Bool := decide (k < base + lo / 4096) || decide (base + ceilDiv hi 4096 ≤ k)
      { s with host := { s.host with atc := s.host.atc.filter keep } }.out (.atsDone pasid lo hi))

/-! ## Function resets (R370, R375, R376) -/

/-- The function page and MSI-X table of a function take their reset values; with the PF's, BAR4's registers (Table 21-4). -/
def RegFile.resetFn (r : RegFile) (f : Nat) : RegFile :=
  let page (k : Nat) : Bool := decide (0x100000 + f * 0x1000 ≤ k) && decide (k < 0x100000 + (f + 1) * 0x1000)
  let msix (k : Nat) : Bool :=
    if f = 0 then decide (0x120008 ≤ k) && decide (k < 0x120018) || decide (0x130000 ≤ k) && decide (k < 0x140000)
    else decide (0x10000000 + f * 0x10000 ≤ k) && decide (k < 0x10000000 + (f + 1) * 0x10000)
  { vals := r.vals.filter fun e => !page e.1 && !msix e.1,
    heldLow := r.heldLow.filter fun e => decide (e.1 ≠ f), latched := r.latched.filter fun e => decide (e.1 ≠ f) }

/-- The requests of a function to BAR4 and BAR2 that wait are gone; BAR4's window is the PF's (PRESUMED, from PCIe: its size goes back too). -/
def HostIf.dropBar (h : HostIf) (f : Nat) : HostIf :=
  let keep : BarOp → Bool
    | .sqTail g _ _ | .cqHead g _ _ => decide (g ≠ f)
    | _ => decide (f ≠ 0)
  { h with barQ := h.barQ.filter keep, bar4Window := if f = 0 then 0 else h.bar4Window }

/-- Reset one function: its entries in flight end with no completion; contexts are torn down, which is reported unless it was quiesced; compositions
are unbound; queues, log and interrupts are removed. It answers configuration requests with CRS until its last composition is gone. -/
def State.resetOne (s : State) (f : Nat) : State :=
  let quiet := (s.fn f).quiesced
  let s := s.modFn f fun x => { x with entries := [], quiescing := none }
  let cs := (s.yoke.comps.filter fun c => decide (c.2.fn = f)).map (·.1)
  let s := cs.foldl (fun (s : State) c =>
    ((s.abortChanges c).modComp c fun x => { x with unbinding := true, unbindEntry := none }).beginTeardown c true false) s
  let s := if quiet then s
    else
      let i := s.rel.head % 256
      let s := s.reportPF (mkCode 0x20D000F3 f)
      { s with mod := { s.mod with alerts := addOnce i s.mod.alerts } }
  let tst := { s.tst with captures := s.tst.captures.filter fun k => decide (k.2.fn ≠ f) }
  let tst := { tst with replays := tst.replays.filter fun k => decide (k.2.entry.fn ≠ f) }
  let s := { s with regs := s.regs.resetFn f, tst := tst, host := s.host.dropBar f }
  s.setFn f { Fn.reset with nextOrder := (s.fn f).nextOrder, resetting := !cs.isEmpty }

/-- Remove every VF, resetting each. -/
def State.removeVfs (s : State) : State :=
  let n := s.host.vfs
  let s := (upto n).foldl (fun (s : State) v => s.resetOne (v + 1)) s
  { s with host := { s.host with vfs := 0 } }

/-- A function-level reset; that of the PF also removes every VF. -/
def State.resetFn (s : State) (f : Nat) : State := if f = 0 then (s.removeVfs).resetOne 0 else s.resetOne f

/-- FUNCTION_LEVEL_RESET. -/
def execFunctionLevelReset (f : Nat) (s : State) : Host.Outcome State Fault Refusal :=
  .next (if !s.inService ∨ !s.fnExists f then s else s.resetFn f)

/-- D3HOT_TO_D0: a return from D3hot acts as a function-level reset (Table 13-1). -/
def execD3hotToD0 (f : Nat) (s : State) : Host.Outcome State Fault Refusal :=
  .next (if !s.inService ∨ !s.fnExists f ∨ !(s.fn f).d3hot then s else s.resetFn f)

/-- VF_ENABLE_SET: with NumVFs `n`, unless `n` is not one of R369's or the PF holds a bound composition. -/
def execVfEnableSet (n : Nat) (s : State) : Host.Outcome State Fault Refusal :=
  .next (
    if !s.fnReady 0 ∨ s.host.vfs ≠ 0 then s
    else if !([1, 2, 3, 4, 6, 8, 12, 24].contains n) then s.reportPF 0x20D000F4
    else if s.yoke.comps.any fun c => decide (c.2.fn = 0) then s.reportPF 0x20D000F7
    else { s with host := { s.host with vfs := n } })

/-- VF_ENABLE_CLEAR. -/
def execVfEnableClear (s : State) : Host.Outcome State Fault Refusal :=
  .next (if !s.fnReady 0 ∨ s.host.vfs = 0 then s else s.removeVfs)

/-! ## The admin queue pair (Table 13-11) -/

/-- AQ_ENABLE: AQ_EN 1 creates the pair from the function page's registers. -/
def State.aqEnable (s : State) (f : Nat) : State :=
  let y := s.fn f
  if !s.fnReady f ∨ y.aqEn then s
  else
    let size := s.reg .hstAqSize 0 f
    let p := s.reg .hstAqPasid 0 f
    let pasid := if p / 2 ^ 31 % 2 = 1 then some (p % 2 ^ 20) else none
    let cq : Cq := { base := BitVec.ofNat 64 (s.reg .hstAqCqBase 0 f), recBase := 0, size := size / 2 ^ 16 + 1, pasid := pasid, vector := 0,
                     aggr := 0, hold := 0, head := 0, tail := 0, phase := true, stopped := false, reserved := 0, buffer := [],
                     lost := false, unsignalled := 0, oldestAt := 0 }
    let sq : Sq := { base := BitVec.ofNat 64 (s.reg .hstAqSqBase 0 f), size := size % 2 ^ 16 + 1, pasid := pasid, cq := 0, head := 0,
                     tail := 0, told := 0, stopped := false, deleting := none }
    (s.setFn f { y with aqEn := true, aqErr := false, sqs := insert y.sqs 0 sq, cqs := insert y.cqs 0 cq }).setReg .hstFnCtrl 0 f 1

def execAqEnable (f : Nat) (s : State) : Host.Outcome State Fault Refusal := .next (s.aqEnable f)

/-- AQ_DISABLE: AQ_EN 0 stops fetching; the pair goes once every fetched entry has completed. -/
def State.aqDisable (s : State) (f : Nat) : State :=
  if !s.fnReady f ∨ !(s.fn f).aqEn ∨ (s.fn f).aqRemoving then s
  else (s.modFn f fun y => { y with aqRemoving := true }).settleSq f 0

def execAqDisable (f : Nat) (s : State) : Host.Outcome State Fault Refusal := .next (s.aqDisable f)

end Sys2Proof.Machine
end

