-- ==== Sys2Proof/Machine/Pins.lean ====
section
/-! DEFINITION. Pins of the granary (R241-R244), and the BAR4 window onto device memory (R215, R273, R357). -/

namespace Sys2Proof.Machine

open Sys2Proof

/-! ## Pins -/

/-- Slices that a composition holds on a die. -/
def Comp.slicesOn (c : Comp) (d : Nat) : Nat := (c.cur.slices.filter fun k => decide (dieOf k = d)).length

/-- Q: the P lines that a composition may hold in each set of a die (R242). -/
def State.pinQuota (s : State) (c d : Nat) : Nat :=
  ((s.comp? c).map fun x => s.reg .grnPinCfg d 0 % 32 * x.slicesOn d / 8).getD 0

/-- P lines of the composition in a set. -/
def Die.pLines (x : Die) (c idx : Nat) : List (Nat × GLine) := (x.setLines idx).filter fun e => e.2.pinnedBy c

/-- The composition's pin of one sector of a line. -/
def GSec.pin (g : GSec) (c : Nat) : GSec := { g with pins := addOnce c g.pins }
def GSec.unpin (g : GSec) (c : Nat) : GSec := { g with pins := g.pins.filter fun k => decide (k ≠ c) }

/-- Pin a sector that is present: a line of the composition's, or one more within Q, is pinned; else its line takes class K and the demotion is counted
(R242). The flag says which. -/
def State.pinSector (s : State) (c n : Nat) : State × Bool :=
  let d := homeOf n
  match s.gline? n with
  | none => (s, false)
  | some l =>
    if l.pinnedBy c ∨ ((s.die d).pLines c (granIndex (256 * n))).length < s.pinQuota c d then
      let secs := match find? l.secs (n % 4) with
        | some g => insert l.secs (n % 4) (g.pin c)
        | none => l.secs
      let l' := { l with secs := secs, pinAt := if l.pinnedBy c then l.pinAt else insert l.pinAt c (s.die d).lru }
      (s.modDie d fun x => { x with gran := insert x.gran (n / 4) l', lru := x.lru + 1 }, true)
    else
      ((s.modDie d fun x => { x with gran := insert x.gran (n / 4) { l with cls := .k } }).count .grnPinDemote d 0 1, false)

/-- Fetch an absent sector and pin it: none where the PIN has to wait at its home. -/
def State.fetchPin (s : State) (e : EntryRef) (c n : Nat) : Option (State × Bool) :=
  match s.gsec? n with
  | some _ => some (s.pinSector c n)
  | none => (s.ncRead n 0 (ownerSlice n) false none (.pin e)).map fun r => r.1.pinSector c n

/-- Sectors of a range of composition addresses, as far as they are mapped. -/
def State.rangeSectors (s : State) (c a len : Nat) : List (Option Nat) :=
  match s.comp? c with
  | none => []
  | some x => (upto (len / 256)).map fun i => (s.translate c x.cur.epoch (a + 256 * i)).map fun y => y.dpa / 256

/-- Pin sectors one after another, until one has to wait: how far that came, and whether all are done. -/
def State.pinAll (s : State) (e : EntryRef) (c : Nat) (r : PinRun) : List Nat → State × PinRun × Bool
  | [] => (s, r, true)
  | n :: ns =>
    match s.fetchPin e c n with
    | none => (s.holdOnly n (.pin e), r, false)
    | some (s, ok) =>
      State.pinAll (s.unhold n (.pin e)) e c { next := r.next + 1, pinned := r.pinned + b2n ok, demoted := r.demoted + b2n (!ok) } ns

/-- Clear the composition's pin of a sector; a line left with none takes class K (R241). -/
def State.unpinSector (s : State) (c n : Nat) : State × Bool :=
  match s.gline? n with
  | none => (s, false)
  | some l =>
    match find? l.secs (n % 4) with
    | none => (s, false)
    | some g =>
      if g.pins.contains c then
        (s.putGline n (GLine.settlePin l { l with secs := insert l.secs (n % 4) (g.unpin c) }), true)
      else (s, false)

/-- A line without the pins of a composition; one left with none takes class K. -/
def GLine.unpinAll (l : GLine) (c : Nat) : GLine :=
  if l.pinnedBy c then GLine.settlePin l { l with secs := mapVals (fun _ g => g.unpin c) l.secs, pinAt := erase l.pinAt c } else l

/-- Operand checks common to PIN and UNPIN: the composition is bound and this function's; the range is aligned and mapped here; its homes are
in service. -/
def State.pinStatus (s : State) (e : EntryRef) (x : Entry) : Nat :=
  let a := x.word 2
  let len := (x.word 3).toNat
  if a.toNat % 256 ≠ 0 ∨ len % 256 ≠ 0 ∨ len = 0 ∨ !x.zeroFrom 4 then 1
  else if (s.comp? x.comp).all fun c => decide (c.fn ≠ e.fn) then 2
  else if s.panelField x.comp a = .here ∧ bits a 47 0 + len ≤ 2 ^ 48 then
    let ns := s.rangeSectors x.comp (bits a 47 0) len
    if ns.any (·.isNone) then 1 else if ns.any fun n => !s.dieUp (homeOf (n.getD 0)) then 6 else 0
  else if s.panelField x.comp a = .other then 0 else 1

/-- The granary lines that hold leased sectors of a range of another panel's memory take class K on every die (R242). -/
def State.keepLeased (s : State) (c : Nat) (a : DWord) (len : Nat) : State :=
  let lines := distinct ((upto (len / 256)).map fun i => leaseKey c (a + BitVec.ofNat 64 (256 * i)) / 4)
  let keep (m : List (Nat × GLine)) (ln : Nat) : List (Nat × GLine) :=
    match find? m ln with
    | some l => insert m ln { l with cls := .k }
    | none => m
  { s with dies := mapVals (fun _ x => { x with gran := lines.foldl keep x.gran }) s.dies }

/-- What a started PIN still has to do: each absent sector of the range is fetched and pinned within the way limit; a leased range is demoted, and
counted on the die of the composition's first slice (R241, R242). -/
def State.pinGo (s : State) (e : EntryRef) (x : Entry) : State :=
  let st := s.pinStatus e x
  if st ≠ 0 then s.complete e st
  else if s.panelField x.comp (x.word 2) = .other then
    let d := ((s.comp? x.comp).map fun c => dieOf (c.cur.slices.headD 0)).getD 0
    let n := (x.word 3).toNat / 256
    ((s.keepLeased x.comp (x.word 2) (x.word 3).toNat).count .grnPinDemote d 0 n).complete e 0 n
  else
    let ns := (s.rangeSectors x.comp (bits (x.word 2) 47 0) (x.word 3).toNat).filterMap id
    let (s, r, done) := s.pinAll e x.comp x.pins (ns.drop x.pins.next)
    if done then s.complete e 0 (r.pinned * 2 ^ 32 + r.demoted)
    else s.modFn e.fn fun f => { f with entries := f.entries.map fun y => if y.ref = e then { y with pins := r } else y }

/-- PIN; one that a sector holds goes on from there. -/
def execPin (e : EntryRef) (s : State) : Host.Outcome State Fault Refusal :=
  .next (
    match s.entry? e with
    | none => s
    | some x => if x.opcode = 0x18 ∧ x.started then s.pinGo e x else s.command e 0x18 (some true) fun x s => s.pinGo e x)

/-- Every PIN that has started goes on. -/
def State.pinServe (s : State) : State :=
  (s.host.fns.flatMap fun f => f.2.entries.filter fun y => decide (y.opcode = 0x18) && y.started).foldl (fun (s : State) y =>
    match s.entry? y.ref with
    | some x => s.pinGo y.ref x
    | none => s) s

/-- UNPIN. -/
def execUnpin (e : EntryRef) (s : State) : Host.Outcome State Fault Refusal :=
  .next (s.command e 0x19 (some true) fun x s =>
    let st := s.pinStatus e x
    if st ≠ 0 then s.complete e st
    else
      let ns := (s.rangeSectors x.comp (bits (x.word 2) 47 0) (x.word 3).toNat).filterMap id
      let (s, n) := ns.foldl (fun (r : State × Nat) m =>
        let (s, ok) := r.1.unpinSector x.comp m
        (s, r.2 + b2n ok)) (s, 0)
      s.complete e 0 (n * 2 ^ 32))

/-- The composition's most recently pinned of some lines. -/
def latestPin (c : Nat) : List (Nat × GLine) → Option (Nat × GLine)
  | [] => none
  | e :: es =>
    match latestPin c es with
    | none => some e
    | some f => if getD 0 f.2.pinAt c ≤ getD 0 e.2.pinAt c then some e else some f

/-- Demote the most recently pinned lines of a composition in a set until it holds no more than Q (R243). -/
def State.demoteTo (s : State) (c d idx q : Nat) : Nat → State
  | 0 => s
  | k + 1 =>
    let ls := (s.die d).pLines c idx
    if ls.length ≤ q then s
    else
      match latestPin c ls with
      | none => s
      | some (ln, l) =>
        let n := (l.secs.filter fun e => e.2.pins.contains c).length
        ((s.modDie d fun x => { x with gran := insert x.gran ln (l.unpinAll c) }).count .grnPinDemote d 0 n).demoteTo c d idx q k

/-- Apply R243 on a die after PIN_LIMIT or a composition's share of the die has changed. -/
def State.enforcePins (s : State) (d : Nat) : State :=
  let sets := distinct ((s.die d).gran.filterMap fun e => if e.2.pinned then some (granIndex (1024 * e.1)) else none)
  (keys s.yoke.comps).foldl (fun (s : State) c =>
    sets.foldl (fun (s : State) i => s.demoteTo c d i (s.pinQuota c d) 64) s) s

/-! ## BAR4 (R215, R273, R357) -/

/-- How a BAR4 request is answered on arrival. -/
inductive Bar4 where
  | go (dpa : Nat)
  | ur
  | ca
  deriving DecidableEq, Repr

/-- The slices whose memory some bytes lie in. -/
def slicesAt (dpa len : Nat) : List Nat := distinct [sliceOfDpa dpa, sliceOfDpa (dpa + len - 1)]

/-- The checks of R357 and Table 18-6 on `len` bytes at an offset of the window. -/
def State.bar4 (s : State) (offset len : Nat) : Bar4 :=
  let a := s.reg .hstBar4Base 0 0 + offset
  let slices := slicesAt a len
  if s.reg .hstBar4Ctrl 0 0 % 2 = 0 ∨ len = 0 ∨ 2 ^ (30 + s.host.bar4Window) < offset + len ∨ dramBytes < a + len then .ur
  else if !s.debugScope 1 && slices.any fun k => (s.owner? k).any fun o => (s.comp? o.1).any fun c => decide (c.fn ≠ 0) then .ur
  else if slices.any fun k => !s.dieUp (dieOf k) then .ca
  else .go a

/-- Read pieces of device memory for BAR4. -/
def State.bar4Bytes (s : State) : List (Int × Nat) → Moved (State × Marked)
  | [] => .ok (s, [])
  | (a, n) :: ps =>
    let m := a.toNat / 256
    match s.ncRead m 0 (ownerSlice m) false none .bar4 with
    | none => .wait m
    | some (s, v, p) =>
      (State.bar4Bytes s ps).bind fun r => .ok (r.1, (sectorBytes v (a.toNat % 256) n).map (fun b => (b, p)) ++ r.2)

/-- Write pieces of device memory for BAR4. -/
def State.bar4Put (s : State) : List (Int × Nat) → List Byte → Moved State
  | [], _ => .ok s
  | (a, n) :: ps, bs =>
    let m := a.toNat / 256
    match s.ncWrite m (a.toNat % 256) (bs.take n) .write false 0 (ownerSlice m) false .bar4 with
    | none => .wait m
    | some s => State.bar4Put s ps (bs.drop n)

/-- The page that holds a device physical address is mapped uncached by the composition that holds it (R273). -/
def State.uncachedAt (s : State) (dpa : Nat) : Bool :=
  s.yoke.comps.any fun e => e.2.cur.regions.any fun r =>
    r.uncached && !r.shared && match setOffset? (e.2.cur.set r.set) dpa with
      | some x => decide (r.offset ≤ x) && decide (x < r.offset + r.size)
      | none => false

/-- The combined group of one member that a BAR4 AtomicOp is at its home. -/
def State.barGroup (s : State) (dpa : Nat) (op : BarAtomic) (size : Nat) (a b : DWord) : AtomGroup where
  drill := { slice := 0, engine := 0, slot := 0 }
  context := 0
  dst := 0
  op := match op with
    | .fetchAdd => .add
    | .swap => .xch
    | .cas => .cas
  ty := if size = 4 then .u32 else .u64
  byte := dpa % 256
  ord := 0
  hint := 0
  uncached := s.uncachedAt dpa
  members := [{ thread := 0, b := a, c := b }]

/-- Perform the request in front (R357): poisoned data completes so marked. A die that has left service since it arrived aborts it. -/
def State.barDo (s : State) (o : BarOp) : Moved State :=
  let down (a n : Nat) : Bool := (slicesAt a n).any fun k => !s.dieUp (dieOf k)
  match o with
  | .sqTail f q v => .ok (s.sqTail f q v)
  | .cqHead f q v => .ok (s.cqHead f q v)
  | .read a n =>
    if down a n then .ok (s.out .bar4CA)
    else (s.bar4Bytes (pieces a n (n / 256 + 2))).bind fun r => .ok (r.1.out (.bar4 (r.2.map (·.1)) (r.2.any (·.2))))
  | .write a bs => if down a bs.length then .ok (s.out .bar4CA) else s.bar4Put (pieces a bs.length (bs.length / 256 + 2)) bs
  | .atomic p op size a b =>
    if down p size then .ok (s.out .bar4CA)
    else
      match s.ncAtomic (p / 256) (s.barGroup p op size a b) (ownerSlice (p / 256)) .bar4 with
      | none => .wait (p / 256)
      | some (s, _, true) =>
        let (k, s) := s.takeFresh size
        .ok (s.out (.bar4 (freeBytes k size) true))
      | some (s, olds, false) => .ok (s.out (.bar4 (natLe size (olds.headD 0).toNat) false))

/-- Perform the waiting requests in arrival order, until one has to wait at a home (R215). -/
def State.barServe : Nat → State → State
  | 0, s => s
  | k + 1, s =>
    match s.host.barQ with
    | [] => s
    | o :: rest =>
      match s.barDo o with
      | .ok t => State.barServe k { t with host := { t.host with barQ := rest } }
      | .wait n => s.holdOnly n .bar4
      | _ => s

/-- A request joins those that wait, and what can be performed is. -/
def State.barArrive (s : State) (o : BarOp) : State := (s.barWait o).barServe (s.host.barQ.length + 1)

/-- Answer a BAR4 request for `len` bytes, or let it join. -/
def State.bar4Request (s : State) (offset len : Nat) (o : Nat → BarOp) : State :=
  if !s.fnReady 0 then s
  else
    match s.bar4 offset len with
    | .ur => s.out .bar4UR
    | .ca => s.out .bar4CA
    | .go a => s.barArrive (o a)

/-- BAR4_READ: coherent at the home. -/
def execBar4Read (offset len : Nat) (s : State) : Host.Outcome State Fault Refusal := .next (s.bar4Request offset len fun a => .read a len)

/-- BAR4_WRITE. -/
def execBar4Write (offset : Nat) (data : List Byte) (s : State) : Host.Outcome State Fault Refusal :=
  .next (s.bar4Request offset data.length fun a => .write a data)

/-- BAR4_ATOMICOP: FetchAdd, Swap or CAS of 32 or 64 bits, the old value returned; other sizes are unsupported (Table 13-1). -/
def execBar4Atomicop (offset : Nat) (op : BarAtomic) (size : Nat) (a b : DWord) (s : State) : Host.Outcome State Fault Refusal :=
  .next (
    if !s.fnReady 0 then s
    else if (size ≠ 4 ∧ size ≠ 8) ∨ offset % size ≠ 0 then s.out .bar4UR
    else s.bar4Request offset size fun p => .atomic p op size a b)

end Sys2Proof.Machine
end

