-- ==== Sys2Proof/Machine/Yoke.lean ====
section
/-! DEFINITION. The yoke controller: accounting of slices, epochs and their drain (R392-R398), joining, flushing and releasing slices, the division of KV pages (R426), the capture ring that a composition writes (R543). -/

namespace Sys2Proof.Machine

open Sys2Proof

/-! ## Accounting (R406, R454, R455) -/

/-- From GATHER to COMMIT, a second run of the pass included (R454). -/
def ServeState.inPass (v : ServeState) : Bool := v.running || decide (v = .rollback)

/-- Bring the times that are counted for a slice up to now (R454). -/
def State.accountSlice (s : State) (k : Nat) : State :=
  let dt := s.time.now - (s.core k).boundAt
  let s : State := match s.owner? k with
    | none => s
    | some (o, _) =>
      let s : State := (s.meterKey k (16 * o) dt).meterKey k (16 * o + 11) dt
      let s : State := match s.coreComp k with
        | some h => if (s.comp? h).any fun x => x.serve.st.inPass then s.meterKey k (16 * h + 12) dt else s
        | none => s
      let s : State := if (s.core k).loan = .none_ then s else s.meterKey k (16 * o + 13) dt
      if (s.comp? o).any fun x => x.move.any fun m => decide (m.phase = .final) then s.meterKey k (16 * o + 14) dt else s
  s.modCore k fun c => { c with boundAt := s.time.now }

/-- The slices of a composition, leaving ones included, and the cores lent to it. -/
def State.coresOf (s : State) (c : Nat) : List Nat :=
  (match s.comp? c with
    | some x => x.cur.slices ++ x.leaving
    | none => []) ++ (s.cores.filter fun e => decide (e.2.borrower = some c)).map (·.1)

def State.accountComp (s : State) (c : Nat) : State := (s.coresOf c).foldl (fun (s : State) k => s.accountSlice k) s

/-- Add one amount of a core into the tenant table, and into the composition's record when ACCT is 1. -/
def State.addAmount (s : State) (key n : Nat) : State :=
  let c := key / 16
  let i := key % 16
  match s.comp? c with
  | none => s
  | some x =>
    if i ≤ 10 then
      let j := 16 * x.tenant + i
      let n := if i = 0 then n / 1000 else n
      { s with yoke := { s.yoke with tenants := setD 0 s.yoke.tenants j ((getD 0 s.yoke.tenants j + n) % 2 ^ 64) } }
    else if x.acct then s.setComp c { x with record := setD 0 x.record (i - 9) ((getD 0 x.record (i - 9) + n) % 2 ^ 64) }
    else s

/-- Add the amounts that core `k` holds for the compositions in `p`; parts of a slice-µs stay. -/
def State.addMeters (s : State) (p : Nat → Bool) (k : Nat) : State :=
  let ms := (s.core k).meters
  let s := (ms.filter fun e => p (e.1 / 16)).foldl (fun (s : State) e => s.addAmount e.1 e.2) s
  s.modCore k fun c => { c with meters := ms.filterMap fun e =>
    if !(p (e.1 / 16)) then some e else if e.1 % 16 = 0 ∧ e.2 % 1000 ≠ 0 then some (e.1, e.2 % 1000) else none }

/-- Charge the pins of a die for `ms` milliseconds (Table 14-6). -/
def State.meterPins (s : State) (d ms : Nat) : State :=
  (keys s.yoke.comps).foldl (fun (s : State) c =>
    let n := ((s.die d).gran.map fun e => (e.2.secs.filter fun g => g.2.pins.contains c).length).sum
    match s.lowestOn c d with
    | some k => s.meterKey k (16 * c + 5) (n * ms)
    | none => s) s

/-- METER_ADD: every 1 ms each slice's counts go into the tables (R406). -/
def execMeterAdd (s : State) : Host.Outcome State Fault Refusal :=
  .next (
    let last := s.yoke.meterTime
    if !s.inService ∨ s.time.now < last + 1000000 then s
    else
      let s := (keys s.yoke.comps).foldl (fun (s : State) c => s.accountComp c) s
      let s := (upto 24).foldl (fun (s : State) d => s.meterPins d ((s.time.now - last) / 1000000)) s
      let s := (keys s.cores).foldl (fun (s : State) k => s.addMeters (fun _ => true) k) s
      { s with yoke := { s.yoke with meterTime := s.time.now } })

/-! ## The capture ring (R541-R544) -/

/-- Bytes of the record at a ring offset, header included, from its LEN field. -/
def recordLen (s : State) (k : Capture) (off : Nat) : Nat :=
  let n := leNat ((upto 2).map fun i => readByte s.mem.host (hostKey k.pasid (k.dest.toNat + (off + 4 + i) % k.size)))
  16 + (n + 7) / 8 * 8

/-- Bytes of the ring that hold records. -/
def Capture.used (k : Capture) : Nat :=
  if k.written = 0 then 0 else let u := (k.tail + k.size - k.oldest) % k.size; if u = 0 then k.size else u

/-- Give up oldest records until `n` bytes are free. -/
def Capture.evict (s : State) (n : Nat) : Nat → Capture → Capture
  | 0, k => k
  | f + 1, k =>
    if k.used + n ≤ k.size then k
    else Capture.evict s n f { k with oldest := (k.oldest + recordLen s k k.oldest) % k.size, wrapped := true }

/-- Write one record at the ring's tail; a full ring without WRAP ends the recording. -/
def State.ringRecord (s : State) (c : Nat) (k : Capture) (r : List Byte) : State × Capture :=
  let n := r.length
  if !k.active then (s, k)
  else if !k.wrap ∧ k.size < k.written + n then (s, { k with active := false })
  else
    let k := Capture.evict s n 4096 k
    let first := r.take (k.size - k.tail)
    let rest := r.drop (k.size - k.tail)
    match s.hostWrite k.fn k.pasid (k.dest.toNat + k.tail) first with
    | none => (s, { k with active := false })
    | some (s, d1) =>
      match s.hostWrite k.fn k.pasid k.dest.toNat rest with
      | none => (s, { k with active := false })
      | some (s, d2) =>
        let s := match ((s.comp? c).bind fun x => x.cur.slices.head?) with
          | some i => s.meter i 9 n
          | none => s
        (if d1 || d2 then s.dueCodes k.fn [mkCode 0x10D000F5 k.fn] else s, { k with tail := (k.tail + n) % k.size, written := k.written + n })

/-- Write what is gathered to the host (R543). -/
def State.captureFlush (s : State) (c : Nat) : State :=
  match find? s.tst.captures c with
  | none => s
  | some k =>
    let (s, k) := k.buffer.foldl (fun (a : State × Capture) r => a.1.ringRecord c a.2 r) (s, { k with buffer := [] })
    { s with tst := { s.tst with captures := insert s.tst.captures c k } }

/-! ## Drain (R395) -/

/-- What a live drill adds to its slice's drain counter: itself, and its requests not yet completed. -/
def Drill.load (x : Drill) : Nat := 1 + x.unperformed.length + ((x.mem.map fun m => m.due.length).getD 0)

/-- The drain counters of an epoch of a composition, summed over its slices: drills with the requests of their instructions, transfers, and the lease
fetches that only a PREF waits for. -/
def State.drainTotal (s : State) (c : Nat) (e : Byte) : Nat :=
  let ofDrills (l : List (Nat × Drill)) : Nat := (l.map fun d => if d.2.comp = c ∧ d.2.epoch = e then d.2.load else 0).sum
  let ofXfers (l : List Xfer) : Nat := (l.filter fun x => decide (x.comp = c) && decide (x.epoch = e)).length
  (s.cores.map fun k => ofDrills k.2.drills + ofXfers k.2.xfers +
    (match k.2.saved with
      | some v => ofDrills v.drills + ofXfers v.xfers
      | none => 0)).sum +
  (s.dies.map fun d => ofXfers d.2.reeveXfers +
    (d.2.leases.filter fun l => l.2.pending && l.2.loads.isEmpty && decide (l.2.comp = c) && decide (l.2.epoch = e)).length).sum

/-- The previous epoch has drained on this panel. -/
def State.drained (s : State) (c : Nat) (x : Comp) : Bool :=
  match x.prev with
  | some m => decide (s.drainTotal c m.epoch = 0)
  | none => true

/-- Leaving slices that can still be released: those of a partition out of service wait for the next start-up (R509). -/
def State.leavingLive (s : State) (x : Comp) : List Nat := x.leaving.filter fun k => decide ((s.die (dieOf k)).part ≠ .outOfService)

/-- The first of the pins that follow a moved region moves: the new sector is pinned, then the old one is not. The flag says whether it could; where it
has to wait for the new sector it takes its place there (R400). -/
def State.movePin (s : State) (e : EntryRef) (p : Nat × Nat × Nat) : State × Bool :=
  match s.fetchPin e p.1 p.2.2 with
  | none => (s.holdOnly p.2.2 (.pin e), false)
  | some (s, _) => ((s.unpinSector p.1 p.2.1).1.unhold p.2.2 (.pin e), true)

/-- Move pins until one has to wait: those that are left. -/
def State.movePinList (s : State) (e : EntryRef) : List (Nat × Nat × Nat) → State × List (Nat × Nat × Nat)
  | [] => (s, [])
  | p :: ps =>
    match s.movePin e p with
    | (s, true) => State.movePinList s e ps
    | (s, false) => (s, p :: ps)

/-- A composition's pins follow the region that its command has moved. -/
def State.movePins (s : State) (c : Nat) : State :=
  match (s.comp? c).bind fun x => x.settling.map fun e => (x, e.1) with
  | none => s
  | some (x, e) =>
    let (s, ps) := s.movePinList e x.pinMoves
    s.modComp c fun x => { x with pinMoves := ps }

/-- A committed command completes once the previous epoch has drained, the pins of a moved region have followed and, in a composition that does not
span panels, its leaving slices are free (R392, R396, R400). -/
def State.settleEpoch (s : State) (c : Nat) : State :=
  let s := s.movePins c
  match s.comp? c with
  | none => s
  | some x =>
    match x.settling with
    | none => s
    | some (e, re) =>
      if s.drained c x ∧ x.pinMoves = [] ∧ (x.span ∨ s.leavingLive x = []) then
        (s.setComp c { x with settling := none }).complete e 0 (if re then x.cur.epoch.toNat * 2 ^ 16 else 0)
      else s

/-! ## KV pages (R426) and state records (R405) -/

/-- The pools of a map: its dies, rising. -/
def EpochMap.pools (m : EpochMap) : List Nat := (upto 24).filter fun d => m.slices.any fun k => decide (dieOf k = d)

/-- Divide free pages among the pools in proportion to their slices; the pages left over go one each from the lowest die up. -/
def EpochMap.divide (m : EpochMap) (total : Nat) : SMap Nat :=
  let n := m.slices.length
  let base (d : Nat) : Nat := total * (m.slices.filter fun k => decide (dieOf k = d)).length / n
  let left := total - (m.pools.map base).sum
  (m.pools.mapIdx fun i d => (d, base d + b2n (decide (i < left)))).foldl (fun a e => setD 0 a e.1 e.2) []

/-- Redivide the free pages at an epoch commit. -/
def Serve.redivide (v : Serve) (m : EpochMap) : Serve :=
  if v.st = .stopped then v else { v with free := m.divide ((v.free.map (·.2)).sum) }

/-- The pool with the most free pages, the lowest die on a tie. -/
def mostFree (free : SMap Nat) : List Nat → Option Nat
  | [] => none
  | d :: ds =>
    match mostFree free ds with
    | none => some d
    | some b => if getD 0 free d < getD 0 free b then some b else some d

/-- Keys of the ownership table and of the pools' copies (R402, R403). -/
def ownerKey (c handle : Nat) : Nat := c * 2 ^ 32 + handle % 2 ^ 32
def copyKey (c handle : Nat) (p : Pool) : Nat := ownerKey c handle * 2 ^ 17 + p.panel.toNat * 2 ^ 5 + p.die % 32
def copiesOf (c handle : Nat) (l : List (Nat × CopySt)) : List (Nat × CopySt) := l.filter fun e => decide (e.1 / 2 ^ 17 = ownerKey c handle)

/-- A pool of this panel. -/
def State.pool (s : State) (d : Nat) : Pool := { panel := BitVec.ofNat 12 s.panelAddr, die := d }

/-- The owner of a stream's record: the table's, else the pool that the stream was admitted to, with GEN 0 (R402). -/
def State.recordOwner (s : State) (c handle : Nat) : Option (Pool × Byte) :=
  match find? s.yoke.owners (ownerKey c handle) with
  | some o => some (o.pool, o.gen)
  | none => (s.comp? c).bind fun x => (x.serve.streams.find? fun t => decide (t.handle.toNat = handle)).map fun t => (s.pool t.pool, 0)

/-- The table names a new owner. -/
def State.setOwner (s : State) (c handle : Nat) (p : Pool) (gen : Byte) : State :=
  { s with yoke := { s.yoke with owners := insert s.yoke.owners (ownerKey c handle) { comp := c, pool := p, gen := gen, time := s.time.now } } }

/-- Move the records of pools that a REBIND removes, each to the remaining pool with the most free pages (R405). -/
def State.moveRecords (s : State) (c : Nat) (m : EpochMap) : State :=
  match s.comp? c with
  | none => s
  | some x =>
    (x.serve.streams.filter fun t => t.admitted && !m.pools.contains t.pool).foldl (fun (s : State) t =>
      match s.comp? c with
      | none => s
      | some x =>
        match mostFree x.serve.free m.pools with
        | none => s
        | some d =>
          let n := t.kept.pages
          let free := setD 0 x.serve.free t.pool (getD 0 x.serve.free t.pool + n)
          let free := setD 0 free d (getD 0 free d - n)
          let streams := x.serve.streams.map fun u => if u.handle = t.handle then { u with pool := d } else u
          let gen := ((s.recordOwner c t.handle.toNat).map (·.2)).getD 0
          (s.setComp c { x with serve := { x.serve with streams := streams, free := free } }).setOwner c t.handle.toNat (s.pool d) (gen + 1)) s

/-! ## Slices join, leave, are flushed and released -/

/-- Zero a slice's seedbed and both its channels (R386). -/
def State.zeroSlice (s : State) (k : Nat) : State :=
  let lo := 2 * k * channelBytes
  let s := { s with mem := { s.mem with dram := clearRange s.mem.dram lo (lo + 2 * channelBytes),
                                        poison := s.mem.poison.filter fun n => decide (ownerSlice n ≠ k) } }
  let s := s.clearErrs fun n => decide (ownerSlice n = k)
  s.modCore k fun c => { c with seedbed := [], sbPoison := [], liveMark := 0 }

/-- A slice joins a composition: zeroed when another tenant held it last; its tally counters go to the live context (R191, R386). A stack
whose contents a margining sweep left undefined is initialised first (R301, R540). -/
def State.joinSlice (s : State) (tenant : Nat) (ctx : Half) (k : Nat) : State :=
  let s := if (s.die (dieOf k)).undef.isSome then s.initStack (dieOf k) else s
  let s := if (s.core k).lastTenant.any fun t => decide (t ≠ tenant) then s.zeroSlice k else s
  s.modCore k fun c => { c.grantTallies ctx with lastTenant := some tenant, boundAt := s.time.now, domainOn := true }

/-- Leases of a composition end when its epoch increments (R253); a fetch under way serves only the loads that wait for it. -/
def State.endCompLeases (s : State) (c : Nat) : State :=
  { s with dies := mapVals (fun _ x => x.endLeases fun _ l => decide (l.comp = c)) s.dies }

/-- Sectors of a die that the flush of a slice writes back: in its three ways, or of its two channels (R255). -/
def State.flushSet (s : State) (k : Nat) : List Nat :=
  (s.die (dieOf k)).gran.flatMap fun e =>
    if e.2.way = k ∨ ownerSlice (4 * e.1) = k then e.2.secs.map fun g => 4 * e.1 + g.1 else []

/-- GRANARY_SLICE_FLUSH: a leaving slice whose previous epoch has drained is flushed; sectors with a transaction under way follow once it
is over. -/
def execGranarySliceFlush (slice : Nat) (s : State) : Host.Outcome State Fault Refusal :=
  .next (
    match s.owner? slice with
    | some (c, true) =>
      if !s.inService ∨ !s.dieUp (dieOf slice) ∨ !(s.comp? c).any (fun x => s.drained c x) then s
      else
        let s := (s.flushSet slice).foldl (fun (s : State) n => if s.settled n then s.flushSector n else s) s
        s.modDie (dieOf slice) fun x => x.endLeases fun key l => decide (l.slice = slice) || (find? x.gran (key / 4)).any fun g => decide (g.way = slice)
    | _ => s)

/-- Unpin every line that a composition pinned. -/
def State.dropPins (s : State) (c : Nat) : State :=
  { s with dies := mapVals (fun _ x => { x with gran := mapVals (fun _ l => l.unpinAll c) x.gran }) s.dies }

/-- The last slice of an unbound composition is free: its meters take their final sample, its pins, regions and ownership entries go, and
UNBIND completes (R388); its function answers configuration requests again once it has no composition left (R375). -/
def State.finishUnbind (s : State) (c : Nat) : State :=
  match s.comp? c with
  | none => s
  | some x =>
    let s := s.accountComp c
    let s := (keys s.cores).foldl (fun (s : State) k => s.addMeters (fun d => decide (d = c)) k) s
    let s := s.captureFlush c
    let s := match (find? s.tst.captures c).bind (·.entry) with
      | some e => s.complete e 4
      | none => s
    let s := match find? s.tst.replays c with
      | some r => s.complete r.entry 4
      | none => s
    let s := { s with tst := { s.tst with captures := erase s.tst.captures c, replays := erase s.tst.replays c } }
    let s := (s.dropPins c).dropComp c
    let y := { s.yoke with owners := s.yoke.owners.filter fun e => decide (e.2.comp ≠ c) }
    let y := { y with copies := y.copies.filter fun e => decide (e.1 / 2 ^ 49 ≠ c), notMine := y.notMine.filter fun e => decide (e.1 / 2 ^ 32 ≠ c) }
    let s := { s with yoke := y }
    let s := match x.unbindEntry with
      | some e => s.complete e 0
      | none => s
    if (s.fn x.fn).resetting && s.yoke.comps.all (fun (e : Nat × Comp) => decide (e.2.fn ≠ x.fn)) then s.modFn x.fn fun f => { f with resetting := false } else s

/-- Settle a composition after one of its slices was released. -/
def State.afterRelease (s : State) (c : Nat) : State :=
  match s.comp? c with
  | none => s
  | some x => if x.unbinding ∧ x.cur.slices = [] ∧ s.leavingLive x = [] then s.finishUnbind c else s.settleEpoch c

/-- Write back and invalidate a core's data cache, before its domain turns off (R475). -/
def State.purgeCore (s : State) (k : Nat) : State :=
  let s := (s.core k).cache.foldl (fun (s : State) e =>
    if s.dirOf e.1 = .ex k then s.recallNow e.1 true true else s.modCore k fun c => { c with cache := erase c.cache e.1 }) s
  s.modCore k fun c => { c with hostLines := [] }

/-- SLICE_RELEASE: a flushed leaving slice becomes free; one of a spanning composition only after the following epoch has committed
(R396), a lent one after its loan (R449). -/
def execSliceRelease (slice : Nat) (s : State) : Host.Outcome State Fault Refusal :=
  .next (
    match s.owner? slice with
    | some (c, true) =>
      match s.comp? c with
      | none => s
      | some x =>
        let early := x.span && !x.unbinding && x.prev.any fun m => m.slices.contains slice
        let leased := ((s.die (dieOf slice)).leases.any fun e => decide (e.2.slice = slice)) || (s.die (dieOf slice)).gran.any fun e =>
          decide (leaseLines ≤ e.1) && decide (e.2.way = slice)
        let busy := (s.core slice).cache.any fun e => !s.settled e.1 || !e.2.st.stable
        if !s.inService ∨ !s.dieUp (dieOf slice) ∨ !s.drained c x ∨ early ∨ leased ∨ busy ∨ s.flushSet slice ≠ [] ∨ (s.core slice).loan ≠ .none_ then s
        else
          let s := (s.accountSlice slice).purgeCore slice
          let s := s.modCore slice fun k =>
            { k with tallies := mapVals (fun _ t => { t with owner := none, frozen := false }) k.tallies, domainOn := false }
          (s.modComp c fun x => { x with leaving := x.leaving.filter fun k => decide (k ≠ slice) }).afterRelease c
    | _ => s)

/-! ## Epoch commit (R392-R394, R398-R400) -/

/-- The sectors of a region's place under a map. -/
def Region.sector (r : Region) (m : EpochMap) (set offset i : Nat) : Nat :=
  setPlace (m.set set) (offset + 256 * i % r.size) / 256

/-- The pins in a moved region: at the old place, and where they go (R400). -/
def State.pinsIn (s : State) (old new : EpochMap) (r : Region) (m : Move) : List (Nat × Nat × Nat) :=
  (upto (r.size / 256)).flatMap fun i =>
    let a := r.sector old r.set r.offset i
    (((s.gsec? a).map (·.pins)).getD []).map fun k => (k, a, r.sector new m.set m.offset i)

/-- EPOCH_COMMIT's effect: at a pass boundary, the previous epoch drained, the waiting change becomes the current map. A new slice whose
partition has left service aborts the command with status 0x06 (Table 18-6). -/
def State.commitEpoch (s : State) (c : Nat) : State :=
  match s.comp? c with
  | none => s
  | some x =>
    match x.change with
    | none => s.settleEpoch c
    | some ch =>
      if !x.serve.st.still ∨ !s.drained c x ∨ x.settling.isSome then s.settleEpoch c
      else
        let old := x.cur
        let m := { ch.map with epoch := old.epoch + 1 }
        let gone := old.slices.filter fun k => !m.slices.contains k
        let new := m.slices.filter fun k => !old.slices.contains k
        if new.any fun k => !s.dieUp (dieOf k) then
          let s := s.setComp c { x with change := none }
          match ch.entry with
          | some e => s.complete e 6
          | none => s
        else
          let s := (s.accountComp c).moveRecords c m
          let s := new.foldl (fun (s : State) k => s.joinSlice x.tenant x.context k) s
          let s := s.modComp c fun x =>
            { x with cur := m, prev := some old, change := none, leaving := x.leaving ++ gone, settling := ch.entry.map fun e => (e, ch.rebind),
                     serve := x.serve.redivide m }
          let s := match x.move with
            | none => s
            | some mv =>
              match old.regions.find? fun r => decide (r.vbase = mv.vbase) with
              | none => s
              | some r =>
                if r.ro then s.modComp c fun x => { x with move := none, settling := some (mv.entry, false), pinMoves := s.pinsIn old m r mv }
                else s.modComp c fun x => { x with move := some { mv with phase := .final } }
          let s := (distinct ((gone ++ new).map dieOf)).foldl (fun (s : State) d => s.enforcePins d) s
          ((((s.endCompLeases c).recordMark c 0).releaseHeld c).settleEpoch c)

/-- EPOCH_COMMIT. -/
def execEpochCommit (c : Nat) (s : State) : Host.Outcome State Fault Refusal := .next (if !s.inService then s else s.commitEpoch c)

end Sys2Proof.Machine
end

