-- ==== Sys2Proof/Machine/YokeCmd.lean ====
section
/-! DEFINITION. Composition commands: BIND, REBIND, UNBIND, MAP, UNMAP, MOVE_REGION, METER_READ (R379-R401, R407), and the ownership of stream records (R402-R404). -/

namespace Sys2Proof.Machine

open Sys2Proof

/-! ## Order (R381) -/

/-- Table 14-1's commands that name a composition. -/
def yokeOp (op : Nat) : Bool := decide (0x20 ≤ op ∧ op ≤ 0x25)

/-- Perform a composition command once no earlier one for the same composition is open, whichever function fetched it. -/
def State.yokeCommand (s : State) (e : EntryRef) (op : Nat) (body : Entry → State → State) : State :=
  match s.entry? e with
  | none => s
  | some x =>
    let before := s.host.fns.any fun f => f.2.entries.any fun y => yokeOp y.opcode && decide (y.comp = x.comp) && decide (y.seq < x.seq)
    if yokeOp op && before then s else s.command e op (some true) body

/-- Word 0's CONTEXT (R382). -/
def Entry.context (x : Entry) : Nat := bits (x.word 0) 47 32

/-- The PASID of a function's admin queue. -/
def State.adminPasid (s : State) (f : Nat) : Option Nat := ((s.sq? f 0).map (·.pasid)).getD none

/-! ## Operands of BIND and REBIND (R382-R385) -/

/-- A slice-list entry (R384). -/
structure SliceEntry where
  set : Nat
  ch : Nat
  slice : Nat
  deriving DecidableEq, Repr

def SliceEntry.channels (e : SliceEntry) : List Nat :=
  match e.ch with
  | 0 => [2 * e.slice, 2 * e.slice + 1]
  | 1 => [2 * e.slice]
  | _ => [2 * e.slice + 1]

def sliceEntry (w : DWord) : SliceEntry := { set := bits w 18 16, ch := bits w 15 14, slice := bits w 7 0 }

/-- A reserved bit, a reserved CH or a slice out of range. -/
def sliceWordBad (w : DWord) : Bool := decide (bits w 63 19 ≠ 0 ∨ bits w 13 8 ≠ 0 ∨ bits w 15 14 = 3 ∨ 192 ≤ bits w 7 0)

/-- A safeguard word with a reserved bit or a reserved field value (Table 02-7). -/
def safeguardBad (w : Word) : Bool :=
  decide (bits w 31 28 ≠ 0) || decide (bits w 25 21 < 8) || decide (23 < bits w 25 21) || decide (bits w 20 16 = 0) || decide (23 < bits w 20 16)

def Entry.nent (x : Entry) : Nat := bits (x.word 3) 40 32
def Entry.safeguard (x : Entry) : Word := (x.word 3).setWidth 32
def Entry.span (x : Entry) : Bool := bit (x.word 5) 63

/-- The checks of status 0x01 on the words of the entry alone. -/
def State.bindWordsBad (s : State) (e : EntryRef) (x : Entry) (re : Bool) : Bool :=
  let lists := decide (x.word 2 ≠ 0 ∧ 1 ≤ x.nent ∧ x.nent ≤ 384) || (re && decide (x.word 2 = 0 ∧ x.nent = 0))
  decide (x.context ≠ 0 ∨ bits (x.word 3) 51 41 ≠ 0 ∨ bits (x.word 4) 41 32 ≠ 0 ∨ bits (x.word 4) 30 20 ≠ 0) ||
    decide (bits (x.word 5) 62 60 ≠ 0 ∨ bits (x.word 5) 47 8 ≠ 0 ∨ bits (x.word 2) 2 0 ≠ 0) || !x.zeroFrom 6 || !lists ||
    safeguardBad x.safeguard || (!x.span && decide (x.word 5 ≠ 0)) || (s.cq? e.fn (bits (x.word 4) 63 48)).isNone

/-- REBIND names a value that only BIND may set (R383). -/
def Entry.rebindDiffers (x : Entry) (c : Comp) : Bool :=
  decide (bits (x.word 3) 63 52 ≠ c.tenant ∨ bits (x.word 4) 63 48 ≠ c.eventCq ∨ pasidOf (x.word 4) ≠ c.pasid ∨ bits (x.word 4) 19 0 ≠ c.pasidField) ||
    decide (bit (x.word 4) 45 ≠ c.acct ∨ x.span ≠ c.span ∨ bits (x.word 5) 59 48 ≠ c.auth.toNat)

/-- The slices that entries name, rising. -/
def slicesIn (es : List SliceEntry) : List Nat := (upto 192).filter fun k => es.any fun e => decide (e.slice = k)

/-- The sets that entries form: numbers and channels in member order. -/
def setsOf (es : List SliceEntry) : List (Nat × List Nat) :=
  (upto 8).filterMap fun n =>
    match es.filter fun e => decide (e.set = n) with
    | [] => none
    | l => some (n, l.flatMap SliceEntry.channels)

/-- A set holds 2^j channels, j from 0 to 8. -/
def setSizeOk (chs : List Nat) : Bool := decide (1 ≤ chs.length) && decide (chs.length ≤ 256) && decide (2 ^ Nat.log2 chs.length = chs.length)

/-- A slice that is free and no waiting REBIND has claimed. -/
def State.sliceFree (s : State) (k : Nat) : Bool :=
  (s.owner? k).isNone && s.yoke.comps.all fun c => c.2.change.all fun h => !h.map.slices.contains k

/-- A slice's die takes no composition now (R385). -/
def State.dieBusy (s : State) (d : Nat) : Bool := !s.dieUp d || (s.die d).updating

/-- The first status that applies to BIND (`re` false) or REBIND, in R385's order; the slice list as read. -/
def State.bindStatus (s : State) (e : EntryRef) (x : Entry) (re : Bool) (ws : List DWord) : Nat :=
  let c := s.comp? x.comp
  let es := ws.map sliceEntry
  let slices := slicesIn es
  let sets := setsOf es
  let chs := es.flatMap SliceEntry.channels
  let mine (k : Nat) : Bool := re && c.any fun y => y.cur.slices.contains k
  if s.bindWordsBad e x re || (re && c.any fun y => x.rebindDiffers y) || ws.any sliceWordBad then 1
  else if !re ∧ bit (x.word 4) 45 ∧ e.fn ≠ 0 then 2
  else if slices.any fun k => s.dieBusy (dieOf k) then 6
  else if slices.any fun k => !mine k && (!s.sliceFree k || !(s.fnDies e.fn).contains (dieOf k)) then 0x10
  else if (sets.any fun t => !setSizeOk t.2) || decide ((distinct chs).length ≠ chs.length) then 0x11
  else if re && !ws.isEmpty && c.any fun y => y.cur.regions.any fun r => !r.shared && decide (find? sets r.set ≠ find? y.cur.sets r.set) then 0x13
  else if c.isSome ≠ re then 0x14
  else if re && c.any fun y => decide (y.fn ≠ e.fn) then 2
  else if x.span ∧ s.link.sysAddr.isNone then 3
  else if x.span ∧ bits (x.word 5) 7 0 ≠ ((c.map fun y => (y.cur.epoch + 1).toNat).getD 0) then 0x15
  else 0

/-- The slice list, read from the host under the admin queue's PASID; none where the host refuses the read. -/
def State.sliceList (s : State) (e : EntryRef) (x : Entry) : Option (List DWord) :=
  if x.nent = 0 then some [] else s.hostWords (s.adminPasid e.fn) (x.word 2).toNat x.nent

/-- The map that an entry's fields make. -/
def Entry.mapFor (x : Entry) (epoch : Byte) (slices : List Nat) (sets : List (Nat × List Nat)) (regions : List Region) : EpochMap where
  epoch := epoch
  slices := slices
  sets := sets
  regions := regions
  safeguard := x.safeguard
  g1 := bit (x.word 4) 47
  discardPoison := bit (x.word 4) 46
  prio := bits (x.word 4) 44 42

/-- A margining sweep runs on the die of a listed slice: the command waits for its end. -/
def State.marginBusy (s : State) (ws : List DWord) : Bool := ws.any fun w => (s.die (dieOf (sliceEntry w).slice)).margin.busy

/-- An earlier BIND still open, of whichever function, names one of the same slices (R381). -/
def State.bindBefore (s : State) (x : Entry) (ws : List DWord) : Bool :=
  s.host.fns.any fun f => f.2.entries.any fun y =>
    decide (y.opcode = 0x20 ∧ y.seq < x.seq) &&
      ((s.sliceList y.ref y).getD []).any fun w => ws.any fun v => decide ((sliceEntry w).slice = (sliceEntry v).slice)

/-- The slice list is read by requests of the panel. -/
def State.readList (s : State) (e : EntryRef) (x : Entry) : State := s.hostSend false (s.adminPasid e.fn) (x.word 2).toNat (8 * x.nent)

/-- BIND (R385-R387): the slices join, zeroed where another tenant held them; the context is assigned; epoch 0x00. -/
def execBind (e : EntryRef) (s : State) : Host.Outcome State Fault Refusal :=
  .next (
    let held := (s.entry? e).any fun x => match s.sliceList e x with
      | some ws => s.marginBusy ws || s.bindBefore x ws
      | none => false
    if held then s
    else s.yokeCommand e 0x20 fun x s =>
      if s.bindWordsBad e x false then s.complete e 1
      else
        match s.sliceList e x with
        | none => s.complete e 5
        | some ws =>
          let s := s.readList e x
          let st := s.bindStatus e x false ws
          if st ≠ 0 then s.complete e st
          else
            let es := ws.map sliceEntry
            let slices := slicesIn es
            let y : Comp := { fn := e.fn, tenant := bits (x.word 3) 63 52, eventCq := bits (x.word 4) 63 48, pasid := pasidOf (x.word 4),
                              pasidField := bits (x.word 4) 19 0, acct := bit (x.word 4) 45, span := x.span, auth := BitVec.ofNat 12 (bits (x.word 5) 59 48),
                              cur := x.mapFor 0 slices (setsOf es) [], prev := none, context := 0, change := none, settling := none, move := none, pinMoves := [],
                              unbinding := false, unbindEntry := none, serve := .reset, peers := [], leaving := [], lost := [], record := [] }
            let s := (s.setComp x.comp y).assignContext x.comp
            let ctx := ((s.comp? x.comp).map (·.context)).getD 0
            let s := slices.foldl (fun (s : State) k => s.joinSlice y.tenant ctx k) s
            let s := (distinct (slices.map dieOf)).foldl (fun (s : State) d => s.enforcePins d) s
            s.complete e 0 ctx.toNat)

/-- A command that increments the epoch waits, and commits at once where it may (R392, R393). -/
def State.changeEpoch (s : State) (c : Nat) (e : EntryRef) (m : EpochMap) (re : Bool) : State :=
  (s.modComp c fun y => { y with change := some { entry := some e, map := m, rebind := re } }).commitEpoch c

/-- REBIND (R383-R387, R405). -/
def execRebind (e : EntryRef) (s : State) : Host.Outcome State Fault Refusal :=
  .next (s.yokeCommand e 0x21 fun x s =>
    if s.bindWordsBad e x true then s.complete e 1
    else
      match s.sliceList e x with
      | none => s.complete e 5
      | some ws =>
        let s := s.readList e x
        let st := s.bindStatus e x true ws
        if st ≠ 0 then s.complete e st
        else
          match s.comp? x.comp with
          | none => s
          | some y =>
            let es := ws.map sliceEntry
            let slices := if ws.isEmpty then y.cur.slices else slicesIn es
            let sets := if ws.isEmpty then y.cur.sets else setsOf es
            s.changeEpoch x.comp e (x.mapFor (y.cur.epoch + 1) slices sets y.cur.regions) true)

/-- Another composition maps one of `c`'s regions, or with `vbase` that region, through KIND 01. -/
def State.sharedElsewhere (s : State) (c : Nat) (r : Option Region) : Bool :=
  s.yoke.comps.any fun o => decide (o.1 ≠ c) && o.2.cur.regions.any fun t =>
    t.shared && decide (t.srcComp = c) && r.all fun r => decide (r.vbase ≤ t.srcVbase) && decide (t.srcVbase < r.vbase + r.size)

/-- The status common to UNBIND, MAP, UNMAP and MOVE_REGION after their operands: bound, and by this function (R385, Table 13-8). -/
def State.yokeStatus (s : State) (e : EntryRef) (x : Entry) : Nat :=
  match s.comp? x.comp with
  | none => 0x14
  | some y => if y.fn ≠ e.fn then 2 else 0

/-- Every slice of a torn-down composition leaves; pins, regions and ownership go with the last (R388). -/
def State.leaveAll (s : State) (c : Nat) : State :=
  match s.comp? c with
  | none => s
  | some x =>
    let s := s.accountComp c
    let m := { x.cur with slices := [], sets := [], regions := [] }
    (s.setComp c { x with cur := m, prev := none, leaving := x.leaving ++ x.cur.slices, serve := .reset, change := none, move := none }).afterRelease c

/-- The composition stops for UNBIND: its context is torn down; one already torn down leaves at once. -/
def State.stopForUnbind (s : State) (c : Nat) : State :=
  match s.comp? c with
  | none => s
  | some x => if x.context = 0 then s.leaveAll c else s.beginTeardown c true false

/-- UNBIND (R388, R393): at once in STOPPED, FAILED or WAIT, or when the context is gone already; else at the next pass boundary. -/
def execUnbind (e : EntryRef) (s : State) : Host.Outcome State Fault Refusal :=
  .next (s.yokeCommand e 0x22 fun x s =>
    let st := s.yokeStatus e x
    if x.context ≠ 0 ∨ !x.zeroFrom 2 then s.complete e 1
    else if st ≠ 0 then s.complete e st
    else if s.sharedElsewhere x.comp none then s.complete e 2
    else
      let s := s.modComp x.comp fun y => { y with unbinding := true, unbindEntry := some e }
      if (s.comp? x.comp).any fun y => y.serve.st.still || decide (y.context = 0) then s.stopForUnbind x.comp else s)

/-! ## Regions (R389-R391) -/

/-- The region that MAP's operands describe (Table 14-3). -/
def Entry.region (x : Entry) : Region :=
  let w4 := x.word 4
  let shared := decide (bits w4 63 62 = 1)
  { vbase := (x.word 2).toNat, size := (x.word 3).toNat, shared := shared, set := bits w4 61 59, ro := shared || bit w4 58, uncached := bit w4 57,
    code := bit w4 56, shareable := bit w4 55, offset := if shared then 0 else (x.word 5).toNat,
    srcComp := if shared then bits (x.word 5) 63 58 else 0, srcVbase := if shared then bits (x.word 5) 47 0 else 0,
    golden := (x.word 6).toNat, replica := (x.word 7).toNat }

/-- Status 0x01 of MAP. -/
def Entry.mapBad (x : Entry) : Bool :=
  let w4 := x.word 4
  let r := x.region
  decide (x.context ≠ 0 ∨ 2 ≤ bits w4 63 62 ∨ bits w4 54 0 ≠ 0 ∨ bits (x.word 7) 63 48 ≠ 0) ||
    decide (r.vbase % 0x200000 ≠ 0 ∨ r.size % 0x200000 ≠ 0 ∨ r.size = 0 ∨ 2 ^ 48 < r.vbase + r.size) ||
    ((bit w4 56 || bit w4 55) && !bit w4 58) || (!r.ro && decide (r.golden ≠ 0 ∨ r.replica ≠ 0)) ||
    (if r.shared then decide (r.set ≠ 0 ∨ bits (x.word 5) 57 48 ≠ 0) else decide (r.offset % 0x200000 ≠ 0))

/-- The region of `c` that holds an offset. -/
def Region.overlaps (r t : Region) : Bool := decide (r.vbase < t.vbase + t.size) && decide (t.vbase < r.vbase + r.size)

/-- MAP (R389, R390). -/
def execMap (e : EntryRef) (s : State) : Host.Outcome State Fault Refusal :=
  .next (s.yokeCommand e 0x23 fun x s =>
    let r := x.region
    let st := s.yokeStatus e x
    if x.mapBad then s.complete e 1
    else if st ≠ 0 then s.complete e st
    else
      match s.comp? x.comp with
      | none => s
      | some y =>
        let src := if r.shared then ((s.comp? r.srcComp).bind fun o => if o.fn = e.fn then o.cur.region? r.srcVbase else none) else none
        let open_ := src.filter fun t => t.shareable
        if (y.cur.regions.any fun t => r.overlaps t) || (!r.shared && decide (setBytes (y.cur.set r.set) < r.offset + r.size)) ||
            open_.any fun t => decide (t.vbase + t.size < r.srcVbase + r.size) then s.complete e 0x12
        else if 64 ≤ y.cur.regions.length then s.complete e 0x16
        else if r.shared ∧ open_.isNone then s.complete e 2
        else s.changeEpoch x.comp e { y.cur with regions := y.cur.regions ++ [r] } false)

/-- UNMAP (R389, R390). -/
def execUnmap (e : EntryRef) (s : State) : Host.Outcome State Fault Refusal :=
  .next (s.yokeCommand e 0x24 fun x s =>
    let st := s.yokeStatus e x
    if x.context ≠ 0 ∨ !x.zeroFrom 3 then s.complete e 1
    else if st ≠ 0 then s.complete e st
    else
      match (s.comp? x.comp).bind fun y => (y.cur.regions.find? fun r => decide (r.vbase = (x.word 2).toNat)).map fun r => (y, r) with
      | none => s.complete e 1
      | some (y, r) =>
        if s.sharedElsewhere x.comp (some r) then s.complete e 2
        else s.changeEpoch x.comp e { y.cur with regions := y.cur.regions.filter fun t => decide (t.vbase ≠ r.vbase) } false)

/-! ## Moving a region (R399-R401) -/

/-- MOVE_REGION: the copy phase begins (R399, R400). -/
def execMoveRegion (e : EntryRef) (s : State) : Host.Outcome State Fault Refusal :=
  .next (s.yokeCommand e 0x25 fun x s =>
    let st := s.yokeStatus e x
    let set := bits (x.word 4) 61 59
    let off := (x.word 5).toNat
    if x.context ≠ 0 ∨ x.word 3 ≠ 0 ∨ bits (x.word 4) 63 62 ≠ 0 ∨ bits (x.word 4) 58 0 ≠ 0 ∨ off % 0x200000 ≠ 0 ∨ !x.zeroFrom 6 then s.complete e 1
    else if st ≠ 0 then s.complete e st
    else
      match (s.comp? x.comp).bind fun y => (y.cur.regions.find? fun r => decide (r.vbase = (x.word 2).toNat)).map fun r => (y, r) with
      | none => s.complete e 1
      | some (y, r) =>
        let there := y.cur.regions.any fun t => !t.shared && decide (t.set = set) && decide (t.offset < off + r.size) && decide (off < t.offset + t.size)
        let dies := distinct ((y.cur.set set ++ y.cur.set r.set).map fun ch => ch / 16)
        if r.shared then s.complete e 2
        else if setBytes (y.cur.set set) < off + r.size ∨ there then s.complete e 0x12
        else if dies.any fun d => !s.dieUp d then s.complete e 6
        else s.setComp x.comp { y with move := some { entry := e, vbase := r.vbase, set := set, offset := off, phase := .copying, marks := [] } })

/-- The newest data of a sector: an owner's copy is recalled first (Table 09-4). -/
def State.newest (s : State) (n : Nat) : State × (Sector × Bool) :=
  let s := if s.settled n then s.recallNow n false true else s
  match s.gsec? n with
  | some g => (s, (g.data, g.poison))
  | none =>
    let s := s.dramRead n
    (s, s.dramSector n)

/-- Put a sector at a place that no map has named yet. -/
def State.putSector (s : State) (n : Nat) (v : Sector) (p : Bool) : State :=
  match s.gsec? n with
  | some _ => (s.recallNow n true false).modGsec n fun g => { g with data := v, poison := p, dirty := true }
  | none => s.dramWrite n v p

/-- Copy sector `i` of a moving region; one with a transaction under way in a writable region is marked for the final copy. -/
def State.copySector (s : State) (c : Nat) (old new : EpochMap) (r : Region) (m : Move) (i : Nat) : State :=
  let a := r.sector old r.set r.offset i
  let late := !s.settled a && !r.ro
  let (s, v, p) := s.newest a
  let s := s.putSector (r.sector new m.set m.offset i) v p
  if late then s.modComp c fun y => { y with move := y.move.map fun m => { m with marks := addOnce i m.marks } } else s

/-- MOVE_COPY_DONE: the reeve has copied the region; the switch waits for its epoch (R400). -/
def execMoveCopyDone (c : Nat) (s : State) : Host.Outcome State Fault Refusal :=
  .next (
    match s.comp? c with
    | none => s
    | some x =>
      match x.move with
      | none => s
      | some m =>
        match x.cur.regions.find? fun r => decide (r.vbase = m.vbase) with
        | none => s
        | some r =>
          if !s.inService ∨ m.phase ≠ .copying then s
          else
            let s := s.modComp c fun y => { y with move := y.move.map fun m => { m with marks := [] } }
            let s := (upto (r.size / 256)).foldl (fun (s : State) i => s.copySector c x.cur x.cur r m i) s
            let map := { x.cur with regions := x.cur.regions.map fun t => if t.vbase = r.vbase then { t with set := m.set, offset := m.offset } else t }
            (s.modComp c fun y => { y with move := y.move.map fun m => { m with phase := .switching },
                                           change := some { entry := none, map := map, rebind := false } }).commitEpoch c)

/-- MOVE_FINAL_COPY_DONE: with the old epoch drained, the marked sectors are copied again, pins follow, held accesses are released and the
command completes (R400). -/
def execMoveFinalCopyDone (c : Nat) (s : State) : Host.Outcome State Fault Refusal :=
  .next (
    match s.comp? c with
    | none => s
    | some x =>
      match x.move, x.prev with
      | some m, some old =>
        match old.regions.find? fun r => decide (r.vbase = m.vbase) with
        | none => s
        | some r =>
          let ready := m.marks.all fun i => s.settled (r.sector old r.set r.offset i)
          if !s.inService ∨ m.phase ≠ .final ∨ !s.drained c x ∨ !ready then s
          else
            let s := s.accountComp c
            let s := m.marks.foldl (fun (s : State) i => s.copySector c old x.cur r m i) s
            (s.modComp c fun y => { y with move := none, settling := some (m.entry, false), pinMoves := s.pinsIn old x.cur r m }).settleEpoch c
      | _, _ => s)

/-! ## METER_READ (R407) -/

/-- A meter record (Table 14-7). -/
def meterRecord (type id time : Nat) (ws : List Nat) : List Byte :=
  natLe 8 (type * 2 ^ 60 + id * 2 ^ 48) ++ natLe 8 time ++ (ws ++ List.replicate (14 - ws.length) 0).flatMap (natLe 8)

/-- METER_READ: tenants FIRST to FIRST + COUNT − 1, then with COMPS the bound compositions that account. -/
def execMeterRead (e : EntryRef) (s : State) : Host.Outcome State Fault Refusal :=
  .next (s.yokeCommand e 0x27 fun x s =>
    let first := bits (x.word 3) 63 52
    let count := bits (x.word 3) 43 32 + 1
    if x.context ≠ 0 ∨ bits (x.word 3) 51 44 ≠ 0 ∨ bits (x.word 3) 31 0 ≠ 0 ∨ bits (x.word 4) 62 0 ≠ 0 ∨ 4096 < first + count ∨ !x.zeroFrom 5 then
      s.complete e 1
    else
      let mine := s.yoke.comps.filter fun c => decide (c.2.fn = e.fn)
      let tenant (t : Nat) : List Nat :=
        if mine.any fun c => decide (c.2.tenant = t) then (upto 11).map fun i => getD 0 s.yoke.tenants (16 * t + i) else []
      let recs := (upto count).map fun i => meterRecord 0 (first + i) s.yoke.meterTime (tenant (first + i))
      let more := if bit (x.word 4) 63 then (mine.filter fun c => c.2.acct).map fun c =>
        meterRecord 1 c.1 s.yoke.meterTime ((upto 4).map fun i => getD 0 c.2.record (i + 2)) else []
      match s.hostWrite e.fn (s.adminPasid e.fn) (x.word 2).toNat (recs ++ more).flatten with
      | none => s.complete e 5
      | some (s, due) =>
        (if due then s.dueCodes e.fn [mkCode 0x10D000F5 e.fn] else s).complete e 0 (recs.length + more.length))

/-! ## Ownership (R402-R404) -/

/-- The ownership table for composition `c` is this panel's: its own, or for a spanning composition that of the AUTH panel (R397, R402). -/
def State.ownTable (s : State) (c : Nat) : Bool := (s.comp? c).all fun x => !x.span || decide (x.auth.toNat = s.panelAddr)

/-- OWNERSHIP_CLAIM: pool `dst` claims the record from `src`. The table moves it when the owner and GEN match, and both pools' copies stand
as R403 says; until a copy is OWNED, both answer "not mine". -/
def execOwnershipClaim (c handle : Nat) (src dst : Pool) (gen : Byte) (s : State) : Host.Outcome State Fault Refusal :=
  .next (
    if !s.inService ∨ !s.ownTable c then s
    else
      match s.recordOwner c handle with
      | none => s
      | some (o, g) =>
        let y := { s.yoke with copies := insert (insert s.yoke.copies (copyKey c handle src) .given) (copyKey c handle dst) .pending }
        let y := { y with notMine := if (find? y.notMine (ownerKey c handle)).isSome then y.notMine else insert y.notMine (ownerKey c handle) s.time.now }
        let s := { s with yoke := y }
        let room := (find? s.yoke.owners (ownerKey c handle)).isSome || decide (s.yoke.owners.length < 65536)
        if o = src ∧ g = gen ∧ room then s.setOwner c handle dst (gen + 1) else s)

/-- The pool's copy becomes OWNED; on this panel the stream is served there. -/
def State.takeRecord_ (s : State) (c handle : Nat) (p : Pool) : State :=
  let y := { s.yoke with copies := insert s.yoke.copies (copyKey c handle p) .owned, notMine := erase s.yoke.notMine (ownerKey c handle) }
  ({ s with yoke := y } : State).modServe c fun v =>
    if p.panel.toNat = s.panelAddr then
      { v with streams := v.streams.map fun t => if t.handle.toNat = handle then { t with pool := p.die } else t }
    else v

/-- A pool drops its copy. -/
def State.dropCopy (s : State) (key : Nat) : State := { s with yoke := { s.yoke with copies := erase s.yoke.copies key } }

/-- OWNERSHIP_REPLY: the table's reply, from this panel or from the AUTH panel, reaches a pool: it serves the stream, or drops its copy (R403). -/
def execOwnershipReply (c handle : Nat) (pool owner : Pool) (gen : Byte) (s : State) : Host.Outcome State Fault Refusal :=
  .next (
    if !s.inService ∨ (s.ownTable c ∧ s.recordOwner c handle ≠ some (owner, gen)) ∨ (find? s.yoke.copies (copyKey c handle pool)).isNone then s
    else if pool = owner then s.takeRecord_ c handle pool
    else s.dropCopy (copyKey c handle pool))

/-- OWNERSHIP_QUERY_TIMEOUT: 100 µs of "not mine": the table settles the copies; a stream whose named pool holds none restarts from the last
committed step. A table on another panel is queried, and its OWNERSHIP_REPLY settles the copies (R404). -/
def execOwnershipQueryTimeout (c handle : Nat) (s : State) : Host.Outcome State Fault Refusal :=
  .next (
    match find? s.yoke.notMine (ownerKey c handle), s.recordOwner c handle with
    | some t, some (o, _) =>
      if !s.inService ∨ s.time.now < t + 100000 then s
      else if !s.ownTable c then
        let s := s.count .yokOwnQueries 0 0 1
        { s with yoke := { s.yoke with notMine := insert s.yoke.notMine (ownerKey c handle) s.time.now } }
      else
        let s := s.count .yokOwnQueries 0 0 1
        let key := copyKey c handle o
        let losers := (copiesOf c handle s.yoke.copies).filter fun e => decide (e.1 ≠ key)
        let has := (find? s.yoke.copies key).isSome
        let s := losers.foldl (fun (s : State) e =>
          ((s.dropCopy e.1).count .yokOwnDrops 0 0 1).reportComps (mkCode 0x10E00100 c) [c] (some handle)) s
        let s := if has then s
          else
            (s.modServe c fun v => { v with streams := v.streams.map fun t => if t.handle.toNat = handle then { t with work := t.kept } else t }).reportComps
              (mkCode 0x20E00101 c) [c] (some handle)
        s.takeRecord_ c handle o
    | _, _ => s)

end Sys2Proof.Machine
end

