-- ==== Sys2Proof/Machine/Sched.lean ====
section
/-! DEFINITION. Core loans, the switching of a core and context teardown (R440-R460). -/

namespace Sys2Proof.Machine

open Sys2Proof

/-! ## Granting loans (R445-R447) -/

/-- Cores of a die lent, or being lent, to a composition. -/
def State.loansOn (s : State) (b d : Nat) : List Nat := (slicesOf d).filter fun k => decide ((s.core k).borrower = some b)

/-- Cores that a borrower's request on a die still lacks. -/
def State.wanting (s : State) (b d : Nat) : Nat :=
  match s.comp? b with
  | some x => if x.serve.asking && x.serve.st.inPass then x.slicesOn d - (s.loansOn b d).length else 0
  | none => 0

/-- Composition `b` may borrow the core of slice `k` (R445): the lender of the same function and tenant, with a higher PRIO number. -/
def State.mayLend (s : State) (b k : Nat) : Bool :=
  match s.comp? b, s.owner? k with
  | some x, some (o, false) =>
    (s.comp? o).any fun y =>
      decide (o ≠ b) && decide (x.fn = y.fn) && decide (x.tenant = y.tenant) && decide (0 < x.slicesOn (dieOf k)) &&
        decide (x.cur.prio < y.cur.prio) && decide ((s.core k).loan = .none_) && s.dieUp (dieOf k)
  | _, _ => false

/-- PRIO and serving state of a slice's composition. -/
def State.ownerPrio (s : State) (k : Nat) : Nat := (((s.owner? k).bind fun o => s.comp? o.1).map (·.cur.prio)).getD 0
def State.ownerStill (s : State) (k : Nat) : Bool := ((s.owner? k).bind fun o => s.comp? o.1).any fun y => y.serve.st.still

/-- Lenders in descending PRIO number, then ascending slice. -/
def State.lenders (s : State) (ks : List Nat) : List Nat :=
  [7, 6, 5, 4, 3, 2, 1].flatMap fun p => ks.filter fun k => decide (s.ownerPrio k = p)

/-- Begin the switch of a core to its borrower; in the middle of the lender's pass it is a preemption (Table 16-4). -/
def State.lend (s : State) (b k : Nat) : State :=
  let mid := !s.ownerStill k
  let s := (s.accountSlice k).modCore k fun c => { c with loan := .draining, borrower := some b, loanAt := s.time.now }
  match s.owner? k with
  | some (o, _) => if mid then (s.count .yokPreempt 0 0 1).reportComps (mkCode 0x11000122 o) [o] else s
  | none => s

/-- Fill a borrower's request on a die from the cores in `ks`. -/
def State.fill (s : State) (b d : Nat) (ks : List Nat) : State :=
  ((s.lenders (ks.filter fun k => s.mayLend b k)).take (s.wanting b d)).foldl (fun (s : State) k => s.lend b k) s

/-- A borrower whose last pass overran requests loans on each of its dies: idle lenders first, and for PRIO 0 also those in a pass
(R446, R447). -/
def State.requestLoans (s : State) (b : Nat) : State :=
  match s.comp? b with
  | none => s
  | some x =>
    if !x.serve.overrun ∨ x.cur.prio = 7 ∨ s.reg .yokSchedCfg 0 0 % 2 = 0 then s
    else
      let s := s.modServe b fun v => { v with asking := true }
      x.cur.pools.foldl (fun (s : State) d =>
        let s := s.fill b d ((slicesOf d).filter fun k => s.ownerStill k)
        if x.cur.prio = 0 then s.fill b d (slicesOf d) else s) s

/-- A lender has reached a pass boundary: open requests take its cores, lowest PRIO number first (R444, R447). -/
def State.offerCores (s : State) (y : Nat) : State :=
  match s.comp? y with
  | none => s
  | some x =>
    let bs := s.byPrio.filter fun b => (s.comp? b).any fun v => v.serve.asking
    bs.foldl (fun (s : State) b =>
      x.cur.pools.foldl (fun (s : State) d => s.fill b d (x.cur.slices.filter fun k => decide (dieOf k = d))) s) s

/-! ## Switching a core (R450-R453) -/

/-- Pause a transfer: its engine is free, its token stays outstanding. -/
def Xfer.pause (x : Xfer) : Xfer := match x.phase with
  | .running _ => { x with phase := .paused }
  | _ => x

/-- TRANSFER_PAUSE_TIMEOUT: 20 µs after the request the transfers in flight pause at their next chunk boundary. -/
def execTransferPauseTimeout (slice : Nat) (s : State) : Host.Outcome State Fault Refusal :=
  .next (
    let c := s.core slice
    if !s.inService ∨ c.loan ≠ .draining ∨ s.time.now < c.loanAt + 20000 then s
    else
      let engines := c.xfers.filterMap fun x => match x.phase with
        | .running e => some e
        | _ => none
      let s := s.modDie (dieOf slice) fun y => { y with engines := engines.foldl (fun m e => setD none m e none) y.engines }
      s.setCore slice { c with xfers := c.xfers.map Xfer.pause })

/-- The outgoing context's loads have returned, no array instruction runs and no transfer moves. -/
def State.coreDrained (s : State) (k : Nat) : Bool :=
  let c := s.core k
  let q : XQueue := { die := dieOf k, q := k % 8 }
  (c.drills.all fun d => d.2.mem.isNone) && (c.queue.all fun a => decide (a.phase = .queued)) &&
    (c.xfers.all fun x => (match x.phase with
      | .running _ => false
      | _ => true) && !s.framesOut q x.token)

/-- SWITCH_DRAIN_DONE: the drain is over and the save begins. -/
def execSwitchDrainDone (slice : Nat) (s : State) : Host.Outcome State Fault Refusal :=
  .next (
    if !s.inService ∨ (s.core slice).loan ≠ .draining ∨ !s.coreDrained slice then s
    else s.modCore slice fun c => { c with loan := .saving })

/-- The image of the outgoing context (R450). -/
def Core.image (c : Core) (ctx : Half) : SavedCore where
  context := ctx
  seedbed := c.seedbed
  sbPoison := c.sbPoison
  drills := c.drills
  active := c.active
  shadow := c.shadow
  queue := c.queue
  arrayNext := c.arrayNext
  arrayDone := c.arrayDone
  xferNext := c.xferNext
  xferDone := c.xferDone
  barriers := c.barriers
  xfers := c.xfers
  early := c.early
  launches := c.launches
  liveMark := c.liveMark
  passInstrs := c.passInstrs
  passTotal := c.passTotal
  canaries := c.canaries

/-- A core without a context: tallies, data cache, meters, the loan and the range tracker's count stay, so that what is issued after a restore
is later than all that was restored (R99, R101, R186). -/
def Core.vacate (c : Core) : Core :=
  { c with launches := [], drills := [], barriers := [], seedbed := [], sbPoison := [], liveMark := 0, queue := [], arrayNext := 0,
           arrayDone := 0, passInstrs := 0, passTotal := 0, canaries := [], active := none, shadow := none, xfers := [], xferNext := 0,
           xferDone := 0, early := [] }

/-- The engines of a die that work for a core's queue are free. -/
def State.freeEngines (s : State) (k : Nat) : State :=
  s.modDie (dieOf k) fun y => { y with engines := mapVals (fun _ e => if e = some (k % 8) then none else e) y.engines }

/-- The borrower takes the core: fresh token counters, and a seedbed that is undefined to it (R448, R452). -/
def State.takeLent (s : State) (k : Nat) (saved : Option SavedCore) : State :=
  let s := (s.accountSlice k).freeEngines k
  let (n, s) := s.takeFresh seedbedBytes
  s.modCore k fun c =>
    { c.vacate with loan := .lent, saved := saved, domainOn := true, seedbed := writeBytes [] 0 (freeBytes n seedbedBytes) }

/-- Bytes of a drill's state: its general registers, and its uniform registers, predicates and path state (R115). -/
def Drill.stateBytes (x : Drill) : Nat := x.nregs * 256 + 704

/-- Bytes that a save or a restore moves: the seedbed to its live mark, both weight sets, every resident drill (R450, R451). -/
def savedBytes (liveMark : Nat) (drills : List (Nat × Drill)) : Nat :=
  (liveMark + 1023) / 1024 * 1024 + 2 * 65536 + (drills.map fun e => e.2.stateBytes).sum

/-- SWITCH_SAVE_DONE: the image is saved and the incoming context's counters are loaded. -/
def execSwitchSaveDone (slice : Nat) (s : State) : Host.Outcome State Fault Refusal :=
  .next (
    if !s.inService ∨ (s.core slice).loan ≠ .saving then s
    else
      let ctx := (((s.owner? slice).bind fun o => s.comp? o.1).map (·.context)).getD 0
      let img := (s.core slice).image ctx
      let lender := ((s.owner? slice).map (·.1)).getD 0
      let s := s.meter slice 9 (savedBytes img.liveMark img.drills)
      (s.takeLent slice (some img)).recordMark lender 3)

/-- The lender's image goes back: paused transfers resume from their first unperformed chunk, lock-waiting paths become runnable (R125,
R453). -/
def Core.restore (c : Core) (v : SavedCore) : Core :=
  let resume (x : Xfer) : Xfer := match x.phase with
    | .paused => { x with phase := .waiting }
    | _ => x
  let c := { c with launches := v.launches, drills := mapVals (fun _ x => x.unlock fun _ => true) v.drills, barriers := v.barriers, seedbed := v.seedbed }
  let c := { c with sbPoison := v.sbPoison, liveMark := v.liveMark, queue := v.queue, arrayNext := v.arrayNext, arrayDone := v.arrayDone }
  let c := { c with passInstrs := v.passInstrs, passTotal := v.passTotal, canaries := v.canaries, active := v.active, shadow := v.shadow, xfers := v.xfers.map resume }
  ({ c with xferNext := v.xferNext, xferDone := v.xferDone, early := v.early, saved := none } : Core).releaseWaits

/-- CORE_RESTORE_DONE: the lender resumes. -/
def execCoreRestoreDone (slice : Nat) (s : State) : Host.Outcome State Fault Refusal :=
  .next (
    if !s.inService ∨ (s.core slice).loan ≠ .restoring then s
    else
      let s := s.accountSlice slice
      let s := s.modCore slice fun c =>
        let c := match c.saved with
          | some v => c.restore v
          | none => c
        { c with loan := .none_, borrower := none }
      s.meter slice 9 (savedBytes (s.core slice).liveMark (s.core slice).drills))

/-- End the loan of a core (R446, R449): the saved image is restored; a switch not finished stops; without an image the core is the
lender's again at once. -/
def State.endLoan (s : State) (k : Nat) : State :=
  let s := s.accountSlice k
  let s := if (s.core k).loan = .lent then s.freeEngines k else s
  s.modCore k fun c =>
    match c.loan, c.saved with
    | .lent, some _ => { c.vacate with loan := .restoring }
    | .lent, none => { c.vacate with loan := .none_, borrower := none }
    | .draining, _ | .saving, _ =>
      let resume (x : Xfer) : Xfer := match x.phase with
        | .paused => { x with phase := .waiting }
        | _ => x
      { c with loan := .none_, borrower := none, xfers := c.xfers.map resume }
    | _, _ => c

/-- End every loan to a composition. -/
def State.endLoans (s : State) (b : Nat) : State :=
  ((s.cores.filter fun e => decide (e.2.borrower = some b) && decide (e.2.loan ≠ .restoring)).map (·.1)).foldl (fun (s : State) k => s.endLoan k) s

/-! ## Teardown (R456-R460) -/

/-- Array instructions of a context on a core, the running one and the queued ones, complete with status 3 and leave their outputs unspecified:
free bytes (R96, R457, Table 03-7). A descriptor that names no outputs inside the seedbed leaves none. -/
def State.revokeArrays (s : State) (ctx : Half) (k : Nat) : State :=
  ((s.core k).queue.filter fun a => decide (a.context = ctx)).foldl (fun (s : State) a =>
    let s := if a.descPoisoned || !a.d.valid then s else s.freeOutputs k a
    s.endArray k a 3) s

/-- A transfer of a revoked context issues no further chunk and ends with status 8. -/
def Xfer.revoke (ctx : Half) (x : Xfer) : Xfer := if x.context = ctx then { x with bad := x.bad ++ [8] } else x

/-- What revocation does to a core: launch records dropped, drills ended, transfers stopped, tally counters frozen, the saved image of the
context discarded (R457). -/
def Core.revoke (c : Core) (ctx : Half) : Core :=
  let c := { c with launches := c.launches.filter fun l => decide (l.ctx ≠ ctx), drills := c.drills.filter fun d => decide (d.2.context ≠ ctx) }
  let c := { c with barriers := c.barriers.filter fun b => decide (b.2.context ≠ ctx), xfers := c.xfers.map (Xfer.revoke ctx) }
  let c := { c with canaries := c.canaries.filter fun w => decide (w.instr.context ≠ ctx) }
  let c := { c with tallies := mapVals (fun _ t => if t.owner = some ctx then { t with frozen := true } else t) c.tallies }
  { c with saved := match c.saved with
    | some v => if v.context = ctx then none else some v
    | none => none }

/-- A switch under way of a core whose outgoing context is torn down stops, and the incoming context loads at once (R453). -/
def State.hastenSwitch (s : State) (k : Nat) : State :=
  match (s.core k).loan with
  | .draining | .saving => s.takeLent k none
  | .restoring => s.modCore k fun c => { c with loan := .none_, borrower := none }
  | _ => s

/-- CONTEXT_REVOKE: at tr every source stops the context (R457). -/
def execContextRevoke (ctx : Half) (s : State) : Host.Outcome State Fault Refusal :=
  .next (
    match (s.yoke.teardowns.find? fun t => decide (t.1 = ctx)).map (·.2) with
    | none => s
    | some t =>
      if t.revoked ∨ s.time.now < t.tr then s
      else
        let s := (s.accountComp t.comp).endLoans t.comp
        let s := (keys s.cores).foldl (fun (s : State) k => s.revokeArrays ctx k) s
        let own := ((s.comp? t.comp).map (·.cur.slices)).getD []
        let s := own.foldl (fun (s : State) k => s.hastenSwitch k) s
        let s := { s with cores := mapVals (fun _ c => c.revoke ctx) s.cores,
                          dies := mapVals (fun _ x => { x with reeveXfers := x.reeveXfers.map (Xfer.revoke ctx) }) s.dies }
        let s := if t.unbind ∨ !t.restart then s.abortServing t.comp else s
        { s with yoke := { s.yoke with
            revoked := if s.yoke.revoked.contains ctx then s.yoke.revoked else s.yoke.revoked ++ [ctx],
            teardowns := s.yoke.teardowns.map fun e => if e.1 = ctx then (e.1, { e.2 with revoked := true }) else e } })

/-- The context of the drill whose atomic group a message carries. -/
def CohMsg.group? : CohMsg → Option AtomGroup
  | .atomReq g | .raddReq g => some g
  | .atomResp g _ _ => some g
  | .raddAck g _ => some g
  | _ => none
def HomeReq.group? : HomeReq → Option AtomGroup
  | .atom _ g | .radd _ g => some g
  | _ => none

/-- Requests of a context issued and not yet answered (R459): frames without acknowledgement, transfers not complete, loads and stores that wait in
miss entries, atomic groups and add-to-lines on their way, at a home or on their way back. -/
def State.outstanding (s : State) (ctx : Half) : Nat :=
  let frames := (s.link.conns.map fun c => ((c.2.window ++ c.2.reads).filter fun f => decide (tContext f.frame = ctx)).length).sum
  let xs (l : List Xfer) : Nat := (l.filter fun x => decide (x.context = ctx)).length
  let waits (c : Core) : Nat :=
    (c.cache.map fun e => (e.2.stores.filter fun w => decide (w.context = ctx)).length + (e.2.loads.filter fun w => decide (w.context = ctx)).length).sum
  let groups (l : List (Option AtomGroup)) : Nat := (l.filter fun g => g.any fun g => decide (g.context = ctx)).length
  let homes (y : Die) : Nat := groups (y.pend.map fun e => e.2.group?) + groups (y.trans.map fun e => e.2.req.group?)
  frames + (s.cores.map fun c => xs c.2.xfers + waits c.2).sum + (s.dies.map fun d => xs d.2.reeveXfers + homes d.2).sum +
    groups (s.net.map fun m => m.msg.group?)

/-- Transfers of a context that the time limit cuts off: their tokens are complete, their answers will find no tag (R460). -/
def Core.dropXfers (c : Core) (ctx : Half) : Core :=
  let gone := (c.xfers.filter fun x => decide (x.context = ctx)).map fun x => ({ token := x.token, status := 8 } : XferDone)
  let (done, early) := advanceTokens (c.early.length + gone.length) c.xferDone (c.early ++ gone)
  { c with xfers := c.xfers.filter fun x => decide (x.context ≠ ctx), xferDone := done, early := early }

/-- The engines that work for a context's transfers. -/
def enginesOf (ctx : Half) (l : List Xfer) : List Nat :=
  l.filterMap fun x => match x.phase with
    | .running e => if x.context = ctx then some e else none
    | _ => none

/-- Cut off what is left of a context at the time limit. -/
def State.cutOff (s : State) (ctx : Half) : State :=
  let s := (upto 24).foldl (fun (s : State) d =>
    let es := ((slicesOf d).flatMap fun k => enginesOf ctx (s.core k).xfers) ++ enginesOf ctx (s.die d).reeveXfers
    let loads := (s.die d).reeveXfers.filterMap fun x => match x.use with
      | .load e => if x.context = ctx then some e else none
      | _ => none
    let s := s.modDie d fun y =>
      { y with engines := es.foldl (fun m e => setD none m e none) y.engines, reeveXfers := y.reeveXfers.filter fun x => decide (x.context ≠ ctx) }
    loads.foldl (fun (s : State) e => s.complete e 4) s) s
  { s with cores := mapVals (fun _ c => c.dropXfers ctx) s.cores }

/-- Teardown ends: the tally counters are free, the code is reported, and what was to follow follows: the slices leave (UNBIND, function
reset), the restart goes on, or the composition receives a new context and resumes through ROLLBACK (R440, R459). -/
def State.endTeardown (s : State) (ctx : Half) (t : Teardown) (late : Bool) : State :=
  let n := s.outstanding ctx
  let s := s.cutOff ctx
  let s := { s with cores := mapVals (fun _ c => c.dropTallies ctx) s.cores }
  let keep := s.yoke.ctxFreed.filter fun e => decide (s.time.now < e.2 + 1000000000)
  let s := { s with yoke := { s.yoke with
      teardowns := s.yoke.teardowns.filter fun e => decide (e.1 ≠ ctx), ctxFreed := keep ++ [(ctx, s.time.now)], lastTd := ctx, tdTimeout := late } }
  let s := if late then s.reportComps (mkCode 0x21000121 t.comp) [t.comp] (some (min n 0xFFFFFFFF))
    else s.reportComps (mkCode 0x11000120 t.comp) [t.comp]
  let s := s.modComp t.comp fun x => { x with context := 0 }
  if t.unbind then s.leaveAll t.comp
  else if t.restart then s
  else (s.assignContext t.comp).modServe t.comp fun v => if v.st.running then { v with st := .rollback } else v

/-- TEARDOWN_COMPLETE: nothing is outstanding. -/
def execTeardownComplete (ctx : Half) (s : State) : Host.Outcome State Fault Refusal :=
  .next (
    match (s.yoke.teardowns.find? fun t => decide (t.1 = ctx)).map (·.2) with
    | none => s
    | some t => if !t.revoked ∨ s.outstanding ctx ≠ 0 then s else s.endTeardown ctx t false)

/-- TEARDOWN_TIMEOUT: 10 ms after tr teardown ends with requests outstanding. -/
def execTeardownTimeout (ctx : Half) (s : State) : Host.Outcome State Fault Refusal :=
  .next (
    match (s.yoke.teardowns.find? fun t => decide (t.1 = ctx)).map (·.2) with
    | none => s
    | some t => if !t.revoked ∨ s.time.now < t.tr + 10000000 then s else s.endTeardown ctx t (decide (s.outstanding ctx ≠ 0)))

end Sys2Proof.Machine
end

