-- ==== Sys2Proof/Machine/Serving.lean ====
section
/-! DEFINITION. The serving loop's commands and its streams: SERVE_CONFIG, SERVE_STOP, STREAM_OPEN, STREAM_CLOSE, AUDIO, TEXT_IN, OUT_BUF, LOAD (R409-R413, R418-R422, R430), and what happens at a pass boundary (R416). -/

namespace Sys2Proof.Machine

open Sys2Proof

/-! ## Windows (R414, R350) -/

/-- The length of a pass and the nominal start of pass `p`. -/
def Serve.passLen (v : Serve) : Nat := v.pframes * 20000000
def Serve.nominal (v : Serve) (p : Nat) : Nat := v.s0 + (p + 1) * v.passLen + v.grace

/-- The window that holds a time at or after S0, and the next pass to gather. -/
def Serve.window (v : Serve) (t : Nat) : Nat := (t - v.s0) / v.passLen
def Serve.nextGather (v : Serve) : Nat := v.pass + b2n v.st.inPass

/-! ## Serving commands in general (R410) -/

/-- The handle of a command (Table 15-2). -/
def Entry.handle (x : Entry) : Nat := bits (x.word 2) 63 32

/-- Perform a serving command: an I/O queue, no reserved bit, and a bound composition of this function. -/
def State.serveCommand (s : State) (e : EntryRef) (op : Nat) (bad : Entry → Bool) (body : Entry → Comp → State → State) : State :=
  s.command e op (some false) fun x s =>
    if x.context ≠ 0 ∨ bad x then s.complete e 1
    else
      match s.comp? x.comp with
      | none => s.complete e 2
      | some y => if y.fn ≠ e.fn then s.complete e 2 else body x y s

/-- A serving state: any of Table 15-4 but STOPPED and FAILED (R409). -/
def Serve.serving (v : Serve) : Bool := decide (v.st ≠ .stopped) && decide (v.st ≠ .failed)

def Serve.stream? (v : Serve) (h : Nat) : Option Stream := v.streams.find? fun t => decide (t.handle.toNat = h)
def Serve.modStream (v : Serve) (h : Word) (f : Stream → Stream) : Serve :=
  { v with streams := v.streams.map fun t => if t.handle = h then f t else t }

/-- Change the committed and the written version alike. -/
def Stream.both (t : Stream) (f : StreamState → StreamState) : Stream := { t with kept := f t.kept, work := f t.work }

/-- A text stream. -/
def Stream.text (t : Stream) : Bool := decide (t.format = 0xF)

/-- Every buffer of a stream's committed version. -/
def Stream.bufs (t : Stream) : List OutBuf := t.kept.slots.flatMap fun e => e.2.textBufs ++ e.2.speechBufs

/-! ## Notices (R435, R436) -/

/-- A KIND 3 entry for composition `c`'s event CQ (Table 15-7). -/
def State.notice (s : State) (c : Nat) (status handle target sub flags fin lag : Nat) (record : Option (List DWord)) : State :=
  match s.comp? c with
  | none => s
  | some x =>
    let w2 := handle % 2 ^ 32 * 2 ^ 32 + target * 2 ^ 27 + sub * 2 ^ 24 + flags * 2 ^ 20 + fin % 2 ^ 20
    let w3 := x.serve.pass % 2 ^ 32 * 2 ^ 32 + min lag 0xFFFFFFFF
    State.deliver 4 s [{ f := x.fn, cq := x.eventCq, kind := 3, code := 0, id := 0, w2lo := 0, w3 := 0, record := record,
                         raw := some (BitVec.ofNat 64 w2, BitVec.ofNat 64 w3), comp := some c, status := status }]

/-- CHK, POISON and REPLAY of the pass (R433, R434). -/
def Serve.flags (v : Serve) : Nat := 8 * b2n v.chk + 4 * b2n v.poison + 2 * b2n v.rerun

/-- A stream-status notice. -/
def State.streamStatus (s : State) (c : Nat) (h : Word) (status : Nat) : State :=
  s.notice c status h.toNat 31 3 (((s.comp? c).map fun x => x.serve.flags).getD 0) 0 0 none

/-! ## Ending streams and the loop (R418, R428, R429) -/

/-- Complete the pending AUDIO and TEXT_IN commands that `p` picks. -/
def State.endFrames (s : State) (c status : Nat) (p : PendFrame → Bool) : State :=
  match s.comp? c with
  | none => s
  | some x =>
    let s := s.modServe c fun v => { v with pendFrames := v.pendFrames.filter fun f => !p f }
    (x.serve.pendFrames.filter p).foldl (fun (s : State) f => s.complete f.entry status) s

/-- A stream is gone: its frames are dropped, its pending AUDIO and TEXT_IN commands complete with status 0x16, its OUT_BUF commands with
`buf` and the bytes written, a STREAM_CLOSE with status 0x00. -/
def State.dropStream (s : State) (c : Nat) (t : Stream) (buf : Nat) : State :=
  let s := s.modServe c fun v => { v with streams := v.streams.filter fun u => decide (u.handle ≠ t.handle) }
  let s := s.endFrames c 0x16 fun f => decide (f.handle = t.handle)
  let s := t.bufs.foldl (fun (s : State) b => s.complete b.entry buf b.filled) s
  match t.closing with
  | some e => s.complete e 0
  | none => s

/-- Every pending command of the loop completes with `status`; a STREAM_CLOSE with `close`. -/
def State.drainLoop (s : State) (c status close : Nat) : State :=
  match s.comp? c with
  | none => s
  | some x =>
    let v := x.serve
    let s := s.modServe c fun v => { v with pendFrames := [], streams := [] }
    let s := v.pendFrames.foldl (fun (s : State) f => s.complete f.entry status) s
    v.streams.foldl (fun (s : State) t =>
      let s := if t.admitted then s else s.complete t.openEntry status
      let s := t.bufs.foldl (fun (s : State) b => s.complete b.entry status b.filled) s
      match t.closing with
      | some e => s.complete e close
      | none => s) s

/-- SERVE_STOP takes effect: streams close without their final flush, pending commands complete with status 0x04, and the loop is STOPPED
(R418). From FAILED no stream is open. -/
def State.stopNow (s : State) (c : Nat) (e : EntryRef) : State :=
  match s.comp? c with
  | none => s
  | some x =>
    let s := x.serve.streams.foldl (fun (s : State) t => if t.admitted then s.streamStatus c t.handle 0 else s) s
    let s := s.drainLoop c 4 0
    (s.modServe c fun _ => Serve.reset).complete e 0

/-! ## The pass boundary (R393, R416, R418, R373, R388, R541-R543) -/

/-- The four launch records of the kernel table, as far as they can be read (R412). -/
def State.kernelTable (s : State) (c : Nat) (x : Comp) : List Byte :=
  (upto 128).map fun i =>
    match s.translate c x.cur.epoch (x.serve.ktab + i) with
    | some y => match s.gsec? (y.dpa / 256) with
      | some g => sectorByte g.data (y.dpa % 256)
      | none => sectorByte (s.dramSector (y.dpa / 256)).1 (y.dpa % 256)
    | none => 0

/-- Slices on each die, channels in each set, digest of the kernel table: what a replay must match (R545). -/
def State.shape (s : State) (c : Nat) (x : Comp) : List Byte :=
  ((upto 24).map fun d => BitVec.ofNat 8 (x.slicesOn d)) ++ ((upto 8).flatMap fun n => natLe 2 (x.cur.set n).length) ++
    natLe 64 (Config.sha3 (s.kernelTable c x)).toNat

/-- The payload of a TYPE 0x08 record (Table 20-5): the bind fields of Table 14-2, the shape, and for each open stream its handle, frames
buffered and pages held. DESIGN CHOICE: the order of the parts, which the spec does not lay out. -/
def State.snapshot (s : State) (c : Nat) (x : Comp) : List Byte :=
  let bind := natLe 8 (x.tenant * 2 ^ 52 + x.cur.safeguard.toNat) ++
    natLe 8 (x.eventCq * 2 ^ 48 + b2n x.cur.g1 * 2 ^ 47 + b2n x.cur.discardPoison * 2 ^ 46 + b2n x.acct * 2 ^ 45 + x.cur.prio * 2 ^ 42 +
      (match x.pasid with
        | some p => 2 ^ 31 + p
        | none => 0)) ++
    natLe 8 (b2n x.span * 2 ^ 63 + x.auth.toNat * 2 ^ 48 + x.cur.epoch.toNat)
  bind ++ s.shape c x ++ x.serve.streams.flatMap fun t => natLe 8 (t.handle.toNat * 2 ^ 32 + t.kept.frames.length) ++ natLe 8 t.kept.pages

/-- The capture at a boundary: recording starts here, a snapshot is due at the first boundary and every 256th pass after it, and what is
gathered goes to the host; a loss is reported once for the pass. -/
def State.captureBoundary (s : State) (c : Nat) : State :=
  match find? s.tst.captures c, s.comp? c with
  | some k, some x =>
    let put (s : State) (k : Capture) : State := { s with tst := { s.tst with captures := insert s.tst.captures c k } }
    let due := k.entry.isSome || (k.active && decide (255 ≤ k.snapAge))
    let s := put s { k with active := k.active || k.entry.isSome, entry := none, snapAge := if due then 0 else k.snapAge + 1 }
    let s := if due then s.record c 8 (s.snapshot c x) else s
    let s := match k.entry with
      | some e => s.complete e 0
      | none => s
    let lost : Nat := ((find? s.tst.captures c).map fun k => k.lostNow).getD 0
    let s := s.captureFlush c
    if lost = 0 then s
    else
      let s := match find? s.tst.captures c with
        | some k => put s { k with lostNow := 0 }
        | none => s
      s.reportComps (mkCode 0x114001A8 c) [c]
  | _, _ => s

/-- The boundary that follows a pass, or a moment of a loop that runs none: captures, SERVE_STOP, UNBIND, QUIESCE, and the cores that others
wait for (R416). -/
def State.boundary (s : State) (c : Nat) : State :=
  match s.comp? c with
  | none => s
  | some x =>
    let s := s.captureBoundary c
    let s := match x.serve.stopEntry with
      | some e => s.stopNow c e
      | none => s
    let s := if x.unbinding then s.stopForUnbind c else s
    let s := s.quiesceServe c
    (s.settleQuiesce x.fn).offerCores c

/-- The loop enters FAILED: open streams end with a notice of STATUS 0x19, pending commands complete with status 0x17 (R418). -/
def State.serveFail (s : State) (c : Nat) (code : Code) : State :=
  match s.comp? c with
  | none => s
  | some x =>
    let s := (s.accountComp c).reportComps code [c]
    let s := x.serve.streams.foldl (fun (s : State) t => if t.admitted then s.streamStatus c t.handle 0x19 else s) s
    let s := s.drainLoop c 0x17 0x17
    let s := s.modServe c fun v =>
      { v with st := .failed, failedNow := false, excused := false, asking := false, restarting := false, lists := [], notices := [], reserved := [] }
    (s.endLoans c).boundary c

/-! ## SERVE_CONFIG and SERVE_STOP (R411, R418) -/

/-- Bits of words 5 and 6 that a SERVE_CONFIG may not have. -/
def Entry.configBad (x : Entry) : Bool :=
  let w5 := x.word 5
  let w6 := x.word 6
  let f (a lo hi : Nat) : Bool := decide (lo ≤ a) && decide (a ≤ hi)
  let ok := f (bits w5 63 56) 1 16 && decide (bits w5 55 48 ≤ 8) && decide (bits w5 47 40 ≤ 200) && f (bits w5 31 24) 1 64 && decide (bits w5 15 0 = 0) &&
    decide (bits w6 63 32 ≠ 0) && decide (bits w6 63 32 % 65536 = 0) && f (bits w6 31 16) 1 1024 && f (bits w6 15 0) 1 32768 &&
    decide ((x.word 2).toNat % 32 = 0) && decide ((x.word 3).toNat % 0x200000 = 0) && decide (x.word 4 ≠ 0) && decide ((x.word 4).toNat % 0x200000 = 0)
  !ok || !x.zeroFrom 7

/-- A range lies inside one region that `p` accepts. -/
def EpochMap.within (m : EpochMap) (a n : Nat) (p : Region → Bool) : Bool := (m.region? a).any fun r => decide (a + n ≤ r.vbase + r.size) && p r

/-- SERVE_CONFIG: in STOPPED, the loop takes its settings, divides its pages and waits for its first pass. -/
def execServeConfig (e : EntryRef) (s : State) : Host.Outcome State Fault Refusal :=
  .next (s.serveCommand e 0x40 Entry.configBad fun x y s =>
    let s0 := (x.word 1).toNat
    let kv := (x.word 3).toNat
    let size := (x.word 4).toNat
    let ktab := (x.word 2).toNat
    if y.serve.st ≠ .stopped then s.complete e 2
    else if s0 < x.at_ + 1000000 ∨ !(y.cur.within kv size fun r => !r.ro) ∨ !(y.cur.within ktab 128 fun r => r.ro) then s.complete e 1
    else
      let w5 := x.word 5
      let w6 := x.word 6
      let v := { Serve.reset with s0 := s0, ktab := ktab, kvbase := kv, kvsize := size, pframes := bits w5 63 56, lookahead := bits w5 55 48,
                                  grace := bits w5 47 40 * 100000, deferMax := bits w5 39 32 }
      let v := { v with commitLag := bits w5 31 24, report := bits w5 23 16, recBytes := bits w6 63 32, encPages := bits w6 31 16,
                        maxTok := bits w6 15 0, st := .wait, free := y.cur.divide (size / 65536), deltas := [0, 0, 0, 0, 0] }
      (s.modServe x.comp fun _ => v).complete e 0)

/-- SERVE_STOP: at once where no pass runs, else at the next boundary. A second one waits for the first. -/
def execServeStop (e : EntryRef) (s : State) : Host.Outcome State Fault Refusal :=
  .next (
    let busy := (s.entry? e).any fun x => (s.comp? x.comp).any fun y => y.serve.stopEntry.isSome
    if busy then s
    else s.serveCommand e 0x41 (fun x => !x.zeroFrom 1) fun x y s =>
      if y.serve.st = .stopped then s.complete e 0
      else if y.serve.st.still then s.stopNow x.comp e
      else s.modServe x.comp fun v => { v with stopEntry := some e })

/-! ## STREAM_OPEN and STREAM_CLOSE (R409, R429) -/

/-- Operands that STREAM_OPEN may not have (Tables 15-2, 15-3). -/
def Entry.openBad (x : Entry) : Bool :=
  let w := x.word 2
  let rate := bits w 31 22
  let fmt := bits w 21 18
  let text := decide (fmt = 0xF) && decide (rate = 0)
  let audio := decide (fmt ≤ 3) && decide (160 ≤ rate) && decide (rate ≤ 960)
  !(text || audio) || decide (23 < bits w 11 7) || decide (bits w 3 0 ≠ 0) || decide (x.word 1 ≠ 0) || decide (bits (x.word 3) 63 24 ≠ 0) ||
    decide (bits (x.word 3) 23 0 = 0) || bit (x.word 3) (bits w 11 7) || !x.zeroFrom 4

/-- A target slot before its stream is admitted. -/
def TSlot.empty : TSlot where
  hyps := []
  fresh := []
  waitText := []
  waitSpeech := []
  textBufs := []
  speechBufs := []
  dropText := false
  dropSpeech := false

/-- The stream that a STREAM_OPEN describes: a pending join. -/
def Entry.stream (x : Entry) (order record : Nat) : Stream :=
  let w := x.word 2
  let targets : BitVec 24 := BitVec.ofNat 24 (bits (x.word 3) 23 0)
  let v : StreamState := { frames := [], slots := ((upto 24).filter fun i => bit targets i).map fun i => (i, TSlot.empty), pages := 0 }
  { handle := BitVec.ofNat 32 x.handle, openEntry := x.ref, order := order, rate := bits w 31 22, format := bits w 21 18, beam := bits w 17 15 + 1,
    sprio := bits w 14 12, source := bits w 11 7, textOut := bit w 6, speechOut := bit w 5, outRate := bit w 4, targets := targets,
    admitted := false, deferrals := 0, closing := none, lastPass := false, pool := 0, record := record, reserved := 0, expect := none, newest := 0,
    kept := v, work := v, restart := false }

/-- STREAM_OPEN: the stream is a pending join until a pass admits or rejects it. -/
def execStreamOpen (e : EntryRef) (s : State) : Host.Outcome State Fault Refusal :=
  .next (s.serveCommand e 0x42 Entry.openBad fun x y s =>
    if !y.serve.serving then s.complete e 0x17
    else if (y.serve.stream? x.handle).isSome then s.complete e 0x18
    else
      let (n, s) := s.takeFresh 1
      s.modServe x.comp fun v => { v with streams := v.streams ++ [x.stream v.nextOrder n], nextOrder := v.nextOrder + 1 })

/-- STREAM_CLOSE: the next pass to start is the stream's last. -/
def execStreamClose (e : EntryRef) (s : State) : Host.Outcome State Fault Refusal :=
  .next (s.serveCommand e 0x43 (fun x => decide (bits (x.word 2) 31 0 ≠ 0) || decide (x.word 1 ≠ 0) || !x.zeroFrom 3) fun x y s =>
    if !y.serve.serving then s.complete e 0x17
    else
      match y.serve.stream? x.handle with
      | none => s.complete e 0x16
      | some t =>
        if t.closing.isSome then s.complete e 0x16
        else s.modServe x.comp fun v => v.modStream t.handle fun t => { t with closing := some e })

/-! ## AUDIO and TEXT_IN (R419-R422) -/

/-- The first refusal of Table 15-5 that applies when the command is fetched. -/
def Serve.refusal (v : Serve) (t : Option Stream) (text : Bool) (time : Nat) : Nat :=
  if t.all fun t => decide (t.text ≠ text) then 0x16
  else if !v.serving then 0x17
  else if time < v.s0 then 0x14
  else if v.window time < v.nextGather then 0x12
  else if v.nextGather + 51 ≤ v.window time then 0x13
  else 0

/-- A frame or segment is copied when its command is fetched, and waits for the pass of its window. -/
def State.takeFrame (s : State) (e : EntryRef) (x : Entry) (y : Comp) (text : Bool) : State :=
  let time := (x.word 1).toNat
  let st := y.serve.refusal (y.serve.stream? x.handle) text time
  if st ≠ 0 then (s.modServe x.comp fun v => { v with refused := v.refused + 1 }).complete e st
  else
    match s.entryData x with
    | none => s.complete e 5
    | some bs =>
      let s := s.sendEntryRead x
      let f : PendFrame := { entry := e, tag := BitVec.ofNat 32 x.tag, handle := BitVec.ofNat 32 x.handle, time := time, bytes := bs,
                             text := text, gathered := false }
      let s := s.meterReeve x.comp (y.cur.pools.headD 0) bs.length
      s.modServe x.comp fun v => { v with pendFrames := v.pendFrames ++ [f] }

/-- AUDIO. -/
def execAudio (e : EntryRef) (s : State) : Host.Outcome State Fault Refusal :=
  .next (s.serveCommand e 0x44 (fun x => decide (bits (x.word 2) 31 0 ≠ 0) || !x.zeroFrom 4) fun x y s => s.takeFrame e x y false)

/-- TEXT_IN. -/
def execTextIn (e : EntryRef) (s : State) : Host.Outcome State Fault Refusal :=
  .next (s.serveCommand e 0x45 (fun x =>
    decide (bits (x.word 2) 31 13 ≠ 0) || decide (bits (x.word 2) 12 0 = 0) || decide (4096 < bits (x.word 2) 12 0) || !x.zeroFrom 4)
    fun x y s => s.takeFrame e x y true)

/-! ## OUT_BUF (R430) -/

/-- OUT_BUF: a buffer behind those that its slot and KIND already have. DEDUCED: a slot that the stream does not have, or a KIND that it does
not write, is an invalid entry. -/
def execOutBuf (e : EntryRef) (s : State) : Host.Outcome State Fault Refusal :=
  .next (s.serveCommand e 0x46 (fun x =>
    decide (bits (x.word 2) 25 20 ≠ 0) || decide (23 < bits (x.word 2) 31 27) || decide ((x.word 3).toNat % 64 ≠ 0) || decide (x.word 1 ≠ 0) || !x.zeroFrom 4)
    fun x y s =>
      if !y.serve.serving then s.complete e 0x17
      else
        match y.serve.stream? x.handle with
        | none => s.complete e 0x16
        | some t =>
          let slot := bits (x.word 2) 31 27
          let speech := bit (x.word 2) 26
          if !bit t.targets slot ∨ !(if speech then t.speechOut else t.textOut) then s.complete e 1
          else
            let b : OutBuf := { entry := e, addr := x.word 3, len := bits (x.word 2) 19 0 + 1, filled := 0, full := false }
            let add (v : StreamState) : StreamState :=
              { v with slots := v.slots.map fun l =>
                if l.1 = slot then (l.1, if speech then { l.2 with speechBufs := l.2.speechBufs ++ [b] } else { l.2 with textBufs := l.2.textBufs ++ [b] })
                else l }
            s.modServe x.comp fun v => v.modStream t.handle fun t => t.both add)

/-! ## LOAD (R413) -/

/-- The row of a LOAD's descriptor, whose rows follow each other: STRIDE of Table 06-2 is a signed 32-bit number. -/
def loadRow : Nat := 0x40000000

/-- A HOST to DEVICE copy of `rows` rows of `l` bytes (Table 06-2). -/
def loadDesc (src dst rows l : Nat) : List DWord :=
  [BitVec.ofNat 64 (3 * 2 ^ 57 + 2 ^ 54 + (rows - 1) * 2 ^ 32 + l), BitVec.ofNat 64 src, BitVec.ofNat 64 dst,
    (if rows = 1 then 0 else BitVec.ofNat 64 (l * 2 ^ 32 + l)), 0, 0, 0, 0]

/-- The descriptors of a LOAD: at most five for the 2^48 bytes of a composition's space. -/
def loadDescs (src dst : Nat) : Nat → Nat → List (List DWord)
  | 0, _ => []
  | k + 1, n =>
    let rows := min (n / loadRow) 65536
    if n = 0 then []
    else if rows = 0 then [loadDesc src dst 1 n]
    else loadDesc src dst rows loadRow :: loadDescs (src + rows * loadRow) (dst + rows * loadRow) k (n - rows * loadRow)

/-- Every 2 MiB piece of a range of composition addresses is mapped. -/
def State.rangeMapped (s : State) (c : Nat) (y : Comp) (a n : Nat) : Bool :=
  decide (a + n ≤ 2 ^ 48) && (upto ((a + n - 1) / 0x200000 - a / 0x200000 + 1)).all fun i =>
    (s.translate c y.cur.epoch (max a ((a / 0x200000 + i) * 0x200000))).isSome

/-- The queue of the driving reeve's die has no room for a LOAD's transfers. -/
def State.loadFull (s : State) (x : Entry) (y : Comp) : Bool :=
  decide (256 < (s.die (y.cur.pools.headD 0)).reeveXfers.length + (loadDescs 0 0 6 (x.word 4).toNat).length)

/-- LOAD: transfers in the queue of the driving reeve's die, which holds 256: the command waits for room (R175). -/
def execLoad (e : EntryRef) (s : State) : Host.Outcome State Fault Refusal :=
  .next (
    let full := (s.entry? e).any fun x => (s.comp? x.comp).any fun y => s.loadFull x y
    if full then s
    else s.serveCommand e 0x48 (fun x => decide (x.word 1 ≠ 0) || decide (x.word 4 = 0) || decide ((x.word 4).toNat % 256 ≠ 0) || !x.zeroFrom 5)
    fun x y s =>
      let d := y.cur.pools.headD 0
      let dst := (x.word 3).toNat % 2 ^ 48
      let n := (x.word 4).toNat
      if s.panelField x.comp (x.word 3) ≠ .here ∨ !s.rangeMapped x.comp y dst n then s.complete e 1
      else if y.context = 0 then s.complete e 4
      else if !s.dieUp d then s.complete e 6
      else
        let descs := loadDescs (x.word 2).toNat (x.word 3).toNat 6 n
        let t := (s.die d).reeveNext
        let xs := descs.mapIdx fun i w =>
          ({ token := t + 1 + BitVec.ofNat 32 i, use := .load e, context := y.context, comp := x.comp, epoch := y.cur.epoch, desc := w,
             descPoisoned := false, oddDesc := false, phase := .waiting, issued := 0, done := [], bad := [], freedR := false, seq := 0 } : Xfer)
        s.modDie d fun z => { z with reeveXfers := z.reeveXfers ++ xs, reeveNext := t + BitVec.ofNat 32 xs.length })

end Sys2Proof.Machine
end

