-- ==== Sys2Proof/Machine/Pass.lean ====
section
/-! DEFINITION. The passes of the serving loop: GATHER, RESERVE, the stages, EMIT, COMMIT and ROLLBACK (R412-R437). -/

namespace Sys2Proof.Machine

open Sys2Proof

/-! ## GATHER (R419-R422) -/

/-- What a stream makes of a frame at capture time `t`: the frames to append, or a refusal of Table 15-5. A gap of more than 50 frames takes
no silence and restarts the encoder state; the rounding is to the nearest, halves up. -/
def Stream.place (s : Stream) (t : Nat) (bs : List Byte) : List Frame × Nat :=
  let n := s.kept.frames.length
  let fits (fs : List Frame) : List Frame × Nat := if n + fs.length ≤ 64 then (fs, 0) else ([], 0x1A)
  let one (restart : Bool) : Frame := { time := t, silence := false, restart := restart, bytes := bs }
  match (if s.text then none else s.expect) with
  | none => fits [one false]
  | some e =>
    if t + 1000000 < e then ([], 0x15)
    else if t ≤ e + 1000000 then fits [one false]
    else
      let k := (t - e + 10000000) / 20000000
      if 50 < k then fits [one true]
      else fits (((upto k).map fun i => { time := e + 20000000 * i, silence := true, restart := false, bytes := [] }) ++ [one false])

/-- Insert by capture time, after those of the same time. -/
def insertFrame (f : PendFrame) : List PendFrame → List PendFrame
  | [] => [f]
  | g :: l => if f.time < g.time then f :: g :: l else g :: insertFrame f l

/-- The frames of window `p` in capture-time order, equal times in fetch order. -/
def Serve.due (v : Serve) (p : Nat) : List PendFrame := (v.pendFrames.filter fun f => decide (v.window f.time = p)).foldl (fun l f => insertFrame f l) []

/-- Gather one frame into its stream's buffer, or refuse its command. -/
def State.gatherFrame (s : State) (c : Nat) (f : PendFrame) : State :=
  match (s.comp? c).bind fun x => x.serve.stream? f.handle.toNat with
  | none => s
  | some t =>
    let drop (s : State) : State := s.modServe c fun v => { v with pendFrames := v.pendFrames.filter fun g => decide (g.entry ≠ f.entry) }
    let (fs, st) := t.place f.time f.bytes
    if st ≠ 0 then ((drop s).modServe c fun v => { v with refused := v.refused + 1 }).complete f.entry st
    else
      s.modServe c fun v =>
        { v.modStream t.handle (fun t => { t.both (fun w => { w with frames := w.frames ++ fs }) with expect := some (f.time + 20000000) }) with
          pendFrames := v.pendFrames.map fun g => if g.entry = f.entry then { g with gathered := true } else g }

/-! ## RESERVE (R427-R429) -/

/-- Live hypotheses of a version. -/
def StreamState.live (v : StreamState) : Nat := (v.slots.map fun e => e.2.hyps.length).sum

/-- The streams that work in pool `d`. -/
def Serve.active (v : Serve) (d : Nat) : List Stream := v.streams.filter fun t => t.admitted && decide (t.pool = d)

/-- C: pages that the continuing streams of a pool may take (R427). -/
def Serve.need (v : Serve) (d : Nat) : Nat := ((v.active d).map fun t => 2 * v.encPages + t.kept.live).sum

/-- The stream of lowest priority among `ts`, the latest opened on a tie. -/
def lowestPriority : List Stream → Option Stream
  | [] => none
  | t :: ts =>
    match lowestPriority ts with
    | none => some t
    | some b => if b.sprio < t.sprio ∨ (b.sprio = t.sprio ∧ b.order < t.order) then some t else some b

/-- Hypothesis `a` of slot `i` is pruned before `b` of slot `j`: lower score, then higher index, then higher slot. -/
def pruneBefore (i : Nat) (a : Hyp) (j : Nat) (b : Hyp) : Bool :=
  decide (a.score < b.score) || (decide (a.score = b.score) && (decide (b.index < a.index) || (decide (a.index = b.index) && decide (j < i))))

/-- The hypothesis to prune: of a slot that holds more than one. -/
def StreamState.worst (v : StreamState) : Option (Nat × Hyp) :=
  let all := v.slots.flatMap fun e => if 1 < e.2.hyps.length then e.2.hyps.map fun h => (e.1, h) else []
  all.foldl (fun (b : Option (Nat × Hyp)) e => match b with
    | none => some e
    | some w => if pruneBefore e.1 e.2 w.1 w.2 then some e else some w) none

/-- Remove a hypothesis. -/
def StreamState.prune (v : StreamState) (slot index : Nat) : StreamState :=
  { v with slots := v.slots.map fun e => if e.1 = slot then (e.1, { e.2 with hyps := e.2.hyps.filter fun h => decide (h.index ≠ index) }) else e }

/-- Make room for continuing work in pool `d`: one hypothesis pruned or one stream ended at a time, while C exceeds the free pages. -/
def State.coverNeed (c d : Nat) : Nat → State → State
  | 0, s => s
  | n + 1, s =>
    match s.comp? c with
    | none => s
    | some x =>
      let v := x.serve
      if v.need d ≤ getD 0 v.free d then s
      else
        let ts := v.active d
        match lowestPriority (ts.filter fun t => t.kept.worst.isSome) with
        | some t =>
          match t.kept.worst with
          | some (slot, h) => State.coverNeed c d n (s.modServe c fun v => v.modStream t.handle fun t => t.both fun w => w.prune slot h.index)
          | none => s
        | none =>
          match lowestPriority ts with
          | none => s
          | some t =>
            let s := s.streamStatus c t.handle 0x1B
            let s := s.reportComps (mkCode 0x10F00113 c) [c]
            let s := s.modServe c fun v =>
              { v with ended := v.ended + 1, returning := setD 0 v.returning d (getD 0 v.returning d + t.kept.pages) }
            State.coverNeed c d n (s.dropStream c t 0)

/-- Reserve C in a pool. -/
def State.reservePool (s : State) (c d : Nat) : State :=
  let s := State.coverNeed c d (((s.comp? c).map fun x => ((x.serve.active d).map fun t => t.kept.live + 1).sum).getD 0) s
  s.modServe c fun v =>
    let n := v.need d
    let per (t : Stream) : Stream := if t.admitted ∧ t.pool = d then { t with reserved := 2 * v.encPages + t.kept.live } else t
    { v with free := setD 0 v.free d (getD 0 v.free d - n), reserved := setD 0 v.reserved d (getD 0 v.reserved d + n), streams := v.streams.map per }

/-- Target slots of a stream. -/
def Stream.slotCount (t : Stream) : Nat := t.kept.slots.length

/-- J: the join cost (R427). -/
def Serve.joinCost (v : Serve) (t : Stream) : Nat := v.recBytes / 65536 + t.slotCount * t.beam

/-- Admit joins in fetch order until one finds no room; that one and every later one are deferred, or rejected after DEFER_MAX deferrals. -/
def State.admitJoins (c : Nat) : List Stream → Bool → State → State
  | [], _, s => s
  | t :: ts, blocked, s =>
    match s.comp? c with
    | none => s
    | some x =>
      let v := x.serve
      let j := v.joinCost t
      match (if blocked then none else mostFree v.free x.cur.pools).filter fun d => decide (j ≤ getD 0 v.free d) with
      | some d =>
        let s := s.modServe c fun v =>
          { v.modStream t.handle (fun t => { t.both t.fresh with admitted := true, pool := d, reserved := j }) with
            free := setD 0 v.free d (getD 0 v.free d - j), reserved := setD 0 v.reserved d (getD 0 v.reserved d + j), admitted := v.admitted + 1 }
        State.admitJoins c ts false (s.complete t.openEntry 0 t.deferrals)
      | none =>
        if v.deferMax ≤ t.deferrals then State.admitJoins c ts true ((s.complete t.openEntry 0x11).dropStream c t 0x16)
        else
          let s := s.modServe c fun v =>
            { v.modStream t.handle (fun t => { t with deferrals := t.deferrals + 1 }) with deferred := v.deferred + 1 }
          State.admitJoins c ts true ((s.count .yokServeDefer 0 c 1).streamStatus c t.handle 0x10)

/-! ## Stages (R412, R448) -/

/-- Chunks that a stream runs in the pass (R422, R423): every segment of a text stream, at most two chunks of an audio stream. -/
def Serve.chunks (v : Serve) (t : Stream) : Nat :=
  let n := t.work.frames.length
  if t.restart ∧ v.rerun then 0
  else if t.text then n
  else if v.pframes = 0 then 0
  else min 2 ((n - v.lookahead) / v.pframes)

/-- Streams that take part in this run of the pass: one that restarts sits out the run that follows (R484). -/
def Serve.working (v : Serve) : List Stream := v.streams.filter fun t => t.admitted && !(t.restart && v.rerun)

/-- The work list of a stage for a pool's die: FEAT and ENC a chunk each, DEC a live hypothesis each, VOC each slot in `voc`. -/
def Serve.workList (v : Serve) (stage d : Nat) (voc : List (Word × Nat)) : List WorkItem :=
  (v.working.filter fun t => decide (t.pool = d)).flatMap fun t =>
    let item (slot hyp : Nat) : WorkItem := { handle := t.handle, slot := slot, hyp := hyp, record := t.record }
    match stage with
    | 0 => if t.text then [] else (upto (v.chunks t)).map fun _ => item t.source 0
    | 1 => (upto (v.chunks t)).map fun _ => item t.source 0
    | 2 => t.work.slots.flatMap fun e => e.2.hyps.map fun h => item e.1 h.index
    | _ => (voc.filter fun q => decide (q.1 = t.handle)).map fun q => item q.2 0

/-- Own cores and lent cores of a composition on a die. -/
def State.ownOn (s : State) (c d : Nat) : List Nat := (slicesOf d).filter fun k => (s.comp? c).any fun x => x.cur.slices.contains k
def State.lentOn (s : State) (c d : Nat) : List Nat :=
  (slicesOf d).filter fun k => decide ((s.core k).loan = .lent) && decide ((s.core k).borrower = some c)

/-- Divide a die's list: each lent core takes floor(n / (k + l)) entries from its end, the own cores keep the rest (R448). -/
def divideList (own lent : List Nat) (items : List WorkItem) : List (Nat × List WorkItem) :=
  let n := items.length
  let q := if own.length + lent.length = 0 then 0 else n / (own.length + lent.length)
  let rest := items.take (n - q * lent.length)
  (own.map fun k => (k, rest)) ++ lent.mapIdx fun i k => (k, (items.drop (n - q * (i + 1))).take q)

/-- The launch record of a stage with CONTEXT, TAG and UINIT replaced (R412); `addr`: the list's composition address. -/
def stageRecord (w : List DWord) (ctx : Half) (stage : Nat) (addr : Word × Word) (comp : Nat) (epoch : Byte) (pass : Nat) : Launch where
  w0 := BitVec.ofNat 64 (ctx.toNat * 2 ^ 48 + bits (w.getD 0 0) 47 0)
  w1 := w.getD 1 0
  w2 := BitVec.ofNat 64 (addr.1.toNat * 2 ^ 32 + addr.2.toNat)
  w3 := BitVec.ofNat 64 (bits (w.getD 3 0) 63 16 * 65536 + stage)
  comp := comp
  epoch := epoch
  pass := BitVec.ofNat 32 pass

/-- Write a die's launch records: one list address for its own cores, one for each lent core; the spec does not place the lists. -/
def State.launchDie (s : State) (c stage : Nat) (w : List DWord) (voc : List (Word × Nat)) (d : Nat) : State :=
  match s.comp? c with
  | none => s
  | some x =>
    let own := s.ownOn c d
    let lent := s.lentOn c d
    let lists := divideList own lent (x.serve.workList stage d voc)
    let (n, s) := s.takeFresh (2 * (lent.length + 1))
    let addr (i : Nat) : Word × Word := (Config.freeWord (n + 2 * i), Config.freeWord (n + 2 * i + 1))
    let put (s : State) (k i : Nat) : State :=
      s.modCore k fun z => { z with launches := z.launches ++ [stageRecord w x.context stage (addr i) c x.cur.epoch x.serve.pass] }
    let s := own.foldl (fun (s : State) k => put s k 0) s
    let s := (lent.mapIdx fun i k => (k, i + 1)).foldl (fun (s : State) e => put s e.1 e.2) s
    s.modServe c fun v => { v with lists := v.lists ++ lists }

/-- Launch a stage on every die of the composition. It waits while the kernel table's home holds the read; the pass fails when the table cannot be
read (R417). -/
def State.launchStage (s : State) (c stage : Nat) (voc : List (Word × Nat)) : Moved State :=
  match s.comp? c with
  | none => .held
  | some x =>
    let how : ReadHow := { comp := c, epoch := x.cur.epoch, hint := 0, payer := 8 * x.cur.pools.headD 0, uncached := false, waiter := .reeve,
                           lastRead := fun _ => false }
    match s.readDevice how (pieces (x.serve.ktab + 32 * stage) 32 2) with
    | .held => .held
    | .wait n => .wait n
    | .fail _ => .ok (s.failPass c)
    | .ok (s, bs) =>
      if anyPoison bs then .ok (s.failPass c)
      else
        let bytes := bs.map (·.1)
        let w := (upto 4).map fun i => (BitVec.ofNat 64 (leNat ((bytes.drop (8 * i)).take 8)) : DWord)
        let s := s.modServe c fun v => { v with stage := stage, lists := [] }
        .ok (x.cur.pools.foldl (fun (s : State) d => s.launchDie c stage w voc d) s)

/-- A step of the loop that could not read the kernel table has not begun. -/
def State.orWait (s : State) (m : Moved State) : State := match m with
  | .ok t => t
  | .wait n => s.nudge n .reeve
  | _ => s

/-- The counts of array instructions of a pass start anew; how many each slice will issue is a free value until it has (R66). -/
def State.armCanary (s : State) (x : Comp) : State :=
  let (n, s) := s.takeFresh x.cur.slices.length
  (x.cur.slices.mapIdx fun i k => (i, k)).foldl (fun (t : State) e =>
    t.modCore e.2 fun z => { z with passInstrs := 0, passTotal := Config.freeNat (n + e.1), canaries := [] }) s

/-- No drill and no launch record of the composition is left on its cores, and no instruction or transfer of its drills. -/
def State.stageOver (s : State) (c : Nat) : Bool :=
  s.cores.all fun e =>
    let k := e.2
    let idle (ds : List (Nat × Drill)) (ls : List Launch) : Bool := (ds.all fun d => decide (d.2.comp ≠ c)) && ls.all fun l => decide (l.comp ≠ c)
    idle k.drills k.launches && k.saved.all fun v => idle v.drills v.launches

/-! ## PASS_START (R414, R416, R446) -/

/-- The loop may start its pass: WAIT, the start time has come (under replay passes run back to back), the boundary is over, its cores are its own, nothing fetched for the window
waits to be copied, and neither QUIESCE, UNBIND, teardown nor restart stops it. -/
def State.passReady (s : State) (c : Nat) (x : Comp) : Bool :=
  let v := x.serve
  let f := s.fn x.fn
  let input (y : Entry) : Bool := decide (y.opcode = 0x44 ∨ y.opcode = 0x45) && decide (y.comp = c) && !y.started && s.fenceOk y
  s.inService && decide (v.st = .wait) && (s.replaying c || decide (v.nominal v.pass ≤ s.time.now)) && !f.quiesced && f.quiescing.isNone && !x.unbinding &&
    !v.restarting && decide (x.context ≠ 0) && (s.yoke.teardowns.all fun t => decide (t.1 ≠ x.context)) &&
    !(x.change.isSome && x.settling.isNone && s.drained c x) && (x.cur.slices.all fun k => decide ((s.core k).loan = .none_)) && !f.entries.any input

/-- The counts of a pass start anew. -/
def Serve.begin (v : Serve) (now : Nat) : Serve :=
  let v := { v with st := .reserve, stage := 0, failures := 0, failedNow := false, excused := false, rerun := false, chk := false, poison := false,
                    canaryDone := false, gatherAt := now, admitted := 0, deferred := 0, stepped := 0, ended := 0, hypWords := [] }
  { v with dropped := false, notices := [], lists := [], reserved := [], returning := [], asking := false,
           streams := v.streams.map fun t => { t with lastPass := t.closing.isSome, reserved := 0, restart := false } }

/-- PASS_START: window p is gathered, pages are reserved and joins admitted, loans are requested after an overrun, and FEAT is launched. -/
def State.passStart (s : State) (c : Nat) : State :=
  match s.comp? c with
  | none => s
  | some x =>
    if !s.passReady c x then s
    else
      let t := (s.accountComp c).modServe c fun v => v.begin s.time.now
      let t := t.armCanary x
      let t := (x.serve.due x.serve.pass).foldl (fun (t : State) f => t.gatherFrame c f) t
      let t := x.cur.pools.foldl (fun (t : State) d => t.reservePool c d) t
      let joins := (((t.comp? c).map fun y => y.serve.streams.filter fun u => !u.admitted)).getD []
      let t := State.admitJoins c joins false t
      let t := (t.requestLoans c).modServe c fun v =>
        { v with st := .encode, streams := v.streams.map fun u => { u with work := u.kept } }
      s.orWait (t.launchStage c 0 [])

/-! ## The encoder's chunks (R423) -/

/-- A stream's buffer after its chunks: lookahead frames stay; the newest frame that was read ends at `newest`. -/
def Serve.consume (v : Serve) (t : Stream) : Stream :=
  let k := v.chunks t
  let n := if t.text then k else k * v.pframes
  let read := t.work.frames.take (if t.text then n else n + v.lookahead)
  let fin := (read.getLast?.map fun f => f.time + if t.text then 0 else 20000000).getD t.newest
  if k = 0 then t else { t with work := { t.work with frames := t.work.frames.drop n }, newest := fin }

/-! ## The decoder's step (R424, R425) -/

/-- Tokens that a slot has committed, as its first hypothesis counts them. -/
def TSlot.committed (l : TSlot) : Nat := (l.hyps.head?.map fun h => h.toks - h.tail.length).getD 0

/-- Commit one token: every hypothesis that does not hold it next is pruned. -/
def TSlot.commitToken (l : TSlot) (tok : List Byte) : TSlot :=
  { l with fresh := l.fresh ++ tok,
           hyps := (l.hyps.filter fun h => decide (h.tail.head? = some tok)).map fun h => { h with tail := h.tail.drop 1 } }

/-- Commit the longest prefix that every live hypothesis shares. -/
def TSlot.commitShared : Nat → TSlot → TSlot
  | 0, l => l
  | n + 1, l =>
    match (l.hyps.head?.bind fun h => h.tail.head?) with
    | none => l
    | some tok => if l.hyps.all fun h => decide (h.tail.head? = some tok) then TSlot.commitShared n (l.commitToken tok) else l

/-- The best-scoring hypothesis, the lowest index on a tie. -/
def TSlot.best (l : TSlot) : Option Hyp :=
  l.hyps.foldl (fun (b : Option Hyp) h => match b with
    | none => some h
    | some w => if w.score < h.score ∨ (w.score = h.score ∧ h.index < w.index) then some h else some w) none

/-- While the best hypothesis holds more than `lag` uncommitted tokens, its oldest is committed. -/
def TSlot.commitLag (lag : Nat) : Nat → TSlot → TSlot
  | 0, l => l
  | n + 1, l =>
    match l.best with
    | none => l
    | some h =>
      match h.tail.head? with
      | none => l
      | some tok => if lag < h.tail.length then TSlot.commitLag lag n (l.commitToken tok) else l

/-- Commit the oldest uncommitted token of each hypothesis that had reached MAXTOK and is still live. -/
def TSlot.commitForced (l : TSlot) (hs : List Nat) : TSlot :=
  hs.foldl (fun (l : TSlot) i =>
    match (l.hyps.find? fun h => decide (h.index = i)).bind fun h => h.tail.head? with
    | some tok => l.commitToken tok
    | none => l) l

/-- One hypothesis's step: its token, or none for the wait token. -/
def Hyp.step (h : Hyp) (r : Option HypStep) : Hyp :=
  match r with
  | none => h
  | some r =>
    match r.token with
    | none => { h with score := r.score }
    | some t => { h with score := r.score, tail := h.tail ++ [t], toks := h.toks + 1 }

/-- One decoder step of a slot. -/
def Serve.stepSlot (v : Serve) (t : Stream) (steps : List HypStep) (slot : Nat) (l : TSlot) : TSlot :=
  let forced := (l.hyps.filter fun h => decide (v.maxTok ≤ h.toks)).map (·.index)
  let step (h : Hyp) : Option HypStep := steps.find? fun r => decide (r.handle = t.handle.toNat) && decide (r.slot = slot) && decide (r.hyp = h.index)
  let l1 := { l with hyps := l.hyps.map fun h => h.step (step h) }
  let n := ((l1.hyps.map fun h => h.tail.length).sum) + 1
  let l2 := TSlot.commitLag v.commitLag n (TSlot.commitShared n l1)
  let l3 := TSlot.commitShared n (l2.commitForced forced)
  if t.lastPass then
    match l3.best with
    | some h => TSlot.commitLag 0 n { l3 with hyps := [h] }
    | none => l3
  else l3

/-- The eight bytes of a hypothesis in a TYPE 0x05 record (Table 20-5). -/
def hypWord (t : Stream) (slot : Nat) (before after : TSlot) (steps : List HypStep) (h : Hyp) : DWord :=
  let r := steps.find? fun r => decide (r.handle = t.handle.toNat) && decide (r.slot = slot) && decide (r.hyp = h.index)
  let appended := r.any fun r => r.token.isSome
  let pruned := after.hyps.all fun g => decide (g.index ≠ h.index)
  let n := if after.hyps.isEmpty then 0 else after.committed - before.committed
  BitVec.ofNat 64 (t.handle.toNat * 2 ^ 32 + slot * 2 ^ 27 + h.index * 2 ^ 24 + b2n appended * 2 ^ 23 + b2n pruned * 2 ^ 22 + min n 63 * 2 ^ 16)

/-- One decoder step of every live hypothesis of the streams that take part, and the slots that committed tokens. -/
def Serve.decode (v : Serve) (steps : List HypStep) : Serve × List (Word × Nat) :=
  let inRun (t : Stream) : Bool := v.working.any fun u => decide (u.handle = t.handle)
  let after (t : Stream) : List (Nat × TSlot) := t.work.slots.map fun e => (e.1, v.stepSlot t steps e.1 e.2)
  let words := v.working.flatMap fun t => (t.work.slots.zip (after t)).flatMap fun p =>
    p.1.2.hyps.map fun h => hypWord t p.1.1 p.1.2 p.2.2 steps h
  let voc := v.working.flatMap fun t => (t.work.slots.zip (after t)).filterMap fun p =>
    if t.speechOut ∧ p.1.2.committed < p.2.2.committed then some (t.handle, p.1.1) else none
  let n := (v.working.map fun t => t.work.live).sum
  ({ v with hypWords := words, stepped := n,
            streams := v.streams.map fun t => if inRun t then { t with work := { t.work with slots := after t } } else t }, voc)

/-! ## The decoder's step under replay (R545) -/

/-- The words of hypotheses in a TYPE 0x05 record: handle, slot, hypothesis. -/
def wordOf (ws : List DWord) (t : Stream) (slot : Nat) (h : Hyp) : Option DWord :=
  ws.find? fun w => decide (bits w 63 32 = t.handle.toNat) && decide (bits w 31 27 = slot) && decide (bits w 26 24 = h.index)

/-- One decoder step of a slot with APPENDED, PRUNED and the tokens committed taken from the record; a token's text and a score are the model's. -/
def stepSlotBy (ws : List DWord) (t : Stream) (steps : List HypStep) (slot : Nat) (l : TSlot) : TSlot :=
  let one (h : Hyp) : Hyp :=
    let r := steps.find? fun r => decide (r.handle = t.handle.toNat) && decide (r.slot = slot) && decide (r.hyp = h.index)
    let score := (r.map (·.score)).getD h.score
    if (wordOf ws t slot h).any fun w => bit w 23 then
      { h with score := score, tail := h.tail ++ [(r.bind (·.token)).getD []], toks := h.toks + 1 }
    else { h with score := score }
  let n := (l.hyps.map fun h => ((wordOf ws t slot h).map fun w => bits w 21 16).getD 0).foldl max 0
  let live := (l.hyps.filter fun h => !(wordOf ws t slot h).any fun w => bit w 22).map one
  let toks := ((live.head?.map fun h => h.tail.take n).getD []).flatten
  { l with hyps := live.map fun h => { h with tail := h.tail.drop n }, fresh := l.fresh ++ toks }

/-- The decoder's step of every live hypothesis as a TYPE 0x05 record has it. -/
def Serve.decodeBy (v : Serve) (ws : List DWord) (steps : List HypStep) : Serve × List (Word × Nat) :=
  let inRun (t : Stream) : Bool := v.working.any fun u => decide (u.handle = t.handle)
  let after (t : Stream) : List (Nat × TSlot) := t.work.slots.map fun e => (e.1, stepSlotBy ws t steps e.1 e.2)
  let words := v.working.flatMap fun t => t.work.slots.flatMap fun e =>
    e.2.hyps.map fun h => (wordOf ws t e.1 h).getD (BitVec.ofNat 64 (t.handle.toNat * 2 ^ 32 + e.1 * 2 ^ 27 + h.index * 2 ^ 24))
  let voc := v.working.flatMap fun t => (t.work.slots.zip (after t)).filterMap fun p =>
    if t.speechOut ∧ p.1.2.committed < p.2.2.committed then some (t.handle, p.1.1) else none
  let n := (v.working.map fun t => t.work.live).sum
  ({ v with hypWords := words, stepped := n,
            streams := v.streams.map fun t => if inRun t then { t with work := { t.work with slots := after t } } else t }, voc)

/-- The next TYPE 0x05 record of a replay, and the words of its hypotheses. -/
def State.replayPass (s : State) (c : Nat) : Option (List Byte) := (find? s.tst.replays c).bind fun r => r.records.find? fun x => decide (recType x = 5)
def State.replayWords (s : State) (c : Nat) : Option (List DWord) :=
  (s.replayPass c).map fun r => (upto ((recLen r - 32) / 8)).map fun i => recWord r (4 + i)

/-! ## Output (R430-R434) -/

/-- Bytes of the UTF-8 character that begins with `b`. -/
def charLen (b : Byte) : Nat := if b.toNat < 0xC0 then 1 else if b.toNat < 0xE0 then 2 else if b.toNat < 0xF0 then 3 else 4

/-- The longest run of whole characters within `n` bytes. -/
def textCut : Nat → Nat → List Byte → Nat
  | 0, _, _ => 0
  | _ + 1, _, [] => 0
  | f + 1, n, b :: bs =>
    let k := charLen b
    if n < k ∨ bs.length + 1 < k then 0 else k + textCut f (n - k) ((b :: bs).drop k)

/-- Whole characters or samples within `n` bytes, and whether another would fit in what is left. -/
def cutAt (speech : Bool) (n : Nat) (bs : List Byte) : Nat := if speech then min n bs.length / 2 * 2 else textCut (bs.length + 1) n bs
def noRoom (speech : Bool) (room : Nat) (rest : List Byte) : Bool :=
  if speech then decide (room < 2) else decide (room = 0) || rest.head?.any fun b => decide (room < charLen b)

/-- Fill the buffers of one slot and KIND in submission order: the buffers after, the bytes still waiting, and the host writes. -/
def fillBufs (speech : Bool) : List OutBuf → List Byte → List OutBuf × List Byte × List (Nat × List Byte)
  | [], bs => ([], bs, [])
  | b :: rest, bs =>
    if b.full then
      let (l, r, ws) := fillBufs speech rest bs
      (b :: l, r, ws)
    else
      let n := cutAt speech (b.len - b.filled) bs
      let left := bs.drop n
      let b' := { b with filled := b.filled + n, full := noRoom speech (b.len - b.filled - n) left }
      let w := if n = 0 then [] else [(b.addr.toNat + b.filled, bs.take n)]
      if b'.full then
        let (l, r, ws) := fillBufs speech rest left
        (b' :: l, r, w ++ ws)
      else (b' :: rest, left, w)

/-- Keep 64 KiB of waiting output, the newest, whole characters or samples: whether some was dropped. -/
def keepWaiting (speech : Bool) (bs : List Byte) : List Byte × Bool :=
  let excess := bs.length - 65536
  if excess = 0 then (bs, false)
  else
    let n := if speech then (excess + 1) / 2 * 2 else
      let k := textCut (bs.length + 1) excess bs
      if k = excess then k else k + charLen ((bs.drop k).headD 0)
    (bs.drop n, true)

/-- One slot and KIND's output: the slot after, the host writes, and END of its notice when anything was written. -/
def TSlot.emit (l : TSlot) (speech : Bool) (new : List Byte) : TSlot × List (Nat × List Byte) × Bool :=
  let bufs := if speech then l.speechBufs else l.textBufs
  let wait := (if speech then l.waitSpeech else l.waitText) ++ new
  let (bufs, left, ws) := fillBufs speech bufs wait
  let (left, dropped) := keepWaiting speech left
  (if speech then { l with speechBufs := bufs, waitSpeech := left, dropSpeech := l.dropSpeech || dropped }
    else { l with textBufs := bufs, waitText := left, dropText := l.dropText || dropped }, ws, dropped)

/-- Bytes in the buffer written last. -/
def lastFilled (bufs : List OutBuf) : Nat := bufs.foldl (fun a b => if b.filled = 0 then a else b.filled) 0

/-- Emit one slot of a stream: text, then speech; notices for the kinds written. -/
def Serve.emitSlot (t : Stream) (speech : List SpeechOut) (voc : Bool) (slot : Nat) (l : TSlot) : TSlot × List (Nat × List Byte) × List Notice × Bool :=
  let (l1, w1, d1) := l.emit false (if t.textOut then l.fresh else [])
  let bytes := if voc then (speech.filter fun o => decide (o.handle = t.handle.toNat) && decide (o.slot = slot)).flatMap (·.bytes) else []
  let (l2, w2, d2) := l1.emit true bytes
  let note (sub : Nat) (bufs : List OutBuf) (drop : Bool) : Notice :=
    { handle := t.handle, slot := slot, sub := sub, drop := drop, fin := lastFilled bufs, newest := t.newest }
  let drop := l2.dropText || l2.dropSpeech
  let n1 := if w1.isEmpty then [] else [note 0 l2.textBufs drop]
  let n2 := if w2.isEmpty then [] else [note 1 l2.speechBufs (drop && n1.isEmpty)]
  let told := !(n1 ++ n2).isEmpty
  ({ l2 with fresh := [], dropText := l2.dropText && !told, dropSpeech := l2.dropSpeech && !told }, w1 ++ w2, n1 ++ n2, d1 || d2)

/-- The output of every stream of the run. -/
def Serve.emit (v : Serve) (speech : List SpeechOut) : Serve × List (Nat × List Byte) × Bool :=
  let vocHas (h : Word) (slot : Nat) : Bool := v.lists.any fun e => e.2.any fun i => decide (i.handle = h) && decide (i.slot = slot)
  let inRun (t : Stream) : Bool := v.working.any fun u => decide (u.handle = t.handle)
  let out := v.streams.map fun t =>
    if inRun t then
      let r := t.work.slots.map fun e => (e.1, Serve.emitSlot t speech (vocHas t.handle e.1) e.1 e.2)
      ({ t with work := { t.work with slots := r.map fun e => (e.1, e.2.1) } }, r.flatMap fun e => e.2.2.1, r.flatMap fun e => e.2.2.2.1, r.any fun e => e.2.2.2.2)
    else (t, [], [], false)
  ({ v with streams := out.map (·.1), notices := out.flatMap fun o => o.2.2.1 }, out.flatMap fun o => o.2.1, out.any fun o => o.2.2.2)

/-- Write a pass's output data to the host: a write that the host refuses fails the pass (R417); a replay writes none (R545). -/
def State.writeOutput (s : State) (c : Nat) (ws : List (Nat × List Byte)) : State :=
  match s.comp? c with
  | none => s
  | some x =>
    if s.replaying c then s
    else ws.foldl (fun (s : State) w =>
      match s.hostWrite x.fn x.pasid w.1 w.2 with
      | none => (s.logCode (mkCode 0x40600084 0xFF)).failPass c
      | some (s, due) =>
        let d := x.cur.pools.headD 0
        let s := match s.lowestOn c d with
          | some k => (s.meterReeve c d w.2.length).meterKey k (16 * c + 9) w.2.length
          | none => s
        if due then s.dueCodes x.fn [mkCode 0x10D000F5 x.fn] else s) s

/-- The output of a run goes out; a drop is reported once for the pass (R432). -/
def State.emitOutput (s : State) (c : Nat) (speech : List SpeechOut) : State :=
  match s.comp? c with
  | none => s
  | some x =>
    let (v, ws, dropped) := x.serve.emit speech
    let first := dropped && !v.dropped
    let s := s.modServe c fun _ => { v with st := .emit, dropped := v.dropped || dropped }
    let s := if first then s.reportComps (mkCode 0x10F00114 c) [c] else s
    s.writeOutput c ws

/-! ## STAGE_ADVANCE (R416) -/

/-- STAGE_ADVANCE: every drill of the stage has exited on every die, and the next stage begins: ENC after FEAT, DEC after ENC, VOC after DEC
with the tokens and scores that the model's code computed, output after VOC with its samples. -/
def State.stageAdvance (s : State) (c : Nat) (steps : List HypStep) (speech : List SpeechOut) : State :=
  match s.comp? c with
  | none => s
  | some x =>
    let v := x.serve
    if !s.inService ∨ v.failedNow ∨ v.excused ∨ v.restarting ∨ x.context = 0 ∨ !s.stageOver c then s
    else
      match v.st, v.stage with
      | .encode, 0 => s.orWait (s.launchStage c 1 [])
      | .encode, _ =>
        let t := s.modServe c fun v => { v with st := .decode, streams := v.streams.map fun t => if t.admitted then v.consume t else t }
        s.orWait (t.launchStage c 2 [])
      | .decode, _ =>
        let (v', voc) := match s.replayWords c with
          | some ws => v.decodeBy ws steps
          | none => v.decode steps
        s.orWait ((s.modServe c fun _ => { v' with st := .vocode }).launchStage c 3 voc)
      | .vocode, _ => s.emitOutput c speech
      | _, _ => s

/-! ## EMIT_NOTICES (R434, R435) -/

/-- The report of a canary pass in which no recompute ran: none of its slices issued an array instruction (R66); an instruction chosen that
gave no outputs leaves both measures open. -/
def State.canaryDefault (s : State) (c : Nat) (x : Comp) : State :=
  if !s.canaryPass c ∨ x.serve.canaryDone then s
  else
    match s.canaryPlace x with
    | none => s.canaryReport c 0xFF 0xFFFFFF (0, 0)
    | some (k, i) =>
      let (n, s) := s.takeFresh 2
      s.canaryReport c k i (Config.freeWord n, Config.freeWord (n + 1))

/-- EMIT_NOTICES: the output data is at the host, and the notices follow. -/
def State.emitNotices (s : State) (c : Nat) : State :=
  match s.comp? c with
  | none => s
  | some x =>
    let v := x.serve
    if !s.inService ∨ v.st ≠ .emit ∨ v.failedNow ∨ v.excused ∨ v.restarting ∨ s.canaryPending c x then s
    else
      let s := s.canaryDefault c x
      let s := v.notices.foldl (fun (s : State) n =>
        s.notice c 0 n.handle.toNat n.slot n.sub (v.flags + b2n n.drop) n.fin ((s.time.now - n.newest) / 1000) none) s
      s.modServe c fun v => { v with st := .commit, notices := [] }

/-! ## PASS_COMMIT (R415, R417, R427, R430, R436, R437) -/

/-- Read and clear an array counter of a slice. -/
def State.takeCount (s : State) (r : Reg) (d i : Nat) : State × Nat := (s.setReg r d i 0, s.reg r d i)

/-- The events of the composition's slices since the last read join the sums of the next report (R437). -/
def State.takeDeltas (s : State) (c : Nat) (x : Comp) : State :=
  x.cur.slices.foldl (fun (s : State) k =>
    let d := dieOf k
    let i := k % 8
    let (s, a0) := s.takeCount .rlyArrSat d i
    let (s, a1) := s.takeCount .rlyArrUfl d i
    let (s, a2) := s.takeCount .rlyArrNan d i
    let (s, a3) := s.takeCount .rlyArrChk d i
    let (s, a4) := s.takeCount .rlyArrChkskip d i
    s.modServe c fun v => { v with deltas := (v.deltas.zip [a0, a1, a2, a3, a4]).map fun p => p.1 + p.2 }) s

/-- Pages: what a stream holds after COMMIT, at most what it held and reserved; the rest of both returns to its pool (R427). -/
def Serve.settlePages (v : Serve) (pages : List (Nat × Nat)) : Serve :=
  let holds (t : Stream) : Nat :=
    if t.lastPass then 0 else min (t.kept.pages + t.reserved) ((find? pages t.handle.toNat).getD t.kept.pages)
  let back (f : SMap Nat) (d n : Nat) : SMap Nat := setD 0 f d (getD 0 f d + n)
  let ts := v.streams.filter fun t => t.admitted
  let free := ts.foldl (fun f t => back f t.pool (t.kept.pages + t.reserved - holds t)) v.free
  let free := v.returning.foldl (fun f e => back f e.1 e.2) free
  -- what was reserved for streams that are gone
  let kept (d : Nat) : Nat := ((ts.filter fun t => decide (t.pool = d)).map (·.reserved)).sum
  let free := v.reserved.foldl (fun f e => back f e.1 (e.2 - kept e.1)) free
  { v with free := free, returning := [],
           streams := v.streams.map fun t => if t.admitted then { t with work := { t.work with pages := holds t } } else t }

/-- Complete the buffers that a pass filled, or every one of a closing stream. -/
def State.finishBufs (s : State) (c : Nat) : State :=
  match s.comp? c with
  | none => s
  | some x =>
    let fin := x.serve.streams.flatMap fun t => t.bufs.filter fun b => b.full
    let keep (l : List OutBuf) : List OutBuf := l.filter fun b => !b.full
    let trim (w : StreamState) : StreamState := { w with slots := mapVals (fun _ l => { l with textBufs := keep l.textBufs, speechBufs := keep l.speechBufs }) w.slots }
    let s := s.modServe c fun v => { v with streams := v.streams.map fun t => t.both trim }
    fin.foldl (fun (s : State) b => s.complete b.entry 0 b.filled) s

/-- Streams that take part in a pass. -/
def Serve.activeCount (v : Serve) : Nat := (v.streams.filter fun t => t.admitted).length

/-- A pass report's record; `active`: the pass's streams, those that close with it among them (Table 15-8). -/
def Serve.report_ (v : Serve) (active now : Nat) : List DWord :=
  let w (n : Nat) : DWord := BitVec.ofNat 64 n
  let h (n : Nat) : Nat := min n 0xFFFF
  let d (n : Nat) : Nat := min n 0xFFFFFFFF
  let x (i : Nat) : Nat := v.deltas.getD i 0
  [w v.pass, w (v.s0 + v.pass * v.passLen), w v.gatherAt, w now,
    w (h active * 2 ^ 48 + h v.stepped * 2 ^ 32 + h v.admitted * 2 ^ 16 + h v.deferred),
    w (d ((v.reserved.map (·.2)).sum) * 2 ^ 32 + d ((v.free.map (·.2)).sum)),
    w (d (x 0) * 2 ^ 32 + d (x 1)), w (h (x 2) * 2 ^ 48 + h (x 3) * 2 ^ 32 + h (x 4) * 2 ^ 16 + h v.refused)]

/-- The report of a pass, when one is due (R436). -/
def State.passReport (s : State) (c active : Nat) : State :=
  match s.comp? c with
  | none => s
  | some x =>
    let v := x.serve
    if v.report = 0 ∨ (v.pass + 1) % v.report ≠ 0 then s
    else
      let s := s.notice c 0 0 31 2 v.flags 0 0 (some (v.report_ active s.time.now))
      s.modServe c fun v => { v with deltas := [0, 0, 0, 0, 0], refused := 0 }

/-- The payload of a TYPE 0x05 record (Table 20-5). -/
def Serve.decisions (v : Serve) (now : Nat) : List Byte :=
  let h (n : Nat) : Nat := min n 0xFFFF
  natLe 8 v.pass ++ natLe 8 v.gatherAt ++ natLe 8 now ++
    natLe 8 (h v.admitted * 2 ^ 48 + h v.deferred * 2 ^ 32 + h v.ended * 2 ^ 16 + h v.hypWords.length) ++ dwordBytes v.hypWords

/-- Under replay a pass's decisions are compared with its TYPE 0x05 record, and every completion recorded before it has been met (R546). -/
def State.replayDecide (s : State) (c : Nat) (v : Serve) : State :=
  match find? s.tst.replays c, s.replayPass c with
  | some r, some x =>
    let early := (r.records.takeWhile fun y => decide (y ≠ x)).find? fun y => decide (recType y = 2)
    let mine := v.decisions 0
    let same := decide ((x.drop 16).take 8 = mine.take 8) && decide ((x.drop 40).take (recLen x - 24) = mine.drop 24)
    let d := match early with
      | some y => some (recSeq y)
      | none => if same then none else some (recSeq x)
    let r' := { r with records := (r.records.dropWhile fun y => decide (y ≠ x)).drop 1, diverged := r.diverged <|> d }
    { s with tst := { s.tst with replays := insert s.tst.replays c r' } }
  | _, _ => s

/-- A pass that commits after the next nominal start overran: counted, and the first of a run is reported (R415). -/
def State.noteOverrun (s : State) (c : Nat) : State :=
  match s.comp? c with
  | none => s
  | some x =>
    let excess := decide (x.serve.nominal (x.serve.pass + 1) < s.time.now)
    let s := if excess then s.count .yokServeOverrun 0 c 1 else s
    let s := if excess ∧ !x.serve.overrun then s.reportComps (mkCode 0x10F00110 c) [c] else s
    s.modServe c fun v => { v with overrun := excess }

/-- Streams that end with the pass: a join not admitted by its close is aborted, a closed stream sends its notice (R425, R430, R436). -/
def State.closeStreams (s : State) (c : Nat) : State :=
  match s.comp? c with
  | none => s
  | some x =>
    (x.serve.streams.filter fun t => t.lastPass).foldl (fun (s : State) t =>
      if t.admitted then (s.streamStatus c t.handle 0).dropStream c t 0
      else (s.complete t.openEntry 4).dropStream c t 4) s

/-- PASS_COMMIT: the written versions become current, pages return, commands complete, the pass is counted, and the boundary follows. -/
def State.passCommit (s : State) (c : Nat) (pages : List (Nat × Nat)) : State :=
  match s.comp? c with
  | none => s
  | some x =>
    if !s.inService ∨ x.serve.st ≠ .commit ∨ x.serve.failedNow ∨ x.serve.excused ∨ x.serve.restarting then s
    else
      let s := s.accountComp c
      let s := s.modServe c fun v =>
        let v := v.settlePages pages
        { v with streams := v.streams.map fun t => { t with kept := t.work } }
      let s := (s.closeStreams c).finishBufs c
      let done := (((s.comp? c).map fun y => y.serve.pendFrames.filter fun f => f.gathered)).getD []
      let s := s.modServe c fun v => { v with pendFrames := v.pendFrames.filter fun f => !f.gathered }
      let s := done.foldl (fun (s : State) f => s.complete f.entry 0) s
      let s := (s.takeDeltas c x).passReport c x.serve.activeCount
      let s := s.noteOverrun c
      let s := match s.lowestOn c (x.cur.pools.headD 0) with
        | some k => s.meterKey k (16 * c + 10) 1
        | none => s
      let s := match s.comp? c with
        | some y => (s.record c 5 (y.serve.decisions s.time.now)).replayDecide c y.serve
        | none => s
      let s := s.endLoans c
      let s := s.modServe c fun v =>
        { v with st := .wait, pass := v.pass + 1, asking := false, rerun := false, chk := false, poison := false, lists := [], reserved := [],
                 failures := 0, streams := v.streams.map fun t => { t with reserved := 0, restart := false, lastPass := false } }
      s.boundary c

/-! ## PASS_ROLLBACK (R417, R484) -/

/-- Streams that met poison are reinitialised, each with a notice of STATUS 0x1C. -/
def State.restartStreams (s : State) (c : Nat) : State :=
  match s.comp? c with
  | none => s
  | some x =>
    let s := s.modServe c fun v =>
      { v with streams := v.streams.map fun t => if t.restart ∧ t.admitted then t.both t.fresh else t }
    (x.serve.streams.filter fun t => t.restart && t.admitted).foldl (fun (s : State) t => s.streamStatus c t.handle 0x1C) s

/-- PASS_ROLLBACK: a failed run is over on every die; the written versions are discarded and FEAT is launched again, or a second failure of the
pass ends the loop in FAILED. -/
def State.passRollback (s : State) (c : Nat) : State :=
  match s.comp? c with
  | none => s
  | some x =>
    let v := x.serve
    let due := v.failedNow || v.excused || decide (v.st = .rollback)
    let q := s.fn x.fn
    if !s.inService ∨ !v.st.inPass ∨ !due ∨ v.restarting ∨ !s.stageOver c then s
    else if v.failedNow ∧ 1 ≤ v.failures then s.serveFail c (mkCode 0x40F00112 c)
    else if x.context = 0 ∨ q.quiesced then s
    else
      let t := s.modServe c fun v =>
        { v with st := .encode, failures := v.failures + b2n v.failedNow, failedNow := false, excused := false, rerun := true, chk := false,
                 poison := false, canaryDone := false, notices := [], hypWords := [], stepped := 0, streams := v.streams.map fun t => { t with work := t.kept } }
      let t := (t.restartStreams c).recordMark c 2
      let t := t.armCanary x
      s.orWait (t.launchStage c 0 [])

end Sys2Proof.Machine
end

