-- ==== Sys2Proof/Machine/Recovery.lean ====
section
/-! DEFINITION. The steps of a partition reset and the return to service (R498, R499, R535-R537), the restart of a composition (R507, R509), the end of a refetch (R486-R490). -/

namespace Sys2Proof.Machine

open Sys2Proof

/-! ## Pages of read-only regions -/

/-- The bytes of a page, if no sector of it is poisoned (R486). -/
def State.soundPage (s : State) (page : Nat) : Option (List Byte) :=
  let ns := pageSectors page
  if ns.any fun n => s.sectorPoisoned n then none
  else some (ns.flatMap fun n =>
    match s.gsec? n with
    | some g => sectorBytes g.data 0 256
    | none => sectorBytes (s.dramSector n).1 0 256)

/-- What a page of a refetchable region held: its replica's page if sound, else GOLDEN under the PASID of the owning composition (R486). -/
def State.pageSource (s : State) (c : Nat) (r : Region) (off : Nat) : Option (List Byte) :=
  let base := off / 4096 * 4096
  match (s.replicaPage c r base).bind fun p => s.soundPage (p / 4096) with
  | some bs => some bs
  | none => if r.golden = 0 then none else s.hostRead (s.compPasid c) (r.golden + base) 4096

/-- Read a page's source: a golden copy comes from the host. -/
def State.fetchPage (s : State) (c : Nat) (r : Region) (off : Nat) : Option (State × List Byte) :=
  let base := off / 4096 * 4096
  (s.pageSource c r off).map fun bs =>
    (if ((s.replicaPage c r base).bind fun p => s.soundPage (p / 4096)).isSome then s else s.hostSend false (s.compPasid c) (r.golden + base) 4096, bs)

/-- Write sectors of a page in turn, each whole, which clears its poison (R299); the sector that has to wait, if any. -/
def State.putSectors (s : State) (page : Nat) (bs : List Byte) (w : Waiter) : List Nat → State × Option Nat
  | [] => (s, none)
  | n :: ns =>
    match s.ncWrite n 0 ((bs.drop (256 * (n - 16 * page))).take 256) .write false 0 (ownerSlice n) false w with
    | some s => State.putSectors s page bs w ns
    | none => (s, some n)

/-- Write a whole page. -/
def State.putPage (s : State) (page : Nat) (bs : List Byte) (w : Waiter) : State × Option Nat := s.putSectors page bs w (pageSectors page)

/-! ## REFETCH_COMPLETE and REFETCH_TIMEOUT (R486-R490) -/

/-- The page's waiting readers may go on. -/
def State.dropRefetch (s : State) (page : Nat) : State :=
  s.modDie (dieOfDpa (4096 * page)) fun x => { x with refetch := erase x.refetch page }

/-- A LOAD that the reeve received before the refetch is still under way to its page (R490). -/
def State.loadFirst (s : State) (r : Refetch) : Bool :=
  r.after.any fun e => (s.die e.1).reeveXfers.any fun x => decide (x.token = e.2)

/-- REFETCH_COMPLETE: the reeve writes the page from its source and releases the readers. A source that cannot be read is REFETCH_TIMEOUT's. -/
def execRefetchComplete (page : Nat) (s : State) : Host.Outcome State Fault Refusal :=
  .next (
    let d := dieOfDpa (4096 * page)
    if !s.inService ∨ !s.dieUp d then s
    else
      match find? (s.die d).refetch page, s.refetchRegion (4096 * page) with
      | some rf, some (c, r, off) =>
        if s.loadFirst rf then s
        else
          match s.fetchPage c r off with
          | none => s
          | some (s, bs) =>
            match s.putPage page bs (.page page) with
            | (s, some n) => s.holdOnly n (.page page)
            | (s, none) =>
              let s := (s.count .rlyWpageRefetch 0 0 1).dropRefetch page
              { s with rel := { s.rel with hay := { s.rel.hay with
                grace := (s.mappers c r).foldl (fun g k => insert g k (s.time.now + 50000000)) s.rel.hay.grace } } }
      | _, _ => s)

/-- The drills parked by poison in a page, whose records the reeve has. -/
def State.parkedOn (s : State) (page : Nat) : List DrillRef :=
  s.cores.flatMap fun c => c.2.drills.filterMap fun e =>
    match e.2.status with
    | .parked t =>
      if t.trap = .poisoned ∧ (s.poisonPage e.2 t).any fun y => pageOf y.dpa = page then some ⟨c.1, e.1 / 8, e.1 % 8⟩ else none
    | _ => none

/-- REFETCH_TIMEOUT: 40 ms without the page, or a source that cannot be read, ends the refetch; the page stays poisoned and its parked drills are
killed. The paused transfers then meet the poison. -/
def execRefetchTimeout (page : Nat) (sourceFailed : Bool) (s : State) : Host.Outcome State Fault Refusal :=
  .next (
    let d := dieOfDpa (4096 * page)
    match find? (s.die d).refetch page, s.refetchRegion (4096 * page) with
    | some rf, some (c, r, off) =>
      if !s.inService ∨ !s.dieUp d then s
      else if s.time.now < rf.began + 40000000 ∧ !sourceFailed ∧ (s.pageSource c r off).isSome then s
      else
        let ms := s.mappers c r
        let ds := s.parkedOn page
        let s := ((s.dropRefetch page).count .rlyWpageFail 0 0 1).reportComps (mkCode 0x41200171 d) ms
        ds.foldl (fun (s : State) e => s.endParking e none .kill fun t x k => t.killDrill e x k) s
    | some _, none => s.dropRefetch page
    | none, _ => s)

/-! ## PARTITION_RESET_STEP_DONE (R498, R499) -/

/-- The domains that logic BIST tests: 0-10, 12 and 14 (R535). -/
def testedDomains : BitVec 15 := 0x57FF

/-- The first test of a cycle that failed, by its code (R537, Table 20-4). -/
def testCode (r : ResetResult) (dram : Bool) : Option Nat :=
  if r.sigBad &&& testedDomains ≠ 0 then some 0x814001A0
  else if r.sramFail.isSome then some 0x814001A1
  else if dram && r.dramFail.isSome then some 0x814001A2
  else none

/-- TST_BIST_STATUS and the registers of the results (Table 20-6). -/
def Die.takeTests (x : Die) (r : ResetResult) (dram : Bool) : Die :=
  let bad := r.sigBad &&& testedDomains
  let st := 2 ^ 31 + b2n (decide (bad ≠ 0)) * 2 ^ 29 + b2n r.sramFail.isSome * 2 ^ 28 + b2n (dram && r.dramFail.isSome) * 2 ^ 27 + bad.toNat
  { x with bistStatus := BitVec.ofNat 32 st, sramFailReg := r.sramFail.getD 0, dramFailReg := if dram then r.dramFail.getD 0 else 0,
           sigs := (upto 15).filterMap fun i => if bit testedDomains i then some (i, ((r.sigs.find? fun e => decide (e.1 = i)).map (·.2)).getD 0) else none }

/-- A port whose three agreements failed goes down until the next start-up (R316). -/
def State.portDown (s : State) (p : PortRef) : State :=
  (s.setHport p { (s.hport p).begin with st := .down, fails := 3 }).reportNode p.node (0x20B000D4 + p.port)

/-- Step 6: a port of the die and its partner train together, with the groups that pass at both ends; a partner that is itself under reset or out of
service answers nothing, and the port waits for it (R316). -/
def State.trainPort (s : State) (d q : Nat) (mask : Byte) : State :=
  let p : PortRef := { node := d, port := q }
  match s.partner d q with
  | none => s
  | some o =>
    let up := decide (24 ≤ o.node) || s.dieUp o.node
    let m := mask &&& roleGroups (s.portRole p) 1 &&& roleGroups (s.portRole o) 1
    if roleGroups (s.portRole p) 1 = 0 ∨ !up ∨ (s.hport p).st ≠ .training ∨ (s.hport o).st ≠ .training then s
    else if m = 0 then (s.portDown p).portDown o
    else
      let l (s : State) (e : PortRef) : State := s.setHport e { s.hport e with localMask := m }
      ((l (l s p) o).activate p m).activate o m

/-- The registers whose values the die takes from headland A's copy at step 7 (R557, R560). -/
def State.reloadDie (s : State) (d : Nat) : State :=
  s.modDie d fun x =>
    { x with eccThr := s.reg .memEccThr d 0, scrubPer := s.reg .memScrubCfg d 0 % 256,
             ports := mapVals (fun _ p => { p with thr := s.reg .hdgReplayThr d 0 }) x.ports }

/-- Back in service: the image runs, the stack is initialised, the slices are free (R296, R498, R537). -/
def State.returnDie (s : State) (d : Nat) (run : ResetRun) : State :=
  let s := s.modDie d fun x =>
    let x := { x with part := .inService, run := none, step := 0, gov := 0 }
    match run.update, s.sec.pending with
    | true, some b => { x with image := b.cdDigest, imageVer := b.cdVersion }
    | _, _ => x
  let s := ((s.initStack d).reloadDie d).recomputeRoutes
  let s := s.reportDie d (if run.bist.isSome then mkCode 0x114001A3 d else mkCode 0x11200152 d)
  let grace := (s.compsOnDie d).foldl (fun g k => insert g k (s.time.now + 50000000)) s.rel.hay.grace
  ({ s with rel := { s.rel with hay := { s.rel.hay with grace := grace } } }).settleTests d true

/-- PARTITION_RESET_STEP_DONE: the step in progress of Table 18-5 ends. A failed training, isolation, image or test keeps the die out of service. -/
def execPartitionResetStepDone (d : Nat) (r : ResetResult) (s : State) : Host.Outcome State Fault Refusal :=
  .next (
    let x := s.die d
    match x.run with
    | none => s
    | some run =>
      if !s.inService ∨ x.part ≠ .resetting then s
      else
        let next (s : State) : State := s.modDie d fun y => { y with run := some { run with step := run.step + 1 } }
        match run.step with
        | 4 =>
          match run.bist with
          | none => next s
          | some (_, dram) =>
            let s := s.setDie d (x.takeTests r dram)
            match testCode r dram with
            | some base => s.leaveService d (mkCode base d)
            | none => next s
        | 5 => if r.trainOk then next ((s.modDie d fun y => { y with stackOff := false, spares := r.spareUsed }).trainStack d) else s.leaveService d (mkCode 0x80A000C5 d)
        | 6 =>
          let s := (upto 4).foldl (fun (s : State) q => s.trainPort d q ((find? r.lanesPass q).getD 0)) s
          let t := (s.modDie d fun y => { y with part := .inService }).newRoutes
          if t.isolated d then s.leaveService d (mkCode 0x80B000DD d) else next s
        | 7 =>
          if r.imageOk then s.returnDie d run
          else
            let c := mkCode 0x81300193 d
            ({ s with sec := { s.sec with code := c } }).leaveService d c
        | _ => next s)

/-! ## RESTART_RESUME (R507, R509) -/

/-- The pages of composition `c`'s own read-only regions that lay on lost dies: region, offset, page. -/
def Comp.lostPages (x : Comp) : List (Region × (Nat × Nat)) :=
  x.cur.regions.flatMap fun r =>
    if r.shared ∨ !r.ro then []
    else (upto (r.size / 4096)).filterMap fun i =>
      let p := setPlace (x.cur.set r.set) (r.offset + 4096 * i)
      if x.lost.contains (dieOfDpa p) then some (r, 4096 * i, p / 4096) else none

/-- Refill every lost page, or those before one whose sector has to wait: none where a page has no source that can be read. -/
def State.refill (s : State) (c : Nat) : List (Region × (Nat × Nat)) → Option (State × Option Nat)
  | [] => some (s, none)
  | (r, off, page) :: ps =>
    match s.fetchPage c r off with
    | none => none
    | some (s, bs) =>
      match s.putPage page bs .reeve with
      | (s, some n) => some (s, some n)
      | (s, none) => State.refill s c ps

/-- The streams whose state record or KV pages the restart has lost: all of them where the KV page region lies on a lost die; for a sector that the
sweep left poisoned, the one that the model's code had there, a free choice (R274, R412, R507). -/
def State.restartHit (s : State) (c : Nat) : State :=
  match s.comp? c with
  | none => s
  | some x =>
    let v := x.serve
    match x.cur.region? v.kvbase with
    | none => s
    | some r =>
      let lost := (x.cur.set r.set).any fun ch => x.lost.contains (ch / 16)
      let ts := v.streams.filter fun t => t.admitted
      if lost then s.modServe c fun v => { v with streams := v.streams.map fun t => if t.admitted then { t with restart := true } else t }
      else
        let bad := (upto (v.kvsize / 256)).filter fun i =>
          s.sectorPoisoned (setPlace (x.cur.set r.set) (r.offset + (v.kvbase - r.vbase) + 256 * i) / 256)
        bad.foldl (fun (s : State) _ =>
          let (n, s) := s.takeFresh 1
          let hit := (ts[Config.freeNat n % ts.length]?).map (·.handle)
          s.modServe c fun v => { v with streams := v.streams.map fun t => if some t.handle = hit then { t with restart := true } else t }) s

/-- RESTART_RESUME: once every partition of the composition is in service, the restart assigns a context, refills the lost read-only pages and lets the
loop roll back; it fails when a partition has left service or a page has no source. -/
def execRestartResume (c : Nat) (s : State) : Host.Outcome State Fault Refusal :=
  .next (
    match s.comp? c with
    | none => s
    | some x =>
      let busy := decide (x.context ≠ 0) || x.unbinding || s.yoke.teardowns.any fun e => decide (e.2.comp = c)
      let pages := x.lostPages
      if !s.inService ∨ !x.serve.restarting ∨ busy then s
      else if x.cur.slices.any (fun k => decide ((s.die (dieOf k)).part = .outOfService)) ∨
          pages.any (fun p => decide (p.1.golden = 0) && decide (p.1.replica = 0)) then
        (s.assignContext c).serveFail c (mkCode 0x41200161 c)
      else if !(x.cur.slices.all fun k => s.dieUp (dieOf k)) then s
      else
        match s.refill c pages with
        | none => (s.assignContext c).serveFail c (mkCode 0x41200161 c)
        | some (t, some n) => t.nudge n .reeve
        | some (t, none) =>
          let t := t.assignContext c
          let t := if x.serve.st.inPass ∨ x.serve.st = .wait then t.restartHit c else t
          let t := t.modComp c fun y => { y with lost := [], serve := { y.serve with restarting := false } }
          if x.serve.st.inPass then t.modServe c fun v => { v with st := .rollback, failedNow := false, excused := false }
          else
            (t.restartStreams c).modServe c fun v => { v with streams := v.streams.map fun t => { t with restart := false } })

end Sys2Proof.Machine
end

