-- ==== Sys2Proof/Machine/Power.lean ====
section
/-! DEFINITION. Power and thermal control: the module's shutdown, the governor, the fast limit, temperature samples (R39, R462-R473, R571, R572). -/

namespace Sys2Proof.Machine

open Sys2Proof

/-! ## Shutdown (R39, R464, R571, R572) -/

/-- The port-map record that a loss of power leaves: the newest one, or the one before while the newest may not be stored yet: which is free (R559). -/
def State.mapLeft (s : State) : Word :=
  match s.mapUnstored with
  | some old => if Config.freeNat s.fresh % 2 = 0 then s.nv.portMap else old
  | none => s.nv.portMap

/-- The module shuts down: what silicon held is gone; flash and fuses, the host's memory and the queue of commands remain. PWRGD and
SHDN_ALERT# are low, and the converters wait for a new cycle of ENABLE. -/
def State.powerOff (s : State) (code : Code) : State :=
  { State.reset with
    pending := s.pending
    nv := { s.nv with lastShutdown := code, portMap := s.mapLeft }
    mem := { State.reset.mem with host := s.mem.host, denied := s.mem.denied }
    host := { State.reset.host with outs := s.host.outs }
    link := { State.reset.link with eth := s.link.eth }
    mod := { Module.reset with enable := s.mod.enable, inputMv := s.mod.inputMv, perst := s.mod.perst, partner := s.mod.partner, conv := .blocked }
    fresh := s.fresh + 1 }

/-! ## The governor (R465, R466, R468, R470) -/

/-- PWR_FMAX, PWR_MARGIN and the effective cap (R465). -/
def State.fmax (s : State) (d : Nat) : Nat := s.reg .pwrFmax d 0 % 16
def State.capNow (s : State) : Nat :=
  let bmc := s.reg .pwrCapBmc 0 0 % 2048
  if s.start.done then min (s.reg .pwrCapHost 0 0 % 2048) bmc else bmc

/-- Dies whose steps the governor sets: from start-up step 8 on, those in service. -/
def State.governed (s : State) : List Nat := if 8 ≤ s.start.step then (upto 24).filter fun d => s.dieUp d else []

/-- Lower the clocks: one step on every die above step 0 whose estimate is at least 90 % of the highest of them; with all at step 0, DUTY. -/
def State.governDown (s : State) : State :=
  let ds := s.governed
  let high := ds.filter fun d => decide (0 < (s.die d).gov)
  if high.isEmpty then ds.foldl (fun (s : State) d => s.modDie d fun x => { x with duty := max 1 (x.duty - 1) }) s
  else
    let top := high.foldl (fun m d => max m (s.die d).est) 0
    (high.filter fun d => decide (9 * top ≤ 10 * (s.die d).est)).foldl (fun (s : State) d => s.modDie d fun x => { x with gov := x.gov - 1 }) s

/-- The die with the lowest governor step among those whose ceiling and PWR_FMAX allow a step more; the lowest die on a tie. -/
def State.raisable (s : State) : List Nat → Option Nat
  | [] => none
  | d :: ds =>
    let x := s.die d
    let here := decide (x.gov < 8) && decide (x.gov < x.ceil) && decide (x.gov < s.fmax d)
    match s.raisable ds with
    | none => if here then some d else none
    | some e => if here && decide (x.gov ≤ (s.die e).gov) then some d else some e

/-- Raise the clocks: DUTY where it is below 16/16, else one die's step. -/
def State.governUp (s : State) : State :=
  let low := s.governed.filter fun d => decide ((s.die d).duty < 16)
  if !low.isEmpty then low.foldl (fun (s : State) d => s.modDie d fun x => { x with duty := x.duty + 1 }) s
  else
    match s.raisable s.governed with
    | some d => s.modDie d fun x => { x with gov := x.gov + 1 }
    | none => s

/-- One tick of the thermal rules on a die (Table 17-6). -/
def State.thermalTick (s : State) (d : Nat) : State :=
  let x := s.die d
  let hotNow := decide (100 ≤ x.td) || x.throttle
  let cool := decide (x.td < 97) && decide (x.ts < 97)
  let y := if hotNow then
      { x with ceil := x.ceil - 1, duty := if x.ceil = 0 ∧ 100 ≤ x.td then max 1 (x.duty - 1) else x.duty, coolTicks := 0 }
    else if cool then
      (if 99 ≤ x.coolTicks then { x with ceil := min 8 (x.ceil + 1), coolTicks := 0 } else { x with coolTicks := x.coolTicks + 1 })
    else { x with coolTicks := 0 }
  let y := { y with hot := if hotNow then true else if x.td < 97 then false else x.hot }
  let s := s.setDie d y
  let s := if y.ceil < y.gov then s.count .pwrThrottle d 0 1 else s
  if hotNow && !x.hot then s.reportDie d (mkCode 0x11100130 d) else s

/-- The step in force moves by at most one a tick towards the lowest of governor step, ceiling and PWR_FMAX (R470, R473). -/
def State.stepTick (s : State) (d : Nat) : State :=
  let x := s.die d
  let goal := min (min x.gov x.ceil) (s.fmax d)
  if x.step = goal then s
  else (s.modDie d fun x => { x with step := if x.step < goal then x.step + 1 else x.step - 1 }).count .pwrStepChg d 0 1

/-- The first tick that leaves a die below 16/16 is reported; none follows until every die is back (R468). -/
def State.reportDuty (s : State) : State :=
  let low := s.governed.any fun d => decide ((s.die d).duty < 16)
  let first := low && !s.pwr.dutyReported
  let s := { s with pwr := { s.pwr with dutyReported := low } }
  if first then s.reportPF 0x111FF134 else s

/-- GOVERNOR_TICK: input voltage in 10 mV units, input power averaged over the last 1 ms, each die's own estimate in 0.1 W. -/
def execGovernorTick (volt10mV watts : Nat) (est : List (Nat × Nat)) (s : State) : Host.Outcome State Fault Refusal :=
  .next (
    if !s.mod.pwrgd ∨ s.start.failed then s
    else
      let c := s.capNow
      let s := { s with pwr := { s.pwr with inputW := watts, volt10 := volt10mV } }
      let s := s.setReg .pwrCapEff 0 0 c
      let s := est.foldl (fun (s : State) e => if s.governed.contains e.1 then s.modDie e.1 fun x => { x with est := e.2 } else s) s
      let s := if c < watts then s.governDown
        else if watts + 2 * (s.reg .pwrMargin 0 0 % 256) < c then s.governUp
        else s
      let s := s.governed.foldl (fun (s : State) d => (s.thermalTick d).stepTick d) s
      s.reportDuty)

/-- FAST_LIMIT: the input has stood above 1.15 × the effective cap for 20 µs: every die sets DUTY to 8/16 (R467). -/
def execFastLimit (watts us : Nat) (s : State) : Host.Outcome State Fault Refusal :=
  .next (
    if !s.mod.pwrgd ∨ s.start.failed ∨ us < 20 ∨ 100 * watts ≤ 115 * (s.reg .pwrCapEff 0 0 % 2048) then s
    else (s.governed.foldl (fun (s : State) d => s.modDie d fun x => { x with duty := 8 }) s).count .pwrFast 0 0 1)

/-! ## Temperatures (R472, R473) -/

/-- DIE_TEMP_SAMPLE: Td is the highest of the nine logic sensors; one that cannot be read counts as 100 °C and is reported once; 115 °C resets the
partition. -/
def execDieTempSample (die : Nat) (temps : List (Option Nat)) (s : State) : Host.Outcome State Fault Refusal :=
  .next (
    if !s.sampling ∨ 24 ≤ die ∨ temps.length ≠ 9 ∨ (s.die die).part = .outOfService then s
    else
      let td := (temps.map fun t => t.getD 100).foldl max 0
      let bad := (upto 9).filter fun i => (temps.getD i none).isNone && !(s.die die).sensorBad.contains i
      let s := s.modDie die fun x => { x with td := td, sensorBad := x.sensorBad ++ bad }
      let s := s.setReg .pwrDieTpeak die 0 (max (s.reg .pwrDieTpeak die 0) (min 255 td))
      let s := bad.foldl (fun (s : State) _ => s.reportDie die (mkCode 0x11100132 die)) s
      if 115 ≤ td then s.startReset die (mkCode 0x81100131 die) else s)

/-- HEADLAND_TEMP_SAMPLE: Th is the highest of a headland's four sensors: reported from 105 °C, once until it is below 100 °C; 115 °C shuts the
module down. -/
def execHeadlandTempSample (headland : Nat) (temps : List Nat) (s : State) : Host.Outcome State Fault Refusal :=
  .next (
    if !s.mod.pwrgd ∨ 2 ≤ headland ∨ temps.length ≠ 4 then s
    else
      let th := temps.foldl max 0
      let site := 0xFA + headland
      if 115 ≤ th then s.powerOff (mkCode 0xE1100137 site)
      else
        let told := s.pwr.thHot.contains headland
        let hot := if 105 ≤ th then addOnce headland s.pwr.thHot
          else if th < 100 then s.pwr.thHot.filter (fun h => decide (h ≠ headland)) else s.pwr.thHot
        let s := { s with pwr := { s.pwr with th := setD 0 s.pwr.th headland th, thHot := hot } }
        if 105 ≤ th ∧ !told then s.reportPF (mkCode 0x21100136 site) else s)

end Sys2Proof.Machine
end

