-- ==== Sys2Proof/Machine/Security.lean ====
section
/-! DEFINITION. The root of trust: firmware bundles and updates, anti-rollback, attestation, signed debug unlock (R513-R533). -/

namespace Sys2Proof.Machine

open Sys2Proof

/-! ## Firmware bundles (R515-R519) -/

/-- Bytes of a firmware bank (R515). -/
def bankBytes : Nat := 0x8000000

/-- A leaf certificate of 7,221 bytes is valid for a use: the root key, which the fused digest confirms, signed it, its USE matches and its index is
not revoked (R515, R516). -/
def NonVol.leafOk (v : NonVol) (cert : List Byte) (use : Nat) (revoked : Half) : Bool :=
  let root := readBytes v.rootKey 0 2592
  let w := leNat (cert.take 2)
  decide (Config.sha3 root = v.rootDig) && Config.mldsaVerify root (cert.take 2594) ((cert.drop 2594).take 4627) &&
    decide (w / 2 ^ 12 = use) && !bit revoked (w % 16)

/-- The leaf key of a certificate. -/
def leafKey (cert : List Byte) : List Byte := (cert.drop 2).take 2592

/-- An entry of a manifest (Table 19-2). -/
structure ImageEntry where
  type : Nat
  version : Nat
  offset : Nat
  len : Nat
  digest : BitVec 512
  deriving DecidableEq, Repr

def leAt (m : Memory) (a n : Nat) : Nat := leNat (readBytes m a n)

def imageEntry (m : Memory) (k : Nat) : ImageEntry :=
  let b := 64 + 96 * k
  { type := leAt m b 1, version := leAt m (b + 2) 2, offset := leAt m (b + 4) 4, len := leAt m (b + 8) 4, digest := BitVec.ofNat 512 (leAt m (b + 32) 64) }

def imageEntries (m : Memory) : List ImageEntry := (upto 4).map fun k => imageEntry m k
def imageOf (m : Memory) (type : Nat) : Option ImageEntry := (imageEntries m).find? fun e => decide (e.type = type)

/-- The longest image of a type (R519). -/
def imageLimit (type : Nat) : Nat := if type = 1 then 0x3000000 else if type = 2 then 0x2000000 else if type = 3 then 0x1000000 else 0x100000

/-- An image's bytes have the digest of its entry. -/
def digestOk (m : Memory) (e : ImageEntry) : Bool := decide (Config.sha3 (readBytes m e.offset e.len) = e.digest)

/-- Security versions of a bundle. -/
def hlSvn (m : Memory) : Nat := leAt m 4 1
def cdSvn (m : Memory) : Nat := leAt m 5 1

/-- R519 but for the security versions: the certificate and signature, the four types, the places and lengths of the images, the class, and the
headland A image's digest. -/
def NonVol.bundleOk (v : NonVol) (m : Memory) : Bool :=
  let cert := readBytes m 448 7221
  let es := imageEntries m
  v.leafOk cert 1 v.fwRevoke && Config.mldsaVerify (leafKey cert) (readBytes m 0 448) (readBytes m 7669 4627) &&
    ([1, 2, 3, 4].all fun t => decide ((es.filter fun e => decide (e.type = t)).length = 1)) &&
    (es.all fun e => decide (e.offset + e.len ≤ bankBytes) && decide (e.len ≤ imageLimit e.type)) &&
    ((upto 4).any fun i => decide (leAt m (8 + i) 1 = v.hlaClass.toNat) && decide (v.hlaClass ≠ 0xFF)) &&
    (imageOf m 1).any fun e => digestOk m e

/-- The security versions are at least the fused minima. -/
def NonVol.svnOk (v : NonVol) (m : Memory) : Bool := decide (v.hlSvnMin ≤ hlSvn m) && decide (v.cdSvnMin ≤ cdSvn m)

def NonVol.bank (v : NonVol) (b : Bool) : Memory := if b then v.bank1 else v.bank0
def NonVol.setBank (v : NonVol) (b : Bool) (m : Memory) : NonVol := if b then { v with bank1 := m } else { v with bank0 := m }

/-- A bank's bundle: DM is the digest of the manifest through its signature (R517). -/
def bundleOf (m : Memory) : Bundle :=
  let ver (t : Nat) : Half := BitVec.ofNat 16 (((imageOf m t).map (·.version)).getD 0)
  let cd := ((imageOf m 3).map (·.digest)).getD 0
  let er := ((imageOf m 4).map fun e => readBytes m e.offset e.len).getD []
  { dm := Config.sha3 (readBytes m 0 12296), hlSvn := hlSvn m, cdSvn := cdSvn m, iface := BitVec.ofNat 16 (leAt m 6 2), hlaVersion := ver 1,
    cdVersion := ver 3, cdDigest := cd, steppings := Config.errataSteppings er }

/-! ## Security commands (Table 19-3) -/

/-- A security command: on the admin queue, of the PF unless `vf`. -/
def State.secCommand (s : State) (e : EntryRef) (op : Nat) (vf : Bool) (body : Entry → State → State) : State :=
  s.command e op (some true) fun x s => if e.fn ≠ 0 ∧ !vf then s.complete e 2 else body x s

/-- Report a code of Table 19-6 on the PF admin CQ; the latest stands in SEC_CODE. -/
def State.secReport (s : State) (c : Code) : State := ({ s with sec := { s.sec with code := c } }).reportPF c

/-- FW_STAGE: the inactive bank is erased and written, and becomes pending once the bundle is accepted and every image has its digest (R522). -/
def execFwStage (e : EntryRef) (s : State) : Host.Outcome State Fault Refusal :=
  .next (s.secCommand e 0x10 false fun x s =>
    let n := (x.word 3).toNat
    if n = 0 ∨ bankBytes < n ∨ !x.zeroFrom 4 then s.complete e 1
    else if s.sec.applying.isSome then s.complete e 3
    else
      match s.hostFetch (s.adminPasid e.fn) (x.word 2).toNat n with
      | none => s.complete e 5
      | some (s, bs) =>
        let b := !s.nv.activeBank
        let m := writeBytes [] 0 bs
        let s := { s with nv := s.nv.setBank b m, sec := { s.sec with pending := none, pendBank := b } }
        if !s.nv.bundleOk m ∨ !(imageEntries m).all (fun i => digestOk m i) then s.complete e 0x10
        else if !s.nv.svnOk m then s.complete e 0x11
        else ({ s with sec := { s.sec with pending := some (bundleOf m) } }).complete e 0)

/-- A die in a mask. -/
def diesOf (w : DWord) : List Nat := (upto 24).filter fun d => bit w d

/-- A slice of the die is bound or lent. -/
def State.dieHeld (s : State) (d : Nat) : Bool := (slicesOf d).any fun k => (s.owner? k).isSome || decide ((s.core k).loan ≠ .none_)

/-- FW_APPLY: the listed partitions reset and load the pending image (R523). A die not in service is answered as R502 answers commands that name its
slices. -/
def execFwApply (e : EntryRef) (s : State) : Host.Outcome State Fault Refusal :=
  .next (s.secCommand e 0x11 false fun x s =>
    let ds := diesOf (x.word 2)
    if bits (x.word 2) 63 24 ≠ 0 ∨ !x.zeroFrom 3 then s.complete e 1
    else if s.sec.applying.isSome then s.complete e 3
    else
      match s.sec.pending with
      | none => s.complete e 0x10
      | some b =>
        if s.sec.booted.any fun a => decide (a.iface ≠ b.iface) then s.complete e 0x12
        else if ds.any fun d => s.dieHeld d then s.complete e 2
        else if ds.any fun d => !s.dieUp d then s.complete e 6
        else if ds.isEmpty then s.complete e 0
        else
          let s := { s with sec := { s.sec with applying := some (e, ds) } }
          let s := ds.foldl (fun (s : State) d => s.modDie d fun y => { y with updating := true }) s
          ds.foldl (fun (s : State) d => s.startReset d 0 true) s)

/-- FW_ACTIVATE: the pending bank is the active one from the next start-up (R525). -/
def execFwActivate (e : EntryRef) (s : State) : Host.Outcome State Fault Refusal :=
  .next (s.secCommand e 0x12 false fun x s =>
    if !x.zeroFrom 2 then s.complete e 1
    else if s.sec.applying.isSome then s.complete e 3
    else if s.sec.pending.isNone then s.complete e 0x10
    else ({ s with nv := { s.nv with activeBank := s.sec.pendBank } }).complete e 0)

/-- SVN_COMMIT: the minima rise to the active manifest's security versions (R526). -/
def execSvnCommit (e : EntryRef) (s : State) : Host.Outcome State Fault Refusal :=
  .next (s.secCommand e 0x13 false fun x s =>
    if !x.zeroFrom 2 then s.complete e 1
    else if s.sec.applying.isSome then s.complete e 3
    else
      match s.sec.booted with
      | none => s.complete e 0x10
      | some b =>
        if s.sec.bootBank ≠ s.nv.activeBank ∨ !((upto 24).all fun d => decide ((s.die d).image = b.cdDigest)) then s.complete e 0x10
        else
          let s := { s with nv := { s.nv with hlSvnMin := max s.nv.hlSvnMin b.hlSvn, cdSvnMin := max s.nv.cdSvnMin b.cdSvn } }
          (s.secReport 0x113FF198).complete e 0)

/-! ## Attestation (R527-R530) -/

/-- Bytes 0-31 of a digest. -/
def seedOf (bs : List Byte) : List Byte := natLe 32 ((Config.sha3 bs).toNat % 2 ^ 256)

/-- The seeds of the identity and attestation keys (R517). -/
def NonVol.idSeed (v : NonVol) : List Byte := seedOf (natLe 32 v.uds.toNat ++ [0x01])
def NonVol.attSeed (v : NonVol) (dm : BitVec 512) : List Byte := seedOf (natLe 32 v.uds.toNat ++ [0x02] ++ natLe 64 dm.toNat)

/-- The COMP entry of a bound composition. -/
def Comp.attest (x : Comp) : List Byte :=
  natLe 24 (x.cur.slices.foldl (fun a k => a ||| 2 ^ k) 0) ++
    natLe 2 (2 ^ 15 + b2n x.span * 2 ^ 14 + b2n x.cur.g1 * 2 ^ 13 + b2n x.cur.discardPoison * 2 ^ 12 + x.tenant % 2 ^ 12) ++
    natLe 1 x.cur.epoch.toNat ++ natLe 1 x.fn ++ natLe 2 x.context.toNat ++ natLe 2 x.auth.toNat

/-- GLB_FEATURE_LEVEL (R26). -/
def State.featureLevel (s : State) : Nat := s.nv.hlaClass.toNat * 2 ^ 8 + s.start.level.toNat

/-- Bytes 0-4,063 of the report for function `f` (Table 19-4). -/
def State.attestation (s : State) (f : Nat) (nonce : List Byte) : List Byte :=
  let b : Option Bundle := s.sec.booted
  let flags := b2n s.sec.debugNow + 2 * b2n s.sec.debugSince + 4 * b2n (decide (f ≠ 0))
  let addr := match s.link.sysAddr with
    | some (a, y) => natLe 2 (2 ^ 15 + a.toNat) ++ natLe 1 y.toNat
    | none => natLe 3 0
  natLe 2 1 ++ natLe 2 flags ++ natLe 1 s.nv.hlaStep.toNat ++ natLe 1 s.nv.hlbStep.toNat ++ natLe 2 s.sec.lastScope.toNat ++ natLe 8 s.time.now ++
    nonce ++ natLe 32 s.sec.panelId.toNat ++ addr ++ natLe 1 f ++ natLe 4 s.featureLevel ++ natLe 4 s.start.fallow.toNat ++
    [BitVec.ofNat 8 ((b.map (·.hlSvn)).getD 0), BitVec.ofNat 8 ((b.map (·.cdSvn)).getD 0), BitVec.ofNat 8 s.nv.hlSvnMin, BitVec.ofNat 8 s.nv.cdSvnMin] ++
    natLe 64 ((b.map Bundle.dm).getD 0).toNat ++ natLe 64 ((s.sec.pending.map Bundle.dm).getD 0).toNat ++
    ((upto 28).flatMap fun p => natLe 8 (getD 0 s.start.recs p).toNat) ++ ((upto 24).flatMap fun d => natLe 64 (s.die d).image.toNat) ++
    (upto 64).flatMap fun c => match s.comp? c with
      | some x => if f ≠ 0 ∧ x.fn ≠ f then natLe 32 0 else x.attest
      | none => natLe 32 0

/-- The identity certificate: an X.509 DER sequence, whose head gives its length (R518); none when flash holds no such head. -/
def NonVol.certificate (v : NonVol) : List Byte :=
  let a := leAt v.idCert 1 1
  let be (n : Nat) : Nat := (upto n).foldl (fun k i => k * 256 + leAt v.idCert (2 + i) 1) 0
  if leAt v.idCert 0 1 ≠ 0x30 ∨ 132 < a then []
  else readBytes v.idCert 0 (if a < 128 then 2 + a else 2 + (a - 128) + be (a - 128))

/-- ATTEST: the report, its signature and the chain of certificates go to DEST (R527); VFs may use it (R530). -/
def execAttest (e : EntryRef) (s : State) : Host.Outcome State Fault Refusal :=
  .next (s.secCommand e 0x14 true fun x s =>
    if !x.zeroFrom 4 then s.complete e 1
    else
      let p := s.adminPasid e.fn
      match s.hostFetch p (x.word 3).toNat 64 with
      | none => s.complete e 5
      | some (s, nonce) =>
        let rep := s.attestation e.fn nonce
        let sig := mldsaSig (s.nv.attSeed ((s.sec.booted.map (·.dm)).getD 0)) rep
        let cert := s.nv.certificate
        let out := rep ++ sig ++ s.sec.attKey ++ s.sec.attCertSig ++ natLe 4 cert.length ++ cert
        match s.hostWrite e.fn p (x.word 2).toNat out with
        | none => s.complete e 5
        | some (s, due) => (if due then s.dueCodes e.fn [mkCode 0x10D000F5 e.fn] else s).complete e 0 out.length)

/-! ## Signed debug unlock (R531-R533) -/

/-- DEBUG_CHALLENGE: a fresh challenge replaces any other. -/
def execDebugChallenge (e : EntryRef) (random : BitVec 128) (s : State) : Host.Outcome State Fault Refusal :=
  .next (s.secCommand e 0x15 false fun x s =>
    if !x.zeroFrom 2 then s.complete e 1
    else ({ s with sec := { s.sec with challenge := some (random, s.time.now) } }).complete e 0 (random.toNat % 2 ^ 64) (random.toNat / 2 ^ 64))

/-- A debug token of 11,912 bytes holds (R532): its certificate and signature, its identity and challenge, no reserved bit, a duration in range. -/
def State.tokenOk (s : State) (t : List Byte) : Bool :=
  let at_ (a n : Nat) : Nat := leNat ((t.drop a).take n)
  let cert := (t.drop 64).take 7221
  !s.nv.debugDisable && s.nv.leafOk cert 2 s.nv.dbgRevoke && Config.mldsaVerify (leafKey cert) (t.take 64) ((t.drop 7285).take 4627) &&
    decide (at_ 0 32 = s.sec.panelId.toNat) && (s.sec.challenge.any fun c => decide (at_ 32 16 = c.1.toNat) && decide (s.time.now ≤ c.2 + 60000000000)) &&
    decide (at_ 48 2 < 16) && decide (at_ 50 2 = 0) && decide (1 ≤ at_ 52 4) && decide (at_ 52 4 ≤ 86400) && decide (at_ 56 8 = 0)

/-- Report a code to every bound composition and on the PF admin CQ, with one EVENT_ID. -/
def State.reportAll (s : State) (c : Code) : State :=
  let s := s.logCode c
  let ds := ((keys s.yoke.comps).flatMap fun k => s.compDue k c none none) ++ [s.adminDue 0 c]
  State.deliver 4 { s with host := { s.host with eventId := s.host.eventId + 1 } } ds

/-- DEBUG_UNLOCK: a good token sets the scope and the expiry. The challenge serves one attempt. -/
def execDebugUnlock (e : EntryRef) (s : State) : Host.Outcome State Fault Refusal :=
  .next (s.secCommand e 0x16 false fun x s =>
    if !x.zeroFrom 3 then s.complete e 1
    else
      let ok (t : List Byte) : Bool := s.tokenOk t
      let spent := { s with sec := { s.sec with challenge := none } }
      match spent.hostFetch (s.adminPasid e.fn) (x.word 2).toNat 11912 with
      | none => spent.complete e 5
      | some (spent, t) =>
        if !ok t then (spent.secReport 0x413FF197).complete e 0x10
        else
          let scope : Half := BitVec.ofNat 16 (leNat ((t.drop 48).take 2))
          let sec := { spent.sec with
            scope := scope, lastScope := scope, expiry := s.time.now + leNat ((t.drop 52).take 4) * 1000000000, debugNow := true,
            debugSince := true, code := 0x113FF195 }
          (({ spent with sec := sec }).reportAll 0x113FF195).complete e 0)

/-- Every parked drill. -/
def State.parkedDrills (s : State) : List DrillRef :=
  s.cores.flatMap fun c => c.2.drills.filterMap fun e =>
    match e.2.status with
    | .parked _ => some ⟨c.1, e.1 / 8, e.1 % 8⟩
    | _ => none

/-- A parked drill takes its default outcome, if its record has arrived. -/
def State.endDefault (s : State) (d : DrillRef) : State :=
  match s.drill? d with
  | none => s
  | some x =>
    match x.status with
    | .parked t =>
      match s.defaultOutcome x t with
      | .replay => s.endParking d none .replay fun t x k => t.replayDrill d x k
      | .skip => s.endParking d none .skip fun t x k => t.skipDrill d x k
      | .kill => s.endParking d none .kill fun t x k => t.killDrill d x k
      | .hold => s
    | _ => s

/-- The unlock ends: reported, drills held for the debugger take their default outcome, the hayward resumes (R533). -/
def State.endDebug (s : State) : State :=
  let s := { s with sec := { s.sec with debugNow := false, scope := 0, expiry := 0 } }
  let s := (s.secReport 0x113FF196).setReg .rlyHayCfg 0 0 1
  s.parkedDrills.foldl (fun (s : State) d => s.endDefault d) s

/-- DEBUG_LOCK. -/
def execDebugLock (e : EntryRef) (s : State) : Host.Outcome State Fault Refusal :=
  .next (s.secCommand e 0x17 false fun x s =>
    if !x.zeroFrom 2 then s.complete e 1 else (if s.sec.debugNow then s.endDebug else s).complete e 0)

/-- DEBUG_UNLOCK_EXPIRY. -/
def execDebugUnlockExpiry (s : State) : Host.Outcome State Fault Refusal :=
  .next (if !s.inService ∨ !s.sec.debugNow ∨ s.time.now < s.sec.expiry then s else s.endDebug)

end Sys2Proof.Machine
end

