-- ==== Sys2Proof/Machine/TestCap.lean ====
section
/-! DEFINITION. Self-test, link margining and the Neley capture's commands (R535-R548). -/

namespace Sys2Proof.Machine

open Sys2Proof

/-! ## BIST (R536-R538) -/

/-- A die's test cycle, margining sweep or firmware update is in progress, or it has run three test cycles in 600 s (R538). -/
def State.testBusy (s : State) (d : Nat) : Bool :=
  let x := s.die d
  x.run.any (fun r => r.bist.isSome) || x.margin.busy || x.lmargin.busy || (s.sec.applying.any fun a => a.2.contains d) ||
    decide (3 ≤ (x.testTimes.filter fun t => decide (s.time.now < t + 600000000000)).length)

/-- BIST: a test cycle on each listed die; an empty mask completes at once. DRAM is tested only with FULL (Table 20-1). -/
def execBist (e : EntryRef) (s : State) : Host.Outcome State Fault Refusal :=
  .next (s.secCommand e 0x1A false fun x s =>
    let ds := diesOf (x.word 2)
    let full := bit (x.word 3) 63
    let dram := full && bit (x.word 3) 62
    if bits (x.word 2) 63 24 ≠ 0 ∨ bits (x.word 3) 61 0 ≠ 0 ∨ !x.zeroFrom 4 then s.complete e 1
    else if ds.any fun d => s.dieHeld d then s.complete e 2
    else if ds.any fun d => s.testBusy d then s.complete e 3
    else if ds.any fun d => !s.dieUp d then s.complete e 6
    else if ds.isEmpty then s.complete e 0
    else
      let s := { s with tst := { s.tst with bists := s.tst.bists ++ [(e, (ds, ([], [])))] } }
      ds.foldl (fun (s : State) d =>
        (s.modDie d fun y => { y with bistStatus := 0, sramFailReg := 0, dramFailReg := 0, sigs := [] }).startReset d 0 false (some (full, dram))) s)

/-! ## Captures (R541-R543) -/

/-- Perform a capture command: a composition that is bound and this function's, or any under scope bit 3 of a debug unlock. -/
def State.captureCommand (s : State) (e : EntryRef) (op : Nat) (bad : Entry → Bool) (body : Entry → Comp → State → State) : State :=
  s.command e op (some true) fun x s =>
    if x.context ≠ 0 ∨ bad x then s.complete e 1
    else
      match s.comp? x.comp with
      | none => s.complete e 0x14
      | some y => if y.fn ≠ e.fn ∧ !s.debugScope 3 then s.complete e 2 else body x y s

/-- Operands that a CAPTURE_START may not have (Table 20-2). -/
def Entry.captureBad (x : Entry) : Bool :=
  let size := (x.word 3).toNat
  decide (bits (x.word 2) 11 0 ≠ 0 ∨ size % 4096 ≠ 0 ∨ size < 0x100000 ∨ 0x100000000 < size ∨ bits (x.word 4) 61 0 ≠ 0) || !x.zeroFrom 5

/-- CAPTURE_START: recording starts at the composition's next pass boundary. -/
def execCaptureStart (e : EntryRef) (s : State) : Host.Outcome State Fault Refusal :=
  .next (s.captureCommand e 0x1B Entry.captureBad fun x y s =>
    if (find? s.tst.captures x.comp).any fun k => k.active || k.entry.isSome then s.complete e 3
    else
      let k : Capture :=
        { fn := e.fn, dest := x.word 2, pasid := s.adminPasid e.fn, size := (x.word 3).toNat, wrap := bit (x.word 4) 63,
          payload := bit (x.word 4) 62, active := false, entry := some e, buffer := [], written := 0, tail := 0, oldest := 0, wrapped := false,
          seq := 0, lost := 0, lostNow := 0, snapAge := 0 }
      let s := { s with tst := { s.tst with captures := insert s.tst.captures x.comp k } }
      -- a loop that runs no pass is at a boundary
      if y.serve.st.still ∧ y.serve.st ≠ .wait then s.captureBoundary x.comp else s)

/-- CAPTURE_STOP: what is gathered is written, and the ring's length and its oldest record are told; the registers keep what they hold. -/
def execCaptureStop (e : EntryRef) (s : State) : Host.Outcome State Fault Refusal :=
  .next (s.captureCommand e 0x1C (fun x => !x.zeroFrom 2) fun x _ s =>
    match find? s.tst.captures x.comp with
    | none => s.complete e 3
    | some k =>
      let s := match k.entry with
        | some a => s.complete a 4
        | none => s
      let s := s.captureFlush x.comp
      match find? s.tst.captures x.comp with
      | none => s.complete e 3
      | some k =>
        let s := { s with tst := { s.tst with captures := insert s.tst.captures x.comp { k with active := false, entry := none, buffer := [] } } }
        s.complete e 0 k.written k.oldest)

/-- CAPTURE_BUFFER_HALF: the records go to the host before the boundary. -/
def execCaptureBufferHalf (c : Nat) (s : State) : Host.Outcome State Fault Refusal :=
  .next (
    match find? s.tst.captures c with
    | some k => if s.inService ∧ k.active ∧ 0x80000 ≤ k.held then s.captureFlush c else s
    | none => s)

/-! ## Link margining (R539) -/

/-- The named group is an active fabric group of the port, or belongs to a bypass link that is up. -/
def State.laneUp (s : State) (d q g : Nat) : Bool :=
  let x := s.hport { node := d, port := q }
  let e := ((s.die d).pos, q)
  (decide (x.st = .active) && bit x.agreed g) ||
    s.upLinks.any fun f => ((detour f).any fun h => decide (h.1 = e) || decide (h.2 = e)) && bit (s.bypassGroups f e) g

/-- A write to TST_LMARGIN_CMD whose OP is `op`. -/
def State.startLmargin (s : State) (op d : Nat) (w : Word) : State :=
  if bits w 31 28 ≠ op ∨ 24 ≤ d ∨ !s.inService then s
  else
    let err (s : State) : State := s.modDie d fun x => { x with lmargin := { x.lmargin with err := true } }
    if bits w 15 8 = 0 then s.refuseWrite d (Reg.off .tstLmarginCmd d 0)
    else if !s.dieUp d ∨ (s.die d).lmargin.busy ∨ !s.laneUp d (bits w 27 26) (bits w 25 23) then err s
    else s.modDie d fun x => { x with lmargin := { Sweep.reset with busy := true, steps := bits w 15 8 }, lmarginLane := some (bits w 27 26, bits w 22 17) }

/-- LMARGIN_TIMING. -/
def execLmarginTiming (die : Nat) (w : Word) (s : State) : Host.Outcome State Fault Refusal := .next (s.startLmargin 1 die w)
/-- LMARGIN_REFERENCE. -/
def execLmarginReference (die : Nat) (w : Word) (s : State) : Host.Outcome State Fault Refusal := .next (s.startLmargin 2 die w)

/-- The scale-out port of a lane: four lanes to a port, eight to an even port that takes its neighbour's (R324, R325). -/
def State.lanePort (s : State) (lane : Nat) : Nat :=
  let p := lane / 8 * 2
  if bits s.start.portMap (2 * p + 1) (2 * p) = 2 then p else lane / 4

/-- A write to TST_XMARGIN_CMD whose OP is `op`. -/
def State.startXmargin (s : State) (op : Nat) (w : Word) : State :=
  if bits w 31 28 ≠ op ∨ !s.inService then s
  else
    let put (s : State) (m : Sweep) (l : Option Nat) : State := { s with tst := { s.tst with xmargin := m, xlane := l } }
    if bits w 15 8 = 0 then s.refuseWrite 0xFF (Reg.off .tstXmarginCmd 0 0)
    else if s.tst.xmargin.busy ∨ !s.portUp (s.lanePort (bits w 27 22)) then put s { s.tst.xmargin with err := true } s.tst.xlane
    else put s { Sweep.reset with busy := true, steps := bits w 15 8 } (some (bits w 27 22))

/-- XMARGIN_TIMING. -/
def execXmarginTiming (w : Word) (s : State) : Host.Outcome State Fault Refusal := .next (s.startXmargin 1 w)
/-- XMARGIN_REFERENCE. -/
def execXmarginReference (w : Word) (s : State) : Host.Outcome State Fault Refusal := .next (s.startXmargin 2 w)

/-- A sweep that ends, with the passing steps on each side. -/
def Sweep.finish (m : Sweep) (low high : Nat) : Sweep := { m with busy := false, done := true, low := min low m.steps, high := min high m.steps }

/-- LINK_MARGIN_SWEEP_DONE: of a die's hedgerow lanes, or of the scale-out lanes. -/
def execLinkMarginSweepDone (die : Option Nat) (low high : Nat) (s : State) : Host.Outcome State Fault Refusal :=
  .next (
    match die with
    | some d =>
      if !s.inService ∨ 24 ≤ d ∨ !(s.die d).lmargin.busy then s else s.modDie d fun x => { x with lmargin := x.lmargin.finish low high, lmarginLane := none }
    | none =>
      if !s.inService ∨ !s.tst.xmargin.busy then s
      else { s with tst := { s.tst with xmargin := s.tst.xmargin.finish low high, xlane := none } })

end Sys2Proof.Machine
end

