-- ==== Sys2Proof/Machine/Replay.lean ====
section
/-! DEFINITION. REPLAY, and the commands that move the serving loop's passes, which a replay drives from its records (R412-R417, R545, R546). -/

namespace Sys2Proof.Machine

open Sys2Proof

/-! ## Records -/

/-- The records in a capture's bytes. -/
def parseRecords : Nat → List Byte → List (List Byte)
  | 0, _ => []
  | n + 1, bs =>
    let len := 16 + (recLen bs + 7) / 8 * 8
    if bs.length < len then [] else bs.take len :: parseRecords n (bs.drop len)

/-- What a snapshot says of slices, sets and kernel table: behind the three bind words. -/
def snapshotShape (r : List Byte) : List Byte := (r.drop 40).take 104

/-- A state after a command that may stop. -/
def State.after (s : State) (o : Host.Outcome State Fault Refusal) : State :=
  match o with
  | .next t => t
  | _ => s

/-- Do something at a device time of the records. -/
def State.atTime (s : State) (t : Nat) (f : State → State) : State :=
  let now := s.time.now
  let s := f { s with time := { s.time with now := t } }
  { s with time := { s.time with now := now } }

/-! ## What the records bring -/

/-- Perform an entry of a record by its opcode. -/
def State.performOp (s : State) (e : EntryRef) (op : Nat) : State :=
  match op with
  | 0x18 => s.after (execPin e s)
  | 0x19 => s.after (execUnpin e s)
  | 0x20 => s.after (execBind e s)
  | 0x21 => s.after (execRebind e s)
  | 0x23 => s.after (execMap e s)
  | 0x24 => s.after (execUnmap e s)
  | 0x25 => s.after (execMoveRegion e s)
  | 0x27 => s.after (execMeterRead e s)
  | 0x40 => s.after (execServeConfig e s)
  | 0x41 => s.after (execServeStop e s)
  | 0x42 => s.after (execStreamOpen e s)
  | 0x43 => s.after (execStreamClose e s)
  | 0x44 => s.after (execAudio e s)
  | 0x45 => s.after (execTextIn e s)
  | 0x46 => s.after (execOutBuf e s)
  | 0x48 => s.after (execLoad e s)
  | _ => s

def State.setReplay (s : State) (c : Nat) (r : ReplayRun) : State := { s with tst := { s.tst with replays := insert s.tst.replays c r } }

/-- The completion of a command that the replay does not perform is passed over. -/
def State.skipEntry (s : State) (c tag : Nat) : State :=
  match find? s.tst.replays c with
  | none => s
  | some r =>
    s.setReplay c { r with records := removeFirst (fun y => decide (recType y = 2) && decide (bits (recWord y 1) 23 20 = 0) &&
      decide (bits (recWord y 0) 63 32 = tag)) r.records }

/-- A TYPE 0x01 record: its entry, for the target composition, is taken as fetched; recorded data stands at its address while it is performed.
UNBIND and the test commands are not performed. -/
def State.feedEntry (s : State) (c : Nat) (r : List Byte) : State :=
  match s.comp? c with
  | none => s
  | some x =>
    let w0 := recWord r 0
    let op := bits w0 63 56
    if op = 0x22 ∨ (0x1B ≤ op ∧ op ≤ 0x1D) then s.skipEntry c (bits w0 31 0)
    else
      let w : List DWord := BitVec.ofNat 64 (op * 2 ^ 56 + c % 64 * 2 ^ 50 + bits w0 49 0) :: (upto 7).map fun i => recWord r (i + 1)
      let e : EntryRef := { fn := x.fn, sq := replaySq + bits (recWord r 8) 15 0, num := (s.fn x.fn).nextOrder }
      let y : Entry := { ref := e, w := w, cq := replaySq, at_ := s.time.now, started := false, seq := s.host.fetches }
      let s := { s with host := { s.host with fetches := s.host.fetches + 1 } }
      let host := s.mem.host
      let data := ((r.drop 88).take (recLen r - 72))
      let s := { s with mem := { s.mem with host := writeBytes host (hostKey x.pasid (w.getD 3 0).toNat) data } }
      let s := s.modFn x.fn fun f => { f with entries := f.entries ++ [y], nextOrder := f.nextOrder + 1 }
      let s := if reservedOp op ∨ bit w0 48 then s.complete e 1 else s.performOp e op
      { s with mem := { s.mem with host := host } }

/-- A TYPE 0x03 record: a WRITE frame recorded with its payload lands; the connection is not the replay's, and answers nobody. -/
def State.feedFrame (s : State) (c : Nat) (r : List Byte) : Moved State :=
  match s.comp? c with
  | none => .ok s
  | some x =>
    let w2 := recWord r 2
    let f : TltFrame :=
      { eth := { dst := 0, src := 0, tag := none, type := 0 }, w0 := recWord r 0, w1 := recWord r 1, w3 := recWord r 3, payload := (r.drop 48).take (recLen r - 32),
        w2 := BitVec.ofNat 64 (x.context.toNat * 2 ^ 48 + x.cur.epoch.toNat * 2 ^ 40 + c % 64 * 2 ^ 34 + bits w2 33 0) }
    if tType f ≠ 0 ∨ recLen r ≤ 32 then .ok s
    else (s.frameChunks f .reeve (s.frameSlice f) 16 0).bind fun t => .ok t.1

/-- A TYPE 0x04 record: a code that neither the loop nor the restart brings about by itself is delivered; the loop's second failure is. -/
def State.feedError (s : State) (c : Nat) (r : List Byte) : State :=
  let code : Code := BitVec.ofNat 32 (bits (recWord r 0) 63 32)
  let base := code.toNat - bits code 19 12 * 0x1000
  if base = 0x40F00112 then s.modServe c fun v => if v.st.inPass then { v with failures := max 1 v.failures, failedNow := true } else v
  else if bits code 27 20 = 0x0F ∨ base = 0x11200160 ∨ base = 0x41200161 then s
  else State.deliver 4 s (s.compDue c code none none)

/-- A TYPE 0x06 record: a restart, or a run that was rolled back; epochs and loans follow from the entries. -/
def State.feedMark (s : State) (c : Nat) (r : List Byte) : State :=
  match bits (recWord r 0) 63 56 with
  | 1 => { s.startRestart c with link := s.link }
  | 2 => s.modServe c fun v => if v.st.running && !v.failedNow then { v with excused := true } else v
  | _ => s

/-- Take one record that is not an output: a frame may have to wait at a home. -/
def State.feed (s : State) (c : Nat) (r : List Byte) : Moved State :=
  let at_ (f : State → State) : Moved State := .ok (s.atTime (recTime r) f)
  match recType r with
  | 1 => at_ fun s => s.feedEntry c r
  | 3 => s.feedFrame c r
  | 4 => at_ fun s => s.feedError c r
  | 6 => at_ fun s => s.feedMark c r
  | _ => .ok s

/-- Take records up to one that waits for an output or a COMMIT; between passes, up to the next GATHER. -/
def State.replayPump (c : Nat) : Nat → State → State
  | 0, s => s
  | n + 1, s =>
    match find? s.tst.replays c, s.comp? c with
    | some r, some x =>
      match r.records with
      | [] => s
      | h :: t =>
        let due := x.serve.st.inPass || (s.replayPass c).all fun p => decide (recTime h ≤ (recWord p 1).toNat)
        if r.diverged.isSome ∨ recType h = 2 ∨ recType h = 5 ∨ !due then s
        else
          let s' := s.setReplay c { r with records := t }
          match s'.feed c h with
          | .ok s => State.replayPump c n s
          | .fail _ => State.replayPump c n s'
          | .wait k => s.nudge k .reeve
          | .held => s
    | _, _ => s

/-- The replay's entries of a composition. -/
def State.replayEntries (s : State) (c : Nat) : List Entry :=
  match s.comp? c with
  | none => []
  | some x => (s.fn x.fn).entries.filter fun y => decide (replaySq ≤ y.ref.sq) && decide (y.comp = c)

/-! ## The end -/

/-- The replay ends: its entries are gone, its loop is STOPPED. -/
def State.endReplay (s : State) (c : Nat) (e : EntryRef) (diverged : Option Word) : State :=
  let s := { s with tst := { s.tst with replays := erase s.tst.replays c } }
  let s := match s.comp? c with
    | none => s
    | some x => s.modFn x.fn fun f => { f with entries := f.entries.filter fun y => !(decide (replaySq ≤ y.ref.sq) && decide (y.comp = c)) }
  let s := (s.endLoans c).modServe c fun _ => Serve.reset
  match diverged with
  | none => s.complete e 0
  | some q => s.complete e 0x10 0 q.toNat (mkCode 0x414001A9 c)

/-- The replay ends at the first difference, at the end of its records, or where the loop has stopped and no open entry can go on. -/
def State.settleReplay (s : State) (c : Nat) : State :=
  match find? s.tst.replays c, s.comp? c with
  | some r, some x =>
    match r.diverged, r.records with
    | some q, _ => s.endReplay c r.entry (some q)
    | none, [] => s.endReplay c r.entry none
    | none, h :: _ =>
      let stuck := decide (x.serve.st = .stopped ∨ x.serve.st = .failed) && decide (recType h = 2 ∨ recType h = 5) && (s.replayEntries c).isEmpty
      if stuck then s.endReplay c r.entry (some (recSeq h)) else s
  | _, _ => s

/-- Go on with a replay: entries that waited, then records. -/
def State.replayOn (s : State) (c : Nat) : State :=
  let waiting := (s.replayEntries c).filter fun y => !y.started
  let s := waiting.foldl (fun (s : State) y => s.performOp y.ref y.opcode) s
  let n := ((find? s.tst.replays c).map fun r => r.records.length + 1).getD 0
  (State.replayPump c n s).settleReplay c

/-- The device time of a replay's pass: word `i` of its TYPE 0x05 record, else the time of the record at the head. -/
def State.replayTime (s : State) (c i : Nat) : Nat :=
  match s.replayPass c with
  | some p => (recWord p i).toNat
  | none => (((find? s.tst.replays c).bind fun r => r.records.head?).map recTime).getD s.time.now

/-- Move a loop: as its rules say, or under replay between the records. -/
def State.drive (s : State) (c i : Nat) (f : State → State) : State :=
  if !s.replaying c then f s
  else
    let t := s.replayOn c
    if !t.replaying c then t else (t.atTime (t.replayTime c i) f).replayOn c

/-! ## The commands -/

/-- PASS_START. -/
def execPassStart (c : Nat) (s : State) : Host.Outcome State Fault Refusal := .next (s.drive c 1 fun s => s.passStart c)

/-- STAGE_ADVANCE. -/
def execStageAdvance (c : Nat) (steps : List HypStep) (speech : List SpeechOut) (s : State) : Host.Outcome State Fault Refusal :=
  .next (s.drive c 1 fun s => s.stageAdvance c steps speech)

/-- EMIT_NOTICES. -/
def execEmitNotices (c : Nat) (s : State) : Host.Outcome State Fault Refusal := .next (s.drive c 1 fun s => s.emitNotices c)

/-- PASS_COMMIT. -/
def execPassCommit (c : Nat) (pages : List (Nat × Nat)) (s : State) : Host.Outcome State Fault Refusal :=
  .next (s.drive c 2 fun s => s.passCommit c pages)

/-- PASS_ROLLBACK. -/
def execPassRollback (c : Nat) (s : State) : Host.Outcome State Fault Refusal := .next (s.drive c 1 fun s => s.passRollback c)

/-- REPLAY: on a stopped composition of the snapshot's shape the records drive the loop, until their end or a difference. -/
def execReplay (e : EntryRef) (s : State) : Host.Outcome State Fault Refusal :=
  .next (s.command e 0x1D (some true) fun x s =>
    if x.context ≠ 0 ∨ !x.zeroFrom 4 then s.complete e 1
    else
      match s.comp? x.comp with
      | none => s.complete e 0x14
      | some y =>
        if y.fn ≠ e.fn ∨ y.serve.st ≠ .stopped then s.complete e 2
        else
          let n := (x.word 3).toNat
          match s.hostFetch (s.adminPasid e.fn) (x.word 2).toNat n with
          | none => s.complete e 5
          | some (s, bs) =>
            match (parseRecords (n / 16 + 1) bs).dropWhile fun r => decide (recType r ≠ 8) with
            | [] => s.complete e 0x11
            | h :: t =>
              if snapshotShape h ≠ s.shape x.comp y then s.complete e 0x11
              else (s.setReplay x.comp { entry := e, records := t, diverged := none }).replayOn x.comp)

end Sys2Proof.Machine
end

