-- ==== Sys2Proof/Machine/Registers.lean ====
section
/-! DEFINITION. What each BAR0 register reads (Tables 01-7, 02-9, 06-7, 08-3, 09-8, 10-8, 11-5, 12-6, 13-11, 14-9, 15-11, 16-5, 17-7, 17-10, 18-10, 19-7, 20-6, 21-2, 21-3). -/

namespace Sys2Proof.Machine

open Sys2Proof

/-! ## Start-up and identity -/

/-- The step in progress has come to `n` (GLB_STARTUP_STATUS). -/
def State.stepFrom (s : State) (n : Nat) : Bool := decide (n ≤ s.start.step)

/-- GLB_DIE_INFO: stepping and class from the die record, position, logical number. -/
def State.dieInfo (s : State) (d : Nat) : Nat :=
  let pos := (s.die d).pos
  let r := getD 0 s.start.recs pos
  if s.stepFrom 8 then bits r 47 40 * 2 ^ 24 + bits r 39 32 * 2 ^ 16 + pos * 2 ^ 8 + d else 0

/-- Saturating to `n` bits. -/
def satBits (n v : Nat) : Nat := min (2 ^ n - 1) v

/-- A sweep's status register (Tables 10-8, 20-6). -/
def Sweep.stat (m : Sweep) : Nat :=
  b2n m.done * 2 ^ 31 + b2n m.busy * 2 ^ 30 + b2n m.err * 2 ^ 29 + m.low * 2 ^ 16 + m.high * 2 ^ 8 + m.lane

/-! ## Compositions, serving, scheduling -/

/-- YOK_SLICE_STATE. -/
def State.sliceState (s : State) (k : Nat) : Nat :=
  match s.owner? k with
  | some (c, false) => 2 ^ 30 + c * 2 ^ 24
  | some (c, true) => 2 ^ 31 + c * 2 ^ 24
  | none => 0

/-- YOK_COMP_STATE. -/
def Comp.stateReg (x : Comp) : Nat :=
  2 ^ 31 + b2n x.span * 2 ^ 30 + b2n x.cur.g1 * 2 ^ 29 + b2n x.cur.discardPoison * 2 ^ 28 + b2n x.acct * 2 ^ 27 + x.cur.prio % 8 * 2 ^ 24 +
    x.cur.epoch.toNat * 2 ^ 16 + x.tenant % 4096

/-- STATE of YOK_SERVE_STATE. -/
def ServeState.code : ServeState → Nat
  | .stopped => 0 | .wait => 1 | .gather => 2 | .reserve => 3 | .encode => 4 | .decode => 5 | .vocode => 6 | .emit => 7 | .commit => 8
  | .rollback => 9 | .failed => 10

/-- YOK_LOAN. -/
def Core.loanReg (c : Core) : Nat :=
  let b := c.borrower.getD 0
  match c.loan with
  | .none_ => 0
  | .lent => 2 ^ 31 + b * 2 ^ 24
  | _ => 2 ^ 30 + b * 2 ^ 24

/-- YOK_TD_OUT: the latest teardown that is in progress. -/
def State.tdOut (s : State) : Nat :=
  match s.yoke.teardowns.getLast? with
  | some t => satBits 32 (s.outstanding t.1)
  | none => 0

/-! ## Power domains (Table 17-7) -/

/-- A bit for each number that holds. -/
def bitsOf (n : Nat) (p : Nat → Bool) : Nat := ((upto n).map fun i => if p i then 2 ^ i else 0).sum

/-- A scale-out lane belongs to a port in use. -/
def State.laneUsed (s : State) (lane : Nat) : Bool :=
  let p := s.lanePort lane
  decide (bits s.start.portMap (2 * p + 1) (2 * p) ≠ 0)

/-- The domains of headland `h` that are on. -/
def State.headlandDomain (s : State) (h i : Nat) : Bool :=
  let lane (q j : Nat) : Bool := s.laneUsed (32 * h + 4 * q + j)
  let quad (q : Nat) : Bool := lane q 0 || lane q 1 || lane q 2 || lane q 3
  if i < 8 then quad i
  else if i = 8 then (upto 8).any quad
  else if i = 9 ∨ i = 10 then decide (h = 0)
  else if 15 ≤ i ∧ i ≤ 18 then decide (roleGroups (s.portRole { node := 0x1E + h, port := i - 15 }) 1 ≠ 0)
  else true

/-- The domains of compute die `d` that are on. -/
def State.dieDomain (s : State) (d i : Nat) : Bool :=
  if i < 8 then (s.owner? (8 * d + i)).isSome || decide ((s.core (8 * d + i)).loan = .lent)
  else if i = 11 then !(s.die d).stackOff
  else if i = 13 then (upto 4).any fun q => decide (roleGroups (s.portRole { node := d, port := q }) 2 ≠ 0)
  else true

/-! ## Dies -/

/-- The stack's data rate at a step, in 0.1 Gb/s (Table 17-4). -/
def rateAt (step : Nat) : Nat := [46, 51, 57, 63, 69, 74, 80, 86, 92].getD step 0

/-- STATE of HDG_PORT_STATE. -/
def PortSt.code : PortSt → Nat
  | .off => 0 | .training => 1 | .active => 2 | .down => 3

/-- HDG_PORT_STATE. -/
def HPort.stateReg (p : HPort) : Nat := p.st.code * 2 ^ 30 + p.fails * 2 ^ 16 + p.agreed.toNat * 2 ^ 8 + p.localMask.toNat

/-- HDG_ROUTE. -/
def Switch.routeReg (w : Switch) (dst : Nat) : Nat :=
  match (w.routes.find? fun e => decide (e.1 = dst)).map (·.2) with
  | some r => r.hops * 2 ^ 8 + 2 ^ 7 + r.mrow * 2 ^ 4 + r.mcol * 2 ^ 2
  | none => 0

/-- The node whose hedgerow registers a block holds (R323). -/
def blockNode (b : Nat) : Nat := if b < 24 then b else 0x1E + (b - 24)

/-- Directory entries in coarse mode on a die. -/
def Die.coarseCount (x : Die) : Nat :=
  (x.gran.map fun l => (l.2.secs.filter fun e => match e.2.dir with
    | .coarse _ => true
    | _ => false).length).sum

/-- STATE of RLY_PART_STATE. -/
def PartState.code : PartState → Nat
  | .inService => 0 | .resetting => 1 | .outOfService => 2

/-- RLY_PART_STATE. -/
def Die.partReg (x : Die) : Nat :=
  x.part.code * 2 ^ 30 + x.rgen.toNat * 2 ^ 24 + ((x.run.map (·.step)).getD 0) * 2 ^ 16 + satBits 8 x.resets

/-- TST_BIST_STATUS: BUSY while a test cycle runs (Table 20-6). -/
def Die.bistReg (x : Die) : Nat := x.bistStatus.toNat ||| (if x.run.any fun r => r.bist.isSome then 2 ^ 30 else 0)

/-- TST_CAP_STATE and TST_CAP_SEQ. -/
def State.capState (s : State) (c : Nat) : Nat :=
  (match find? s.tst.captures c with
    | some k => b2n k.active * 2 ^ 31 + b2n k.wrapped * 2 ^ 30 + b2n k.payload * 2 ^ 29
    | none => 0) + b2n (s.replaying c) * 2 ^ 28
def State.capSeq (s : State) (c : Nat) : Nat :=
  match find? s.tst.captures c with
  | some k => k.seq.toNat - k.buffer.length - 1
  | none => 0

/-! ## The map -/

/-- SEC_STATE. -/
def State.secState (s : State) : Nat :=
  let x := s.sec
  b2n x.debugNow * 2 ^ 31 + b2n x.debugSince * 2 ^ 30 + b2n x.pending.isSome * 2 ^ 29 + b2n x.bootBank * 2 ^ 28 + b2n s.nv.activeBank * 2 ^ 27 +
    b2n s.nv.debugDisable * 2 ^ 26 + ((x.booted.map (·.hlSvn)).getD 0) % 256 * 2 ^ 8 + ((x.booted.map (·.cdSvn)).getD 0) % 256

/-- SEC_DIE_FW. -/
def State.dieFw (s : State) (d : Nat) : Nat :=
  let x := s.die d
  b2n (s.sec.pending.any fun b => decide (b.cdDigest = x.image)) * 2 ^ 16 + x.imageVer.toNat

/-- The width that the host link trains to: ×16 or ×8 (Table 13-1). -/
def linkWidth (p : LinkPartner) : Nat := if 16 ≤ p.lanes then 16 else 8

/-- HST_FN_STATUS. -/
def State.fnStatus (s : State) (f : Nat) : Nat :=
  let x := s.fn f
  b2n (s.fnReady f) * 2 ^ 31 + b2n x.quiesced * 2 ^ 30 + b2n x.aqErr * 2 ^ 29 + f

/-- The value of instance `i` of register `r` in block `b`: computed from the state where another part of it holds what the register shows, else as
stored; WO registers read 0 (R11). -/
def State.regValue (s : State) (r : Reg) (b i : Nat) : Nat :=
  let x := s.die b
  match r with
  | .glbHlStep => (if s.stepFrom 4 then s.nv.hlbStep.toNat * 2 ^ 8 else 0) + if s.stepFrom 1 then s.nv.hlaStep.toNat else 0
  | .glbSerial => if s.stepFrom 1 then s.nv.serial.toNat else 0
  | .glbMacBase => if s.stepFrom 1 then s.nv.mac.toNat else 0
  | .glbFwVersion => (s.sec.booted.map fun k => k.hlaVersion.toNat * 2 ^ 16 + k.iface.toNat).getD 0
  | .glbStartupStatus => b2n s.start.done * 2 ^ 31 + b2n s.start.failed * 2 ^ 30 + s.start.step
  | .glbStartupCode => s.start.code.toNat
  | .glbFallowMap => if s.stepFrom 8 then s.start.fallow.toNat else 0
  | .glbFeatureLevel => if s.stepFrom 8 then s.featureLevel else 0
  | .glbDiePos => if s.stepFrom 8 then (s.die i).pos else 0x1F
  | .glbDieRec => (getD 0 s.start.recs i).toNat
  | .xltPortMap => s.start.portMap.toNat
  | .xltPortMapNext => s.nv.portMap.toNat
  | .xltPortUp => s.link.up.toNat
  | .xltSysAddr => (s.link.sysAddr.map fun a => 2 ^ 31 + a.2.toNat * 2 ^ 12 + a.1.toNat).getD 0
  | .timNow => s.time.now
  | .timState =>
    (match s.time.st with
      | .free => 0 | .acquiring => 1 | .locked => 2 | .holdover => 3) * 2 ^ 30 + ((s.time.port.map fun p => 2 ^ 4 + p).getD 0)
  | .timOffset => (BitVec.ofInt 32 (max (-(2 ^ 31)) (min (2 ^ 31 - 1) s.time.offset))).toNat
  | .yokSliceState => s.sliceState i
  | .yokCompState => ((s.comp? i).map Comp.stateReg).getD 0
  | .yokCompDrain => (((s.comp? i).bind fun y => y.prev).map fun m => satBits 32 (s.drainTotal i m.epoch)).getD 0
  | .yokOwnEntries => s.yoke.owners.length
  | .yokTdStatus => b2n (!s.yoke.teardowns.isEmpty) * 2 ^ 31 + b2n s.yoke.tdTimeout * 2 ^ 30 + s.yoke.lastTd.toNat
  | .yokTdOut => s.tdOut
  | .yokServeState =>
    ((s.comp? i).map fun y => y.serve.st.code * 2 ^ 28 + satBits 16 (y.serve.streams.filter fun t => t.admitted).length).getD 0
  | .yokServePass => ((s.comp? i).map fun y => y.serve.pass % 2 ^ 32).getD 0
  | .yokCtx => ((s.comp? i).map fun y => y.context.toNat).getD 0
  | .yokLoan => (s.core i).loanReg
  | .pwrInput => satBits 16 s.pwr.volt10 * 2 ^ 16 + satBits 16 s.pwr.inputW
  | .pwrDomainsA => bitsOf 21 fun k => s.headlandDomain 0 k
  | .pwrDomainsB => bitsOf 21 fun k => s.headlandDomain 1 k
  | .pwrLastShutdown => s.nv.lastShutdown.toNat
  | .pwrHlTemp => satBits 8 (getD 0 s.pwr.th 1) * 2 ^ 8 + satBits 8 (getD 0 s.pwr.th 0)
  | .rlyPartState => (s.die i).partReg
  | .rlyPartCode => (s.die i).partCode.toNat
  | .rlyLogHead => s.rel.head % 256
  | .rlyLogCode => ((find? s.rel.log i).map fun e => e.code.toNat).getD 0
  | .rlyLogTime => ((find? s.rel.log i).map (·.time)).getD 0
  | .secState => s.secState
  | .secSvnMin => s.nv.hlSvnMin % 256 * 2 ^ 8 + s.nv.cdSvnMin % 256
  | .secRevoked => s.nv.dbgRevoke.toNat * 2 ^ 16 + s.nv.fwRevoke.toNat
  | .secDebugScope => if s.sec.debugNow then s.sec.scope.toNat else 0
  | .secDebugExpiry => if s.sec.debugNow then s.sec.expiry else 0
  | .secCode => s.sec.code.toNat
  | .secPanelId => bits s.sec.panelId (32 * i + 31) (32 * i)
  | .secDieFw => s.dieFw i
  | .tstXmarginStat => s.tst.xmargin.stat
  | .tstCapState => s.capState i
  | .tstCapSeq => s.capSeq i
  | .hstFnStatus => s.fnStatus i
  | .hstFnDies => if s.start.done then dieMask (s.fnDies i) else 0
  | .hstLink => if s.mod.linkUp then min 3 s.mod.partner.rate * 2 ^ 24 + linkWidth s.mod.partner * 2 ^ 16 else 0
  | .msixPba => bitsOf 64 fun k => (s.fn (b - 100)).pendingVec.contains (64 * i + k)
  | .glbDieInfo => s.dieInfo b
  | .hdgLaneRole => (s.portRole { node := blockNode b, port := i }).toNat
  | .hdgPortState => (s.hport { node := blockNode b, port := i }).stateReg
  | .hdgRoute => (s.switch (blockNode b)).routeReg i
  | .memXferBusy => bitsOf 16 fun k => (getD none x.engines k).isSome
  | .memXferOut => (s.core (8 * b + i)).xfers.length
  | .grnPinUsed => (x.gran.filter fun l => l.2.pinned).length
  | .grnCohCoarse => x.coarseCount
  | .grnCohErr => x.cohErr.toNat
  | .memRefreshState => x.rate
  | .memStackTemp => satBits 8 x.ts
  | .memRate => rateAt x.step
  | .memSpareUsed => x.spares.toNat
  | .memMarginStat => x.margin.stat
  | .pwrDieState => x.step * 2 ^ 28 + x.gov * 2 ^ 24 + x.ceil * 2 ^ 20 + x.duty
  | .pwrDieEst => satBits 16 x.est
  | .pwrDieTemp => satBits 8 x.td
  | .pwrDomains => bitsOf 15 fun k => s.dieDomain b k
  | .tstBistStatus => x.bistReg
  | .tstSramFail => x.sramFailReg.toNat
  | .tstDramFail => x.dramFailReg.toNat
  | .tstSig => (getD 0 x.sigs i).toNat
  | .tstLmarginStat => x.lmargin.stat
  | .tstXmarginCmd | .memMarginCmd | .tstLmarginCmd => 0
  | _ => s.reg r b i

end Sys2Proof.Machine
end

