-- ==== Sys2Proof/Machine/RegAccess.lean ====
section
/-! DEFINITION. Reads and writes of BAR0 (R11, R356, R552-R560): the fields that a write may change, the values that are refused, the effects. -/

namespace Sys2Proof.Machine

open Sys2Proof

/-! ## Which accesses reach a register -/

/-- BAR0 answers once start-up has ended, well or badly (R33, R38), to a function that exists and is neither in D3hot nor in reset. -/
def State.barOpen (s : State) (req : Nat) : Bool :=
  s.mod.pwrgd && (s.start.done || s.start.failed) && s.fnExists req && !(s.fn req).d3hot && !(s.fn req).resetting

/-- Offsets of the global block (Table 13-2). -/
def inGlobal (off : Nat) : Bool := decide (off < 0x100000)

/-- A register that is there now: outside the failed state, or in the global block (R558); of a function that exists. -/
def State.regHere (s : State) (key : Nat) : Option RegAt :=
  if s.start.failed && !inGlobal key then none
  else
    match regAt key with
    | none => none
    | some a => if 0x100000 ≤ key ∧ key < 0x119000 ∧ !s.fnExists a.idx then none else some a

/-- The block is that of a die which resets or is out of service (R557). -/
def State.blockDown (s : State) (a : RegAt) : Bool := a.reg.row.perDie && decide (a.blk < 24) && !s.dieUp a.blk

/-- The value that a read returns: RO and RC registers of a die that is not in service read 0, except GLB_DIE_INFO (R557). -/
def State.readWhole (s : State) (a : RegAt) : Nat :=
  if s.blockDown a ∧ a.reg.row.access ≠ .rw ∧ a.reg ≠ .glbDieInfo then 0 else s.regValue a.reg a.blk a.idx

/-! ## Reads (R553, R555) -/

def lowHalf (v : Nat) : Word := BitVec.ofNat 32 v
def highHalf (v : Nat) : Word := BitVec.ofNat 32 (v / 2 ^ 32)

/-- The half that requester `req` has latched of the register whose low half lies at `key`. -/
def latchOf (l : List (Nat × (Nat × Word))) (req key : Nat) : Option Word := (l.find? fun e => decide (e.1 = req) && decide (e.2.1 = key)).map (·.2.2)
def dropLatch (l : List (Nat × (Nat × Word))) (req key : Nat) : List (Nat × (Nat × Word)) :=
  l.filter fun e => !(decide (e.1 = req) && decide (e.2.1 = key))

/-- The most requests that wait in a segment of the die now (GRN_COH_PEND). -/
def Die.mostPend (x : Die) : Nat := (x.pend.map fun e => x.segPend (segmentOf e.1)).foldl max 0

/-- An RC register is cleared by its read (Table 00-6); the highest occupancy since a read is at least that at the read (R277). -/
def State.clearRc (s : State) (a : RegAt) : State :=
  if a.reg.row.access = .rc then s.setReg a.reg a.blk a.idx (if a.reg = .grnCohPend then (s.die a.blk).mostPend else 0) else s

/-- Read 32 bits at a key: the low half of a 64-bit register latches the high one, which the read of the high half then returns. -/
def State.readHalf (s : State) (req key : Nat) : State × Word :=
  match s.regHere key with
  | none => (s, 0)
  | some a =>
    let v := s.readWhole a
    if a.high then
      match latchOf s.regs.latched req (key - 4) with
      | some w => ({ s with regs := { s.regs with latched := dropLatch s.regs.latched req (key - 4) } }, w)
      | none => (s, highHalf v)
    else
      let s := s.clearRc a
      if a.reg.row.wide then
        ({ s with regs := { s.regs with latched := dropLatch s.regs.latched req key ++ [(req, (key, highHalf v))] } }, lowHalf v)
      else (s, lowHalf v)

/-- Read 64 bits at a key: a 64-bit register in one action, else one half after the other. -/
def State.readBoth (s : State) (req key : Nat) : State × DWord :=
  match (s.regHere key).filter fun a => a.reg.row.wide && !a.high with
  | some a => (s.clearRc a, BitVec.ofNat 64 (s.readWhole a))
  | none =>
    let (s, lo) := s.readHalf req key
    let (s, hi) := s.readHalf req (key + 4)
    (s, BitVec.ofNat 64 (hi.toNat * 2 ^ 32 + lo.toNat))

/-- RC_REGISTER_READ: a read of any register of BAR0, or of a doorbell page of BAR2, which reads 0 (R359, Table 13-3); one that is not a naturally aligned
32-bit or 64-bit read is Unsupported Request, reserved space reads 0 (R356). -/
def execRcRegisterRead (req : Nat) (bar2 : Bool) (offset size : Nat) (s : State) : Host.Outcome State Fault Refusal :=
  .next (
    if !s.barOpen req then s
    else if (size ≠ 4 ∧ size ≠ 8) ∨ offset % size ≠ 0 then s.out .unsupported
    else
      match bar0Key req offset with
      | none => s.out (.readVal 0)
      | some key =>
        if bar2 then s.out (.readVal 0)
        else if size = 4 then
          let (s, w) := s.readHalf req key
          s.out (.readVal (w.setWidth 64))
        else
          let (s, w) := s.readBoth req key
          s.out (.readVal w))

/-! ## What a write may set -/

/-- The fields of an RW register that a write sets; the rest is reserved (R554). -/
def Reg.mask (r : Reg) : Nat :=
  match r with
  | .xltEthertype | .xltRetxCfg => 0xFFFF
  | .xltVlan => 0x1EFFF
  | .timPtpCfg => 0x17F
  | .yokSchedCfg | .rlyHayCfg | .hstFnCtrl | .hstBar4Ctrl => 1
  | .pwrCapHost => 0x7FF
  | .pwrMargin | .memXferCap | .memScrubCfg => 0xFF
  | .hstAqSqBase | .hstAqCqBase => 0xFFFFFFFFFFFFF000
  | .hstAqPasid => 0x800FFFFF
  | .hstBar4Base => 0xFFFFFFFFFFFF
  | .grnPinCfg => 0x1F1F
  | .grnThrashCfg => 0xFF01
  | .grnLeaseCfg => 0x3FFF
  | .pwrFmax => 0xF
  | _ => 0xFFFFFFFFFFFFFFFF

/-- A port map: 11 is reserved, 10 belongs to an even port whose neighbour is then unused (R324, Table 12-6). -/
def portMapOk (v : Nat) : Bool :=
  (upto 8).all fun i =>
    let even := bits (BitVec.ofNat 32 v) (4 * i + 1) (4 * i)
    let odd := bits (BitVec.ofNat 32 v) (4 * i + 3) (4 * i + 2)
    decide (even ≤ 2) && decide (odd ≤ 1) && (decide (even ≠ 2) || decide (odd = 0))

/-- A size of the admin queue: 2 to 4,096 entries, a power of two. -/
def aqSizeOk (n : Nat) : Bool := decide (n ≤ 4095) && ringSizeOk n

/-- The masked value is one that the register's fields take. -/
def Reg.takes (r : Reg) (v : Nat) : Bool :=
  let within (lo hi n : Nat) : Bool := decide (lo ≤ n) && decide (n ≤ hi)
  match r with
  | .xltPortMapNext => portMapOk v
  | .xltEthertype => decide (0x600 ≤ v) && decide (v ≠ 0x88F7)
  | .xltRetxCfg => decide (v % 256 ≠ 0) && decide (v / 256 ≠ 0)
  | .timStepThr => within 1000 1000000 v
  | .timHoldLimit => within 1 3600 v
  | .pwrCapHost => within 600 1500 v
  | .pwrMargin => within 5 100 v
  | .hstAqSize => aqSizeOk (v % 65536) && aqSizeOk (v / 65536)
  | .grnPinCfg => within 0 18 (v % 256) && within 0 18 (v / 256)
  | .grnLeaseCfg => within 0 10000 v
  | .pwrFmax => within 0 8 v
  | _ => true

/-- As above, with BAR4's base aligned to the window in force (Table 13-11). -/
def State.takes (s : State) (r : Reg) (v : Nat) : Bool := r.takes v && (decide (r ≠ .hstBar4Base) || decide (v % 2 ^ (30 + s.host.bar4Window) = 0))

/-- The admin queue's registers, to which writes are dropped while AQ_EN is 1 (Table 13-11). -/
def Reg.ofAq (r : Reg) : Bool := [Reg.hstAqSqBase, .hstAqCqBase, .hstAqSize, .hstAqPasid].contains r

/-- The site of R554's code. -/
def RegAt.site (a : RegAt) (key : Nat) : Nat :=
  if a.reg.row.perDie ∧ a.blk < 24 then a.blk else if inGlobal key then 0xFF else 0xFE

/-! ## Effects -/

/-- GRN_PIN_CFG: what lies over the new limit is demoted; on a die that is not in service the copy alone changes (R243, R557). -/
def State.setPinCfg (s : State) (d v : Nat) : State :=
  let s := s.setReg .grnPinCfg d 0 v
  if s.inService && s.dieUp d then s.enforcePins d else s

/-- XLT_PORT_MAP_NEXT: the stored record is replaced in one step, within 100 ms; until then a loss of power may leave the record stored before (R559). -/
def State.setPortMapNext (s : State) (v : Nat) : State :=
  let old := s.mapUnstored.getD s.nv.portMap
  { s with nv := { s.nv with portMap := BitVec.ofNat 32 v }, mod := { s.mod with mapOld := some (old, s.time.now) } }

/-- TIM_PTP_CFG: the best master clock algorithm starts anew (R353). -/
def State.setPtpCfg (s : State) (v : Nat) : State :=
  let s := s.setReg .timPtpCfg 0 0 v
  if s.inService then s.restartBmca else s

/-- A word of an MSI-X entry: address, data, or vector control, whose mask bit may let a pending message go (Table 13-1). -/
def State.setMsix (s : State) (key : Nat) (a : RegAt) (v : Nat) : State :=
  let f := if 100 ≤ a.blk then a.blk - 100 else 0
  match a.idx % 4 with
  | 0 => { s with regs := s.regs.set key (BitVec.ofNat 64 (v / 4 * 4)) }
  | 3 => if v % 2 = 0 ∧ s.inService then s.unmaskVec f (a.idx / 4) else { s with regs := s.regs.set key (BitVec.ofNat 64 (v % 2)) }
  | _ => { s with regs := s.regs.set key (BitVec.ofNat 64 v) }

/-- A command register: the sweep that its OP names, or a reserved encoding (R301, R539). -/
def State.marginCommand (s : State) (key : Nat) (a : RegAt) (v : Nat) : State :=
  let w : Word := BitVec.ofNat 32 v
  let op := bits w 31 28
  match a.reg with
  | .memMarginCmd => if 1 ≤ op ∧ op ≤ 5 then s.startMargin op a.blk w else s.refuseWrite (a.site key) key
  | .tstLmarginCmd => if 1 ≤ op ∧ op ≤ 2 then s.startLmargin op a.blk w else s.refuseWrite (a.site key) key
  | .tstXmarginCmd => if 1 ≤ op ∧ op ≤ 2 then s.startXmargin op w else s.refuseWrite (a.site key) key
  | _ => s

/-- Write a whole register: writes to RO, RC and reserved fields are dropped; a value that a field does not take leaves the register as it is and is
reported (R6, R554); RLY_HAY_CFG takes a write only under signed debug unlock. -/
def State.writeWhole (s : State) (key : Nat) (a : RegAt) (v : Nat) : State :=
  let r := a.reg
  let w := v &&& r.mask
  match r.row.access with
  | .ro | .rc => s
  | .wo => s.marginCommand key a v
  | .rw =>
    if r.ofAq ∧ (s.fn a.idx).aqEn then s
    else if !s.takes r w then s.refuseWrite (a.site key) key
    else
      match r with
      | .msixTable => s.setMsix key a w
      | .grnPinCfg => s.setPinCfg a.blk w
      | .xltPortMapNext => s.setPortMapNext w
      | .timPtpCfg => s.setPtpCfg w
      | .hstFnCtrl => if w = 1 then s.aqEnable a.idx else s.aqDisable a.idx
      | .rlyHayCfg => if s.debugScope 2 then s.setReg r a.blk a.idx w else s
      | _ => s.setReg r a.blk a.idx w

/-! ## Writes (R552-R554) -/

/-- Write 32 bits at a key: the low half of a 64-bit register is held until its high half comes. -/
def State.writeHalf (s : State) (req key : Nat) (v : Word) : State :=
  match s.regHere key with
  | none => s
  | some a =>
    if a.high then
      match latchOf s.regs.heldLow req (key - 4) with
      | some lo =>
        let s := { s with regs := { s.regs with heldLow := dropLatch s.regs.heldLow req (key - 4) } }
        s.writeWhole (key - 4) { a with high := false } (v.toNat * 2 ^ 32 + lo.toNat)
      | none => s.writeWhole (key - 4) { a with high := false } (v.toNat * 2 ^ 32 + s.regValue a.reg a.blk a.idx % 2 ^ 32)
    else if a.reg.row.wide then
      { s with regs := { s.regs with heldLow := dropLatch s.regs.heldLow req key ++ [(req, (key, v))] } }
    else s.writeWhole key a v.toNat

/-- REGISTER_WRITE: a 32-bit or 64-bit write; a 64-bit one writes a 64-bit register in one action, or two 32-bit registers one after the other. -/
def execRegisterWrite (req offset size : Nat) (v : DWord) (s : State) : Host.Outcome State Fault Refusal :=
  .next (
    if !s.barOpen req ∨ (size ≠ 4 ∧ size ≠ 8) ∨ offset % size ≠ 0 then s
    else
      match bar0Key req offset with
      | none => s
      | some key =>
        if size = 4 then s.writeHalf req key (v.setWidth 32)
        else
          match s.regHere key with
          | some a =>
            if a.reg.row.wide ∧ !a.high then s.writeWhole key a v.toNat
            else (s.writeHalf req key (v.setWidth 32)).writeHalf req (key + 4) (BitVec.ofNat 32 (v.toNat / 2 ^ 32))
          | none => s.writeHalf req (key + 4) (BitVec.ofNat 32 (v.toNat / 2 ^ 32)))

/-! ## Rows of their own -/

/-- A write of the PF to one instance of a register. -/
def State.writeReg (s : State) (r : Reg) (b : Nat) (w : Word) : State :=
  if !s.barOpen 0 then s else s.writeHalf 0 (r.off b 0) w

/-- GRN_PIN_CFG_WRITE. -/
def execGrnPinCfgWrite (die : Nat) (w : Word) (s : State) : Host.Outcome State Fault Refusal :=
  .next (if 24 ≤ die then s else s.writeReg .grnPinCfg die w)

/-- XLT_PORT_MAP_NEXT_WRITE. -/
def execXltPortMapNextWrite (w : Word) (s : State) : Host.Outcome State Fault Refusal := .next (s.writeReg .xltPortMapNext 0 w)

/-- TIM_PTP_CFG_WRITE. -/
def execTimPtpCfgWrite (w : Word) (s : State) : Host.Outcome State Fault Refusal := .next (s.writeReg .timPtpCfg 0 w)

end Sys2Proof.Machine
end

