-- ==== Sys2Proof/Machine/Startup.lean ====
section
/-! DEFINITION. The module: power, enumeration and start-up, the host port's resets, board management (R13-R40, R376, R461-R465, R561-R576, R583, R584). -/

namespace Sys2Proof.Machine

open Sys2Proof

/-! ## Converters (R569-R573) -/

def State.setMod (s : State) (f : Module → Module) : State := { s with mod := f s.mod }
def State.setStart (s : State) (f : Startup → Startup) : State := { s with start := f s.start }

/-- 46-56 V (Table 17-1). -/
def inputOk (mv : Nat) : Bool := decide (46000 ≤ mv) && decide (mv ≤ 56000)

/-- ENABLE_RISE: after at least 100 ms low and with the input and SYSCLK in range the converters start; else they stay off until ENABLE is cycled. -/
def execEnableRise (mv lowMs : Nat) (sysclk : Bool) (s : State) : Host.Outcome State Fault Refusal :=
  .next (
    if s.mod.enable then s
    else
      let s := s.setMod fun m => { m with enable := true, inputMv := mv, conv := if inputOk mv ∧ 100 ≤ lowMs then .starting else .blocked }
      if sysclk then s else s.powerOff 0xE11FF139)

/-- CONVERTER_REGULATION_TIMEOUT. -/
def execConverterRegulationTimeout (s : State) : Host.Outcome State Fault Refusal :=
  .next (if s.mod.conv = .starting then s.setMod fun m => { m with conv := .blocked } else s)

/-- POWER_GOOD: the converters regulate; the straps are sampled and start-up step 1 begins. -/
def execPowerGood (mode : Bool) (addr : BitVec 2) (s : State) : Host.Outcome State Fault Refusal :=
  .next (
    if s.mod.conv ≠ .starting ∨ !s.mod.enable then s
    else
      (s.setMod fun m =>
        { m with conv := .on, pwrgd := true, shdnHigh := true, mgmtMode := mode, mgmtAddr := addr, crs := true }).setStart fun t => { t with step := 1 })

/-- ENABLE_FALL: a module that runs shuts down, and PWR_LAST_SHUTDOWN is 0. -/
def execEnableFall (s : State) : Host.Outcome State Fault Refusal :=
  .next (
    if !s.mod.enable then s
    else (if s.mod.conv = .on then s.powerOff 0 else s).setMod fun m => { m with enable := false, conv := .off })

/-- The converters run or start. -/
def Module.powered (m : Module) : Bool := m.enable && (decide (m.conv = .on) || decide (m.conv = .starting))

/-- INPUT_OUT_OF_RANGE: the input has stood at `mv` for `us`, and fell from its range to below 20 V in `fallUs`: a shutdown, or a removal (Table 17-1,
R565). -/
def execInputOutOfRange (mv us fallUs : Nat) (s : State) : Host.Outcome State Fault Refusal :=
  .next (
    let s := s.setMod fun m => { m with inputMv := mv }
    let out := (!inputOk mv && decide (1000 ≤ us)) || decide (mv < 42000) || decide (60000 < mv)
    if !s.mod.powered ∨ !out then s else s.powerOff (if mv < 20000 ∧ fallUs < 1000 then 0 else 0xE11FF138))

/-- SYSCLK_LOSS. -/
def execSysclkLoss (ns : Nat) (s : State) : Host.Outcome State Fault Refusal :=
  .next (if !s.mod.powered ∨ ns < 1000 then s else s.powerOff 0xE11FF139)

/-! ## Start-up (R16-R31, R583, R584) -/

/-- A start-up step is in progress. -/
def State.starting (s : State) : Bool := s.mod.pwrgd && !s.start.done && !s.start.failed && decide (1 ≤ s.start.step)

/-- Start-up fails: CRS ends at that moment, and the first code of severity 0xE stands (R38); one of the root of trust shows in SEC_CODE. -/
def State.failStart (s : State) (c : Code) : State :=
  let s := if bits c 27 20 = 0x13 then { s with sec := { s.sec with code := c } } else s
  ((s.setStart fun t => { t with failed := true, code := if t.code = 0 then c else t.code }).setMod fun m => { m with crs := false }).logCode c

def State.nextStep (s : State) : State := s.setStart fun t => { t with step := t.step + 1 }

/-- Fields of a die record (Table 01-2). -/
def recFuse (r : DWord) : Nat := bits r 58 57
def recStatus (r : DWord) : Nat := bits r 56 53
def recStepping (r : DWord) : Nat := bits r 47 40
def recClass (r : DWord) : Nat := bits r 39 32

/-- A die record. -/
def dieRecord (pos fuse status logical rest : Nat) : DWord :=
  BitVec.ofNat 64 (pos * 2 ^ 59 + fuse * 2 ^ 57 + status * 2 ^ 53 + logical * 2 ^ 48 + rest % 2 ^ 48)

/-- Give a record a STATUS, or a logical number. -/
def withStatus (r : DWord) (st : Nat) : DWord := dieRecord (bits r 63 59) (recFuse r) st (bits r 52 48) (bits r 47 0)
def withLogical (r : DWord) (n : Nat) : DWord := dieRecord (bits r 63 59) (recFuse r) (recStatus r) n (bits r 47 0)

/-- Headland A's copy of a position's fused state (R20); 11 counts as defective (Table 01-1). -/
def State.fuse (s : State) (pos : Nat) : Nat := (getD 0 s.nv.fuses pos).toNat
def defective (fuse : Nat) : Bool := decide (2 ≤ fuse)

/-- The code that matches a STATUS (R584, Table 01-6). -/
def statusCode (st pos : Nat) : Option Code :=
  match st with
  | 1 => some (mkCode 0x20100010 pos)
  | 2 => some (mkCode 0x20100011 pos)
  | 3 => some (mkCode 0x20100012 pos)
  | 4 => some (mkCode 0x20100013 pos)
  | 6 => some (mkCode 0x20100014 pos)
  | 7 => some (mkCode 0x20100015 pos)
  | 8 => some (mkCode 0x20100016 pos)
  | _ => none

/-- Keep a position's record and report the code of its STATUS. -/
def State.putRecord (s : State) (pos : Nat) (r : DWord) : State :=
  let s := s.setStart fun t => { t with recs := setD 0 t.recs pos r }
  match statusCode (recStatus r) pos with
  | some c => s.logCode c
  | none => s

/-- The next position on the enumeration chain, from `pos` on: the bypass switches of the defective ones are closed (R20). -/
def State.chainFrom (s : State) (pos : Nat) : Nat := ((upto 28).find? fun p => decide (pos ≤ p) && !defective (s.fuse p)).getD 28

/-- Pass 1 begins: headland A writes the records of the positions fused defective (R583). -/
def State.beginChain (s : State) : State :=
  let bad := (upto 28).filter fun p => defective (s.fuse p)
  let s := bad.foldl (fun (s : State) p => s.putRecord p (dieRecord p (s.fuse p) 5 0x1F 0)) s
  s.setStart fun t => { t with chain := s.chainFrom 0 }

/-- DIE_RECORD_APPEND: the die's fuse value and headland A's copy give the more restrictive; the first check that fails gives the STATUS (R583, R584).
DESIGN CHOICE: until pass 2 numbers the dies, LOGICAL of every appended record is 0x1F; R20 gives that value for fallow dies only. -/
def execDieRecordAppend (pos : Nat) (rec : DWord) (s : State) : Host.Outcome State Fault Refusal :=
  .next (
    if !s.starting ∨ s.start.step ≠ 4 ∨ pos ≠ s.start.chain ∨ 28 ≤ pos then s
    else
      let fuse := max (recFuse rec) (s.fuse pos)
      let known := (s.sec.booted.map (·.steppings)).getD []
      let st := if defective fuse then 5
        else if recStatus rec = 4 then 4
        else if recClass rec ≠ s.nv.hlaClass.toNat then 7
        else if !known.contains (BitVec.ofNat 8 (recStepping rec)) then 8
        else 0
      let s := s.putRecord pos (dieRecord pos fuse st 0x1F (bits rec 47 0))
      s.setStart fun t => { t with chain := s.chainFrom (pos + 1) })

/-- ENUM_RESPONSE_TIMEOUT: the silent die's switch is closed, and headland A writes its record. -/
def execEnumResponseTimeout (pos : Nat) (s : State) : Host.Outcome State Fault Refusal :=
  .next (
    if !s.starting ∨ s.start.step ≠ 4 ∨ pos ≠ s.start.chain ∨ 28 ≤ pos then s
    else
      let s := s.putRecord pos (dieRecord pos (s.fuse pos) 6 0x1F 0)
      s.setStart fun t => { t with chain := s.chainFrom (pos + 1) })

/-! ### The fallow set (R17-R19) -/

/-- Orthogonally or diagonally adjacent positions. -/
def adjacent (a b : Nat) : Bool :=
  let near (x y : Nat) : Bool := decide (x ≤ y + 1) && decide (y ≤ x + 1)
  decide (a ≠ b) && near (a / 4) (b / 4) && near (a % 4) (b % 4)

/-- Port ends of a die's detour path; a die in row 0 or 6 has none (R29). -/
def detourEnds (pos : Nat) : List (Nat × Nat) := if 4 ≤ pos ∧ pos < 24 then (detour pos).flatMap fun h => [h.1, h.2] else []

/-- R17. -/
def admissible (f : List Nat) : Bool :=
  (f.all fun a => f.all fun b => decide (a = b) || (decide (a / 4 ≠ b / 4) && !adjacent a b)) &&
    let ends := f.flatMap detourEnds
    ends.all fun e => decide ((ends.filter fun x => decide (x = e)).length ≤ 2)

/-- Sublists of `k` members, earlier members first. -/
def choose : Nat → List Nat → List (List Nat)
  | 0, _ => [[]]
  | _ + 1, [] => []
  | k + 1, a :: l => (choose k l).map (fun c => a :: c) ++ choose (k + 1) l

/-- The candidates of R19 in order: by the number of fuse-enabled dies, then the higher positions first. -/
def candidates (k : Nat) (good : List Nat) (enabled : Nat → Bool) : List (List Nat) :=
  let all := choose k good.reverse
  (upto (k + 1)).flatMap fun n => all.filter fun c => decide ((c.filter enabled).length = n)

/-- R18: the fallow set, or the code of the failure. -/
def State.chooseFallow (s : State) : List Nat ⊕ Code :=
  let st (p : Nat) : Nat := recStatus (getD 0 s.start.recs p)
  let bad := (upto 28).filter fun p => decide (st p ≠ 0)
  let good := (upto 28).filter fun p => decide (st p = 0)
  let enabled (p : Nat) : Bool := decide (recFuse (getD 0 s.start.recs p) = 0)
  if 4 < bad.length then .inr 0xE01FF020
  else
    match (candidates (4 - bad.length) good enabled).find? fun k => admissible (bad ++ k) with
    | some k => .inl (bad ++ k)
    | none => .inr 0xE01FF021

/-- Step 7: logical numbers are the ranks of the enabled dies (R22); the feature level is their lowest STEPPING (R26); each die comes up. -/
def State.assignDies (s : State) (fallow : List Nat) : State :=
  let on := (upto 28).filter fun p => !fallow.contains p
  let low := on.foldl (fun m p => min m (recStepping (getD 0 s.start.recs p))) 0xFF
  let recs := on.mapIdx (fun n p => (p, withLogical (getD 0 s.start.recs p) n))
  let s := s.setStart fun t =>
    { t with fallow := BitVec.ofNat 28 (dieMask fallow), level := BitVec.ofNat 8 low, recs := recs.foldl (fun m e => setD 0 m e.1 e.2) t.recs }
  let (k, s) := s.takeFresh on.length
  { s with dies := on.mapIdx fun n p => (n, { Die.reset with pos := p, spares := getD 0 s.start.spares p, trained := some (k + n) }) }

/-! ### Lane roles and training (R28-R31, R37) -/

/-- The roles of a compute port's lane groups. -/
def State.rolesAt (s : State) (pos port : Nat) : Half :=
  let faces := match neighbour pos port with
    | some (q, _) => !s.fallowAt q
    | none => (decide (port = 0) && decide (pos < 4)) || (decide (port = 2) && decide (24 ≤ pos))
  if s.fallowAt pos ∨ !faces then 0
  else
    let e := (pos, port)
    let mask := ((upto 28).filter fun q => s.fallowAt q && (detourEnds q).contains e).foldl (fun (m : Byte) q => m ||| s.bypassGroups q e) 0
    BitVec.ofNat 16 (((upto 8).map fun g => (if bit mask g then 2 else 1) * 2 ^ (2 * g)).sum)

/-- The roles of a headland port: fabric, or off where it faces a fallow die (R31). -/
def State.headlandRoles (s : State) (h col : Nat) : Half := if s.fallowAt (if h = 0 then col else 24 + col) then 0 else 0x5555

def State.assignRoles (s : State) : State :=
  let compute := (upto 28).flatMap fun p => (upto 4).map fun q => (4 * p + q, s.rolesAt p q)
  let heads := (upto 2).flatMap fun h => (upto 4).map fun c => (112 + 4 * h + c, s.headlandRoles h c)
  s.setStart fun t => { t with roles := (compute ++ heads).foldl (fun m e => setD 0 m e.1 e.2) [] }

/-- The number of a port end among the results of training. -/
def State.endKey (s : State) (p : PortRef) : Nat := if p.node < 24 then 4 * (s.die p.node).pos + p.port else 112 + 4 * (p.node - 0x1E) + p.port

/-- Every port end that has a role. -/
def State.portEnds (s : State) : List PortRef :=
  let all := ((upto 24).flatMap fun d => (upto 4).map fun q => ({ node := d, port := q } : PortRef)) ++
    (upto 2).flatMap fun h => (upto 4).map fun c => ({ node := 0x1E + h, port := c } : PortRef)
  all.filter fun p => decide (s.portRole p ≠ 0)

/-- Train every port with the groups that pass at both its ends; a bypass link that does not come up is reported (R316, R322). -/
def State.trainAll (s : State) (r : StepResult) : State :=
  let pass (p : PortRef) : Byte := (find? r.lanesPass (s.endKey p)).getD 0
  let s := s.portEnds.foldl (fun (s : State) p =>
    s.setHport p { HPort.reset with st := .training, bypassUp := pass p &&& roleGroups (s.portRole p) 2, thr := (s.hport p).thr }) s
  let s := (upto 24).foldl (fun (s : State) d => (upto 4).foldl (fun (s : State) q =>
    match s.partner d q with
    | some o => s.trainPort d q (pass { node := d, port := q } &&& pass o)
    | none => s) s) s
  s.reportLinks ((upto 28).filter fun q => s.fallowAt q && decide (4 ≤ q) && decide (q < 24))

/-- The spots that a spot is joined to by active ports and up bypass links. -/
def State.joined (s : State) (a : Spot) : List Spot :=
  let go (h : Hop) : List Spot := match h with
    | .port _ b => [b]
    | .bypass b => [b]
    | .blocked _ => []
  let inner := decide (0 ≤ a.row) && decide (a.row ≤ 6)
  (if a.row = -1 then [] else go (s.vertical a (-1))) ++ (if a.row = 7 then [] else go (s.vertical a 7)) ++
    (if inner ∧ a.col < 3 then go (s.horizontal a (a.col + 1)) else []) ++ (if inner ∧ 0 < a.col then go (s.horizontal a (a.col - 1)) else [])

/-- What is reached in `n` steps. -/
def State.reached (s : State) : Nat → List Spot → List Spot
  | 0, l => l
  | n + 1, l => s.reached n ((l.flatMap s.joined).foldl (fun a x => if a.contains x then a else a ++ [x]) l)

/-- Every die is connected to both headlands (R37), and has a valid route to and from every other die and both headlands (R321). -/
def State.connected (s : State) : Bool :=
  ([(-1 : Int), 7].all fun r =>
    let l := s.reached 40 ((upto 4).map fun c => ({ row := r, col := c } : Spot))
    (upto 24).all fun d => l.contains (s.spotOf d 0)) && (upto 24).all fun d => !s.isolated d

/-! ### The steps (Table 01-5) -/

/-- Step 2: the boot ROM tries the active bank, then the other (R517, R518, R520). -/
def State.boot (s : State) : State :=
  let v := s.nv
  let ok (b : Bool) : Bool := v.bundleOk (v.bank b) && v.svnOk (v.bank b)
  let a := v.activeBank
  if !ok a ∧ !ok (!a) then s.failStart 0xE13FF190
  else
    let b := if ok a then a else !a
    let bundle := bundleOf (v.bank b)
    let idKey := mldsaKey v.idSeed
    let attKey := mldsaKey (v.attSeed bundle.dm)
    let code : Code := if b = a then s.sec.code else 0x213FF194
    let x := { s.sec with booted := some bundle, bootBank := b, code := code, udsLocked := true, idKey := idKey, attKey := attKey }
    let s := { s with sec := { x with attCertSig := mldsaSig v.idSeed (attKey ++ natLe 64 bundle.dm.toNat),
                                      panelId := BitVec.ofNat 256 (Config.sha3 idKey).toNat } }
    (if b = a then s else s.logCode code).nextStep

/-- Steps 5 and 6: positions at STATUS 0 that fail take the STATUS. -/
def State.failDies (s : State) (st : Nat) (ps : List Nat) : State :=
  (upto 28).foldl (fun (s : State) p =>
    let r := getD 0 s.start.recs p
    if ps.contains p ∧ recStatus r = 0 then s.putRecord p (withStatus r st) else s) s

/-- Step 10: the stored port map is in force; each of its ports trains or is left down (R37, R325). -/
def State.openPorts (s : State) (up : Half) : State :=
  let map := s.nv.portMap
  let used := (upto 16).filter fun p => decide (bits map (2 * p + 1) (2 * p) ≠ 0)
  let s := s.setStart fun t => { t with portMap := map }
  let s := { s with link := { s.link with up := BitVec.ofNat 16 (dieMask (used.filter fun p => bit up p)) } }
  (used.filter fun p => !bit up p).foldl (fun (s : State) p => s.logCode (mkCode 0x20200030 p)) s

/-- The host link trains with a partner that offers Flit mode, one of the port's data rates and at least eight lanes; else it stays in Detect (Table
13-1). -/
def linkTrains (p : LinkPartner) : Bool := p.flit && decide (1 ≤ p.rate) && decide (8 ≤ p.lanes)

/-- Step 12: the panel is in service; CRS ends and the Device Readiness Status message is sent (R33, R34). -/
def State.enterService (s : State) : State :=
  ((s.setStart fun t => { t with done := true }).setMod fun m => { m with crs := false, linkUp := !m.perst && linkTrains m.partner }).out .drs

/-- STARTUP_STEP_COMPLETE: the step in progress ends, with what it found. DESIGN CHOICE: where several images fail in step 9, start-up fails with the
code of the lowest position, and the others are not reported: R32 and Table 01-6 leave it open. -/
def execStartupStepComplete (r : StepResult) (s : State) : Host.Outcome State Fault Refusal :=
  .next (
    if !s.starting then s
    else
      match s.start.step with
      | 1 => s.nextStep
      | 2 => s.boot
      | 3 =>
        if !r.hlbImageOk then s.failStart 0xE13FB191
        else if s.nv.hlbClass ≠ s.nv.hlaClass then s.failStart 0xE01FB022
        else s.beginChain.nextStep
      | 4 => if s.start.chain < 28 then s else s.nextStep
      | 5 => ((s.failDies 1 r.logicFail).failDies 2 r.sramFail).nextStep
      | 6 => ((s.failDies 3 r.trainFail).setStart fun t => { t with spares := r.spareUsed.foldl (fun m e => setD 0 m e.1 e.2) [] }).nextStep
      | 7 =>
        match s.chooseFallow with
        | .inl f => (s.assignDies f).nextStep
        | .inr c => s.failStart c
      | 8 =>
        let s := (s.assignRoles.trainAll r).newRoutes
        if s.connected then s.nextStep else s.failStart 0xE01FF023
      | 9 =>
        match (upto 28).find? fun p => !s.fallowAt p && r.imageFail.contains p with
        | some p => s.failStart (mkCode 0xE1300192 p)
        | none =>
          match s.sec.booted with
          | some b => ((upto 24).foldl (fun (s : State) d => s.modDie d fun x => { x with image := b.cdDigest, imageVer := b.cdVersion }) s).nextStep
          | none => s.nextStep
      | 10 => (s.openPorts r.xltUp).nextStep
      | 11 => (s.setTime { s.time with running := true }).nextStep
      | _ => s.enterService)

/-! ## The host port (R33-R35, R376) -/

/-- What a configuration write changes (Tables 13-1, 13-2): a function's power state, and the PF's BAR4 window. -/
def State.configure (s : State) (f : Nat) (r : ConfigReq) : State :=
  match r with
  | .other => s
  | .toD3hot => s.modFn f fun x => { x with d3hot := true }
  | .bar4Window g => if f = 0 ∧ g ≤ 6 then { s with host := { s.host with bar4Window := g } } else s

/-- CONFIG_REQUEST: it arrives over a link that has trained; answered with CRS until step 12 completes or start-up fails, whatever function it names,
and by a function in reset; a function that does not exist answers nothing but Unsupported Request. -/
def execConfigRequest (f : Nat) (r : ConfigReq) (s : State) : Host.Outcome State Fault Refusal :=
  .next (
    if !s.mod.pwrgd ∨ s.mod.perst ∨ !linkTrains s.mod.partner then s
    else
      let s := s.setMod fun m => { m with linkUp := true }
      if s.mod.crs then s.out (.config f true)
      else if !s.fnExists f then s.out .unsupported
      else if (s.fn f).resetting then s.out (.config f true)
      else (s.configure f r).out (.config f false))

/-- PERST#, a hot reset or a lost link after start-up: a function-level reset of the PF, counted and reported (R376). -/
def State.hostReset (s : State) : State :=
  if !s.start.done then s
  else
    let s := s.count .hstLinkEvents 0 0 1
    ((s.resetFn 0).logMctp 0x20DFF0F6)

/-- PERST_ASSERT: ignored while PWRGD is low; during start-up it resets the PCIe controller and the host block alone. -/
def execPerstAssert (s : State) : Host.Outcome State Fault Refusal :=
  .next (if !s.mod.pwrgd ∨ s.mod.perst then s else (s.setMod fun m => { m with perst := true, linkUp := false }).hostReset)

/-- PERST_DEASSERT: the link trains with the partner that it finds. -/
def execPerstDeassert (p : LinkPartner) (s : State) : Host.Outcome State Fault Refusal :=
  .next (if !s.mod.pwrgd then s else s.setMod fun m => { m with perst := false, partner := p, linkUp := linkTrains p })

/-- HOT_RESET. -/
def execHotReset (s : State) : Host.Outcome State Fault Refusal := .next (if !s.mod.pwrgd ∨ s.mod.perst then s else s.hostReset)

/-- HOST_LINK_LOSS_TIMEOUT: the link has been down for 10 ms. -/
def execHostLinkLossTimeout (s : State) : Host.Outcome State Fault Refusal :=
  .next (if !s.mod.pwrgd ∨ s.mod.perst ∨ !s.mod.linkUp ∨ !s.start.done then s else (s.setMod fun m => { m with linkUp := false }).hostReset)

/-! ## Board management (R574-R576) -/

/-- The endpoint answers from the end of step 2, and in the failed state. -/
def State.mctpOn (s : State) : Bool := s.mod.pwrgd && (decide (3 ≤ s.start.step) || s.start.failed)

/-- Answer a management command with words and a completion code. -/
def State.mctp (s : State) (ws : List Nat) (code : Byte) : State := s.out (.mctp (ws.map fun n => BitVec.ofNat 64 n) code)

/-- The highest of a value over the enabled dies. -/
def State.highest (s : State) (f : Die → Nat) : Nat := (s.dies.map fun e => f e.2).foldl max 0

/-- GET_TELEMETRY. -/
def execGetTelemetry (s : State) : Host.Outcome State Fault Refusal :=
  .next (
    if !s.mctpOn then s
    else
      let v (r : Reg) : Nat := s.regValue r 0 0
      s.mctp [v .pwrInput, v .pwrHlTemp, s.highest (·.td), s.highest (·.ts), v .pwrCapEff, v .glbStartupStatus] 0)

/-- Log entries of severity 0x8 or 0xE from an index on. -/
def State.severeFrom (s : State) (i : Nat) : List (Nat × LogEntry) :=
  (upto 256).filterMap fun k => if k < i then none else (find? s.rel.log k).bind fun e =>
    if severity e.code = 8 ∨ severity e.code = 14 then some (k, e) else none

/-- GET_ERRORS: up to 16 severe entries, code and time; those it reaches no longer hold MGMT_ALERT# low. -/
def execGetErrors (index : Byte) (s : State) : Host.Outcome State Fault Refusal :=
  .next (
    if !s.mctpOn then s
    else
      let all := s.severeFrom index.toNat
      let es := all.take 16
      let last := if all.length ≤ 16 then 255 else (es.getLast?.map (·.1)).getD 0
      let v (r : Reg) : Nat := s.regValue r 0 0
      let ws := [v .glbStartupCode, v .pwrLastShutdown, v .rlyLogHead] ++ es.flatMap fun e => [e.2.code.toNat, e.2.time]
      (s.setMod fun m => { m with alerts := m.alerts.filter fun k => decide (k < index.toNat) || decide (last < k) }).mctp ws 0)

/-- SET_CAP: 600-1,500 W; another value changes nothing. -/
def execSetCap (watts : Half) (s : State) : Host.Outcome State Fault Refusal :=
  .next (
    let n := watts.toNat
    if !s.mctpOn then s
    else if n < 600 ∨ 1500 < n then s.mctp [] 2
    else (s.setReg .pwrCapBmc 0 0 n).mctp [n] 0)

/-- GET_IDENTITY. -/
def execGetIdentity (s : State) : Host.Outcome State Fault Refusal :=
  .next (
    if !s.mctpOn then s
    else
      let v (r : Reg) : Nat := s.regValue r 0 0
      let id := (upto 4).map fun i => bits s.sec.panelId (64 * i + 63) (64 * i)
      s.mctp ([v .glbId, v .glbSerial] ++ id ++ [v .glbFwVersion, v .glbHlStep]) 0)

/-- I3C_DYNAMIC_ADDRESS: SETDASA or ENTDAA, on a bus strapped as I3C. -/
def execI3cDynamicAddress (addr : BitVec 7) (s : State) : Host.Outcome State Fault Refusal :=
  .next (if !s.mctpOn ∨ s.mod.mgmtMode then s else s.setMod fun m => { m with dynAddr := some addr })

/-- MCTP_CONTROL_MESSAGE: Set Endpoint ID, Get Endpoint ID, Get Message Type Support; another command is answered as unsupported. PRESUMED: the
commands, fields and completion codes of DMTF DSP0236. -/
def execMctpControlMessage (code eid : Byte) (s : State) : Host.Outcome State Fault Refusal :=
  .next (
    if !s.mctpOn then s
    else if code = 1 then
      if eid = 0 ∨ eid = 0xFF then s.mctp [] 2 else (s.setMod fun m => { m with eid := eid }).mctp [eid.toNat] 0
    else if code = 2 then s.mctp [s.mod.eid.toNat] 0
    else if code = 5 then s.mctp [1, 0x7E] 0
    else s.mctp [] 5)

end Sys2Proof.Machine
end

