-- ==== Sys2Proof/Machine/Upset.lean ====
section
/-! DEFINITION. Errors in the panel's own memories and stacks, as their reads find them (R167, R482, Table 18-3). -/

namespace Sys2Proof.Machine

open Sys2Proof

/-- An uncorrectable error of a die's granary, data caches, register files or reeve memory is counted (Table 18-10). -/
def State.sramUe (s : State) (d : Nat) : State := s.count .rlySramUe d 0 1

/-- A seedbed granule with a multi-bit error is poisoned and counted (R167). -/
def State.upsetGranule (s : State) (slice g : Nat) : State :=
  if 2 ^ 17 ≤ g ∨ (s.core slice).sbPoison.contains g then s
  else (s.modCore slice fun c => { c with sbPoison := addOnce g c.sbPoison }).count .rlySbdUe (dieOf slice) 0 1

/-- A granary sector with an uncorrectable error is poisoned; in a refetchable page that starts a refetch (R482, R486). -/
def State.upsetSector (s : State) (n : Nat) : State :=
  match s.gline? n with
  | none => s
  | some l =>
    match find? l.secs (n % 4) with
    | none => s
    | some g => ((s.putGline n { l with secs := insert l.secs (n % 4) { g with poison := true } }).sramUe (homeOf n)).startRefetch n

/-- A data-cache sector with an uncorrectable error: a clean one is invalidated, so that the next access fetches it again; one in M is written
back poisoned (Table 18-3). -/
def State.upsetLine (s : State) (slice n : Nat) : State :=
  match s.line? slice n with
  | none => s
  | some l =>
    match l.st with
    | .s => (s.dropLine slice n).sramUe (dieOf slice)
    | .m => ((s.setLine slice n { l with poison := true }).evictLine slice n).sramUe (dieOf slice)
    | _ => s

/-- The running path's instruction reads a register with an uncorrectable error: the poisoned-data trap, DETAIL 0 (Table 18-3). -/
def State.upsetRegister (s : State) (d : DrillRef) (threads word : DWord) : State :=
  match s.drill? d with
  | none => s
  | some x =>
    match x.cur with
    | none => s
    | some p =>
      if !s.coreIssues d.slice ∨ x.status ≠ .active ∨ x.mem ≠ none ∨ p.mask &&& threads = 0 then s
      else (s.park d .poisoned (p.mask &&& threads) 0 word).sramUe (dieOf d.slice)

/-- The instruction at the array's head, changed. -/
def State.modHead (s : State) (slice : Nat) (f : ArrayInstr → ArrayInstr) : State :=
  s.modCore slice fun c => match c.queue with
    | a :: _ => c.putInstr (f a)
    | [] => c

/-- A weight cell that holds another bit: the running instruction's accumulator entry becomes `v`, and the checksum columns stay (R58-R62). -/
def State.upsetWeight (s : State) (slice entry : Nat) (v : Word) : State :=
  s.modHead slice fun a => if a.phase = .queued then a else { a with acc := setD 0 a.acc entry v }

/-- A parity error of the accumulator store: the running instruction completes with status 4 (Table 18-3). -/
def State.upsetAccumulator (s : State) (slice : Nat) : State :=
  s.modHead slice fun a => if a.phase = .queued then a else { a with poisonMet := true }

/-- A fault of a headland's memories or control processors: the panel leaves service, in the state of R38, with the code in
GLB_STARTUP_CODE when it is the first of severity 0xE. -/
def State.headlandFault (s : State) (b : Bool) : State :=
  let c : Code := if b then 0xE12FB180 else 0xE12FA180
  (s.reportPF c).setStart fun t => { t with failed := true, code := if t.code = 0 then c else t.code }

/-- The logical die on whose memories an error lies; a headland's has none. -/
def upsetDie : Upset → Option Nat
  | .corrected d | .tags d | .onDie d => some d
  | .granary n => some (homeOf n)
  | .line k _ | .seedbedCorrected k | .seedbed k _ | .accumulator k | .weight k _ _ => some (dieOf k)
  | .register d _ _ => some (dieOf d.slice)
  | .codeword cw _ => some (homeOf (cw / 4))
  | .parity ch _ => some (ch / 16)
  | .fec _ _ | .headland _ => none

/-- Nobody finds an error of a panel that is not in service, or of a die under reset or out of service. -/
def State.unread (s : State) (u : Upset) : Bool :=
  !s.inService || (match upsetDie u with
    | some d => decide (24 ≤ d) || !s.dieUp d
    | none => false)

/-- What one error does (R167, Table 18-3). -/
def State.upset (s : State) : Upset → State
  | .corrected d => s.count .rlySramCe d 0 1
  | .seedbedCorrected k => s.count .rlySbdCe (dieOf k) 0 1
  | .seedbed k g => s.upsetGranule k g
  | .granary n => s.upsetSector n
  | .line k n => s.upsetLine k n
  | .tags d => (s.sramUe d).startReset d (mkCode 0x81200150 d)
  | .register d m w => s.upsetRegister d m w
  | .accumulator k => s.upsetAccumulator k
  | .weight k e v => s.upsetWeight k e v
  | .onDie d => s.count .memOdeccCe d 0 1
  | .codeword cw bad => { s with mem := { s.mem with errs := (cw, bad) :: s.mem.errs.filter fun e => decide (e.1 ≠ cw) } }
  | .parity ch n => { s with mem := { s.mem with parity := setD 0 s.mem.parity ch n } }
  | .fec p ok => s.count (if ok then .xltFecCe else .xltFecUe) 0 p 1
  | .headland b => s.headlandFault b

/-- The errors that reads found, oldest first. -/
def State.upsets (s : State) (us : List Upset) : State :=
  us.foldl (fun (s : State) u => if s.unread u then s else s.upset u) s

end Sys2Proof.Machine
end

