-- ==== Sys2Proof/Machine/Hayward.lean ====
section
/-! DEFINITION. The hayward: the wait-for graph of Table 18-4, wait-for cycles and stalls, and the reset of the hung partition (R491-R496). -/

namespace Sys2Proof.Machine

open Sys2Proof

/-! ## Nodes (Table 18-4) -/

/-- A waiting node: its key (kind × 2^48 + number), its partition, the compositions it serves, what shows its progress, the keys its edges lead to. The
key 0 stands for whatever is not a waiting node. -/
structure HNode where
  key : Nat
  die : Nat
  comps : List Nat
  print : List Nat
  edges : List Nat
  deriving DecidableEq, Repr

def hKey (k id : Nat) : Nat := k * 2 ^ 48 + id
def HNode.kind (n : HNode) : Nat := n.key / 2 ^ 48

/-- The number of a path: its drill and its lowest thread. -/
def pathId (d : DrillRef) (p : Path) : Nat := (d.slice * 32 + slotKey d) * 64 + ((threads p.mask).headD 0)

/-- The key of a path that waits at a barrier, a counter, a token or for its drain; 0 for a path that is not a node. -/
def pathKey (d : DrillRef) (p : Path) : Nat :=
  let id := 2 ^ 40 + pathId d p
  match p.wait with
  | .barrier _ => hKey 2 id
  | .tally _ _ => hKey 3 id
  | .transfer _ => hKey 1 id
  | .array _ | .arrayAll => hKey 5 id
  | .runnable | .lock _ | .sync => 0

def xferKey (q : XQueue) (x : Xfer) : Nat := hKey 1 ((q.die * 16 + q.q) * 2 ^ 32 + x.token.toNat)
def arrayKey (slice : Nat) (a : ArrayInstr) : Nat := hKey 5 (slice * 2 ^ 32 + a.token.toNat)
def drainKey (d : DrillRef) : Nat := hKey 5 (2 ^ 41 + d.slice * 32 + slotKey d)

/-- Every live path of a drill. -/
def Drill.allPaths (x : Drill) : List Path := x.cur.toList ++ x.paths

/-- The edges to a drill: to each of its paths but those that wait for its other threads; outside the graph while it is parked or issues. -/
def drillEdges (d : DrillRef) (x : Drill) : List Nat :=
  match x.status with
  | .parked _ => [0]
  | .draining _ _ _ => [drainKey d]
  | .active => if x.mem.isSome then [0] else (x.allPaths.filter fun p => decide (p.wait ≠ .sync)).map fun p => pathKey d p

/-- Every queue of a die in service, and its transfers. -/
def State.allXfers (s : State) : List (XQueue × Xfer) :=
  (upto 24).flatMap fun d => (upto 9).flatMap fun i =>
    let q : XQueue := { die := d, q := i }
    (s.xfers q).map fun x => (q, x)

/-- The earlier operations of a core that the range tracker makes an access wait for (R99, R101, R186). -/
def Core.holders (c : Core) (die qi slice seq : Nat) (rs ws : List Span) : List Nat :=
  ((c.queue.filter fun a => decide (a.seq < seq) && (anyOverlap (rs ++ ws) a.writes || anyOverlap ws a.reads)).map fun a => arrayKey slice a) ++
    (c.xfers.filter fun x => decide (x.seq < seq) && (anyOverlap (rs ++ ws) x.writes || anyOverlap ws x.reads)).map fun x =>
      xferKey { die := die, q := qi } x

/-- Descriptor queues (kind 0): a launch queue whose head record finds no free slot. DEDUCED (log 58): the spec bounds no reeve command queue, so its
head can always be taken; an SQ waits only for the host, which frees its completion slots. -/
def hLaunch (k : Nat) (c : Core) : List HNode :=
  match c.launches with
  | [] => []
  | l :: _ =>
    let es := if l.engine = 4 then upto 4 else [l.engine]
    if !l.ok ∨ es.any fun e => !(c.freeSlots e).isEmpty then []
    else
      let ds := c.drills.filter fun e => es.contains (e.1 / 8)
      [{ key := hKey 0 k, die := dieOf k, comps := [l.comp], print := [c.launches.length, l.w0.toNat, l.w2.toNat, l.w3.toNat],
         edges := ds.flatMap fun e => drillEdges ⟨k, e.1 / 8, e.1 % 8⟩ e.2 }]

/-- The pending buffers in which a transfer's chunks wait. -/
def State.homesOf (s : State) (q : XQueue) (x : Xfer) : List Nat :=
  s.dies.flatMap fun d => d.2.pend.filterMap fun e => match e.2 with
    | .ticket (.chunk r t _) => if r = q ∧ t = x.token then some (hKey 6 (d.1 * 64 + segmentOf e.1)) else none
    | _ => none

/-- Transfers that wait for the range tracker or do not move (kind 1). -/
def State.hXfer (s : State) (q : XQueue) (x : Xfer) : List HNode :=
  let tracker := match x.phase with
    | .waiting => if q.q < 8 then (s.core (XQueue.slice q)).holders q.die q.q (XQueue.slice q) x.seq x.reads x.writes else []
    | _ => []
  [{ key := xferKey q x, die := q.die, comps := [x.comp], print := [x.done.length, x.bad.length], edges := tracker ++ s.homesOf q x }]

/-- The paths of a drill (kinds 1, 2, 3 and 5). -/
def State.hPath (s : State) (d : DrillRef) (x : Drill) (p : Path) : List HNode :=
  let c := s.core d.slice
  let q : XQueue := { die := dieOf d.slice, q := d.slice % 8 }
  let mk (print edges : List Nat) : List HNode :=
    [{ key := pathKey d p, die := dieOf d.slice, comps := [x.comp], print := p.since :: print, edges := edges }]
  match p.wait with
  | .barrier b =>
    mk [] (c.drills.flatMap fun e =>
      let r : DrillRef := ⟨d.slice, e.1 / 8, e.1 % 8⟩
      let here := e.2.allPaths.any fun y => decide (y.wait = .barrier b)
      if e.2.context ≠ x.context ∨ r = d ∨ here then [] else drillEdges r e.2)
  | .tally n _ =>
    let xs := s.allXfers.filter fun e => let g := xferDesc e.2.desc; g.tally && decide (g.tslice = d.slice) && decide (g.tctr = n)
    mk [(c.tally n).value.toNat] (xs.map fun e => xferKey e.1 e.2)
  | .transfer t =>
    let xs := c.xfers.filter fun y => decide (y.use = .drill d) && decide (0 ≤ (t - y.token).toInt)
    mk [(xs.map fun y => y.done.length).sum, xs.length] (xs.map fun y => xferKey q y)
  | .array t => mk [c.arrayDone.toNat] ((c.queue.filter fun a => decide (0 ≤ (t - a.token).toInt)).map fun a => arrayKey d.slice a)
  | .arrayAll => mk [c.arrayDone.toNat] ((c.drillArrays d).map fun a => arrayKey d.slice a)
  | .runnable | .lock _ | .sync => []

/-- A drill that drains (kind 5). -/
def State.hDrain (s : State) (d : DrillRef) (x : Drill) : List HNode :=
  let c := s.core d.slice
  match x.status with
  | .draining _ _ _ =>
    [{ key := drainKey d, die := dieOf d.slice, comps := [x.comp], print := [c.arrayDone.toNat], edges := (c.drillArrays d).map fun a => arrayKey d.slice a }]
  | _ => []

/-- Array instructions that have not started (kind 5). -/
def hArray (k : Nat) (c : Core) : List HNode :=
  (c.queue.filter fun a => decide (a.phase = .queued)).map fun a =>
    { key := arrayKey k a, die := dieOf k, comps := [a.comp], print := [c.arrayDone.toNat],
      edges := c.holders (dieOf k) (k % 8) k a.seq a.reads a.writes }

/-- The port, and the message as it would leave by it, for a message at a node that waits there for a credit. -/
def State.creditHeld (s : State) (node port : Nat) (m : HdgMsg) : Option (PortRef × HdgMsg) :=
  let a := s.spotOf node (s.column node port m)
  match s.forward a m.level m.mrow m.mcol m.dst with
  | .hop l (.port dir _) => (s.portAt a dir).bind fun p => if (s.hport p).canSend (m.setLevel l) then none else some (p, m.setLevel l)
  | _ => none

def creditKey (p : PortRef) (vc : Nat) : Nat := hKey 4 ((nodeBlock p.node * 4 + p.port) * 8 + vc)

/-- What a message in an input buffer waits for: a credit, its home's pending buffer, or room in the reroute buffer, which the credits of the messages
in it free; 0 if it can go. -/
def State.messageEdges (s : State) (node port : Nat) (m : HdgMsg) : List Nat :=
  if s.staleMsg m ∨ (m.dst < 24 ∧ !s.dieUp m.dst) then [0]
  else
    match s.creditHeld node port m with
    | some (p, m) => [creditKey p m.vc]
    | none =>
      let a := s.spotOf node (s.column node port m)
      match s.forward a m.level m.mrow m.mcol m.dst with
      | .deliver => [if s.unitWaits node m then hKey 6 (node * 64 + (bits m.hdr 114 111 - 8)) else 0]
      | .hop _ (.blocked dir) =>
        if m.flits ≤ (s.switch node).rerouteRoom dir then [0]
        else ((s.switch node).reroute.filter fun r => decide (r.port = dir)).flatMap fun r =>
          match s.creditHeld node 4 r.msg with
          | some (p, m) => [creditKey p m.vc]
          | none => [0]
      | _ => [0]

/-- Messages held for lack of a credit (kind 4): the credit of the port they must leave by, with an edge for each message that holds the receiver's
buffer. A headland's port counts to the partition at its other end; nobody waits on a partition under reset. -/
def State.hCredit (s : State) (node : Nat) : List HNode :=
  let w := s.switch node
  let ready := (w.reroute.filter fun r => r.ready).map fun r => (4, r.msg)
  (w.inbox.map (fun h => (h.port, h.msg)) ++ ready).filterMap fun h =>
    match s.creditHeld node h.1 h.2 with
    | none => none
    | some (p, m) =>
      let x := s.hport p
      match s.partnerOf p with
      | none => none
      | some o =>
        if o.node < 24 ∧ !s.dieUp o.node then none
        else
          let there := (s.switch o.node).inbox.filter fun g => decide (g.port = o.port) && decide (g.msg.vc = m.vc)
          some { key := creditKey p m.vc, die := if p.node < 24 then p.node else o.node, comps := [],
                 print := [getD 0 x.credits m.vc, getD 0 x.credits 8, x.txSeq.toNat],
                 edges := there.flatMap fun g => s.messageEdges o.node g.port g.msg }

/-- Home segments with a transaction under way or a full pending buffer (kind 6). -/
def State.hSegment (s : State) (d : Nat) : List HNode :=
  let x := s.die d
  let full (g : Nat) : Bool := decide (64 ≤ (x.pend.filter fun e => decide (segmentOf e.1 = g)).length)
  let segs := distinct ((x.trans.map fun e => segmentOf e.1) ++ (x.pend.map fun e => segmentOf e.1).filter full)
  segs.map fun g => { key := hKey 6 (d * 64 + g), die := d, comps := [], edges := [], print := [getD 0 x.segDone g] }

/-- Held accesses of a region move, and an epoch change that waits for the drills of the old epoch (kind 7). -/
def State.hComp (s : State) (c : Nat) (x : Comp) : List HNode :=
  let final := x.move.any fun m => decide (m.phase = .final)
  let old := x.prev.isSome && (x.change.isSome || x.settling.isSome) && !s.drained c x
  if !final && !old then []
  else
    let edges := if final then [] else
      s.cores.flatMap fun k => (k.2.drills.filter fun e => decide (e.2.comp = c) && decide (e.2.epoch ≠ x.cur.epoch)).flatMap fun e =>
        drillEdges ⟨k.1, e.1 / 8, e.1 % 8⟩ e.2
    let left := match x.move with
      | some m => m.marks.length
      | none => 0
    [{ key := hKey 7 c, die := dieOf (x.cur.slices.headD 0), comps := [c], edges := edges, print := [x.cur.epoch.toNat, left] }]

/-- A drill held for a debugger (R494). -/
def State.debugHeld (s : State) (x : Drill) : Bool :=
  match x.status with
  | .parked _ => s.debugScope 0
  | _ => false

/-- Every waiting node. The saved image of a switched-out context is not looked at (R494). -/
def State.hNodes (s : State) : List HNode :=
  let cores := s.cores.flatMap fun k =>
    hLaunch k.1 k.2 ++ hArray k.1 k.2 ++ k.2.drills.flatMap fun e =>
      let d : DrillRef := ⟨k.1, e.1 / 8, e.1 % 8⟩
      if s.debugHeld e.2 then [] else s.hDrain d e.2 ++ e.2.allPaths.flatMap fun p => s.hPath d e.2 p
  let xs := s.allXfers.flatMap fun e => s.hXfer e.1 e.2
  let nodes := s.nodes.flatMap fun n => s.hCredit n
  let segs := (upto 24).flatMap fun d => if s.dieUp d then s.hSegment d else []
  cores ++ xs ++ nodes ++ segs ++ s.yoke.comps.flatMap fun e => s.hComp e.1 e.2

/-- Compositions whose nodes wait on a reset or a refetch, and are ignored while it runs (R494). -/
def State.exempt (s : State) (c : Nat) : Bool :=
  match s.comp? c with
  | none => true
  | some x =>
    let pages := s.dies.flatMap fun d => d.2.refetch.map (·.2.comp)
    x.serve.restarting || (x.cur.slices.any fun k => decide ((s.die (dieOf k)).part = .resetting)) || pages.contains c ||
      (x.cur.regions.any fun r => r.shared && pages.contains r.srcComp) || (find? s.rel.hay.grace c).any fun t => decide (s.time.now < t)

/-! ## Cycles and stalls (R492, R493) -/

/-- Nodes left after removing, `n` times over, those without edges or with an edge that leads outside: the largest wait-for cycle. -/
def closedSet : Nat → List HNode → List HNode
  | 0, ns => ns
  | n + 1, ns => closedSet n (ns.filter fun x => !x.edges.isEmpty && x.edges.all fun k => ns.any fun y => decide (y.key = k))

/-- The members that a member's edges lead to, directly or not. -/
def reach : Nat → List HNode → List Nat → List Nat
  | 0, _, ks => ks
  | n + 1, ns, ks => reach n ns (((ns.filter fun x => ks.contains x.key).flatMap (·.edges)).foldl (fun a k => addOnce k a) ks)

/-- The node counts on from the last sample unless it made progress; a node that was not there begins at 1. -/
def hCount (old : List (Nat × Nat)) (seen : List (Nat × List Nat)) (n : HNode) : Nat :=
  if find? seen n.key = some n.print then (find? old n.key).getD 0 + 1 else 1

/-- The node of the lowest die. -/
def lowestDie : List HNode → Option HNode
  | [] => none
  | n :: ns =>
    match lowestDie ns with
    | some m => if m.die < n.die then some m else some n
    | none => some n

/-- A hang is declared: counted, and its partition resets with the code (R496). -/
def State.hang (s : State) (die base : Nat) : State := (s.count .rlyHayHangs 0 0 1).startReset die (mkCode base die)

/-- HAYWARD_SAMPLE: meet the memory errors that reads found since the last sample; take the sample of this millisecond, once; a cycle in its third sample,
and a node in its fiftieth, without progress are hangs (R491-R493). -/
def execHaywardSample (us : List Upset) (s : State) : Host.Outcome State Fault Refusal :=
  .next (
    let s := s.upsets us
    if !s.inService ∨ s.reg .rlyHayCfg 0 0 % 2 = 0 ∨ s.time.now / 1000000 = s.rel.hay.last then s
    else
      let ns := s.hNodes.filter fun n => s.dieUp n.die && !(n.comps.any fun c => s.exempt c)
      let h := s.rel.hay
      let still := ns.map fun n => (n.key, hCount h.still h.seen n)
      let ring := closedSet ns.length ns
      let cyc := ring.map fun n => (n.key, hCount h.cyc h.seen n)
      let s := { s with rel := { s.rel with hay :=
        { h with still := still.foldl (fun m e => insert m e.1 e.2) [], cyc := cyc.foldl (fun m e => insert m e.1 e.2) [],
                 seen := ns.foldl (fun m n => insert m n.key n.print) [],
                 grace := h.grace.filter fun e => decide (s.time.now < e.2), last := s.time.now / 1000000 } } }
      -- members of a cycle all of whose members have stood for three samples
      let old := closedSet ring.length (ring.filter fun n => 3 ≤ (find? cyc n.key).getD 0)
      let s := match lowestDie old with
        | some n =>
          let ks := reach old.length old [n.key]
          let part := old.filter fun m => ks.contains m.key
          let die := ((lowestDie part).map (·.die)).getD n.die
          s.hang die (0x81200140 + part.foldl (fun k m => min k m.kind) 7)
        | none => s
      let stalled := ns.filter fun n => decide (50 ≤ ((still.find? fun e => decide (e.1 = n.key)).map (·.2)).getD 0)
      stalled.foldl (fun (s : State) n => if s.dieUp n.die then s.hang n.die (0x81200148 + n.kind) else s) s)

end Sys2Proof.Machine
end

