-- ==== Sys2Proof/Machine/Integer.lean ====
section
/-! DEFINITION. The integer and predicate class (Table 05-3). -/

namespace Sys2Proof.Machine

open Sys2Proof

/-- U of MOD bit [7]: unsigned (R151). -/
def iU (w : DWord) : Bool := bit w 31

/-- b[4:0] and b[9:5] + 1: position and width of a bit field. -/
def fldPos (b : Word) : Nat := bits b 4 0
def fldWidth (b : Word) : Nat := bits b 9 5 + 1

/-- The field of width `n` at bit `p`; bits above bit 31 read as 0. -/
def fldExtract (a : Word) (p n : Nat) : Nat := (a.toNat >>> p) % 2 ^ n

/-- The field sign-extended to 32 bits. -/
def fldSigned (a : Word) (p n : Nat) : Word := BitVec.ofInt 32 (signedOf n (fldExtract a p n))

/-- `c` with its field replaced by the low bits of `a`; bits above bit 31 are dropped. -/
def fldInsert (a c : Word) (p n : Nat) : Word :=
  let m : Word := BitVec.ofNat 32 ((2 ^ n - 1) <<< p)
  (c &&& ~~~ m) ||| (BitVec.ofNat 32 (a.toNat <<< p) &&& m)

/-- Number of 1 bits among the low `n`. -/
def onesBelow (a : Word) : Nat → Nat
  | 0 => 0
  | n + 1 => onesBelow a n + b2n (bit a n)

/-- Leading zeros of the low `n` bits. -/
def clzBelow (a : Word) : Nat → Nat
  | 0 => 0
  | n + 1 => if bit a n then 0 else 1 + clzBelow a n

/-- The low `n` bits in reversed order. -/
def revBelow (a : Word) : Nat → Nat
  | 0 => 0
  | n + 1 => revBelow a n + b2n (bit a n) * 2 ^ (31 - n)

/-- Two-source integer operation: every executing thread's destination takes `h a b`. -/
def State.int2 (s : State) (d : DrillRef) (f : Fetched) (op : Nat) (h : Word → Word → Word) : State :=
  s.alu d f 0x0 op fun x act => x.writeEach f.word act fun t => h (x.srcA f.word t) (x.srcB f.word t)

/-- One-source integer operation. -/
def State.int1 (s : State) (d : DrillRef) (f : Fetched) (op : Nat) (h : Word → Word) : State :=
  s.alu d f 0x0 op fun x act => x.writeEach f.word act fun t => h (x.srcA f.word t)

/-- Three-source integer operation. -/
def State.int3 (s : State) (d : DrillRef) (f : Fetched) (op : Nat) (h : Word → Word → Word → Word) : State :=
  s.alu d f 0x0 op fun x act => x.writeEach f.word act fun t => h (x.srcA f.word t) (x.srcB f.word t) (x.srcC f.word t)

/-- Signed or unsigned comparison, by U. -/
def intLt (w : DWord) (a b : Word) : Bool := intCond 2 (iU w) a b

def execMov (d : DrillRef) (f : Fetched) (s : State) : Host.Outcome State Fault Refusal :=
  .next (s.alu d f 0x0 0x00 fun x act => x.writeEach f.word act fun t => x.srcB f.word t)

def execMovh (d : DrillRef) (f : Fetched) (s : State) : Host.Outcome State Fault Refusal :=
  .next (s.alu d f 0x0 0x01 fun x act => x.writeEach f.word act fun t =>
    BitVec.ofNat 32 ((iImm f.word % 65536) * 65536 + bits (x.rd (iDU f.word) t (iDst f.word)) 15 0))

def execIadd (d : DrillRef) (f : Fetched) (s : State) : Host.Outcome State Fault Refusal :=
  .next (s.int2 d f 0x02 fun a b => a + b)

def execIsub (d : DrillRef) (f : Fetched) (s : State) : Host.Outcome State Fault Refusal :=
  .next (s.int2 d f 0x03 fun a b => a - b)

def execImul (d : DrillRef) (f : Fetched) (s : State) : Host.Outcome State Fault Refusal :=
  .next (s.int2 d f 0x04 fun a b => a * b)

def execImulhi (d : DrillRef) (f : Fetched) (s : State) : Host.Outcome State Fault Refusal :=
  .next (s.int2 d f 0x05 fun a b =>
    if iU f.word then BitVec.ofNat 32 (a.toNat * b.toNat / 2 ^ 32) else BitVec.ofInt 32 (a.toInt * b.toInt / 2 ^ 32))

def execImla (d : DrillRef) (f : Fetched) (s : State) : Host.Outcome State Fault Refusal :=
  .next (s.int3 d f 0x06 fun a b c => a * b + c)

def execImin (d : DrillRef) (f : Fetched) (s : State) : Host.Outcome State Fault Refusal :=
  .next (s.int2 d f 0x07 fun a b => if intLt f.word b a then b else a)

def execImax (d : DrillRef) (f : Fetched) (s : State) : Host.Outcome State Fault Refusal :=
  .next (s.int2 d f 0x08 fun a b => if intLt f.word a b then b else a)

def execIabs (d : DrillRef) (f : Fetched) (s : State) : Host.Outcome State Fault Refusal :=
  .next (s.int1 d f 0x09 fun a => if bit a 31 then -a else a)

def execAnd (d : DrillRef) (f : Fetched) (s : State) : Host.Outcome State Fault Refusal :=
  .next (s.int2 d f 0x0A fun a b => a &&& b)

def execOr (d : DrillRef) (f : Fetched) (s : State) : Host.Outcome State Fault Refusal :=
  .next (s.int2 d f 0x0B fun a b => a ||| b)

def execXor (d : DrillRef) (f : Fetched) (s : State) : Host.Outcome State Fault Refusal :=
  .next (s.int2 d f 0x0C fun a b => a ^^^ b)

def execNot (d : DrillRef) (f : Fetched) (s : State) : Host.Outcome State Fault Refusal :=
  .next (s.int1 d f 0x0D fun a => ~~~ a)

def execShl (d : DrillRef) (f : Fetched) (s : State) : Host.Outcome State Fault Refusal :=
  .next (s.int2 d f 0x0E fun a b => a <<< bits b 4 0)

def execShr (d : DrillRef) (f : Fetched) (s : State) : Host.Outcome State Fault Refusal :=
  .next (s.int2 d f 0x0F fun a b => if iU f.word then a >>> bits b 4 0 else a.sshiftRight (bits b 4 0))

def execOnes (d : DrillRef) (f : Fetched) (s : State) : Host.Outcome State Fault Refusal :=
  .next (s.int1 d f 0x10 fun a => BitVec.ofNat 32 (onesBelow a 32))

def execClz (d : DrillRef) (f : Fetched) (s : State) : Host.Outcome State Fault Refusal :=
  .next (s.int1 d f 0x11 fun a => BitVec.ofNat 32 (clzBelow a 32))

def execBitrev (d : DrillRef) (f : Fetched) (s : State) : Host.Outcome State Fault Refusal :=
  .next (s.int1 d f 0x12 fun a => BitVec.ofNat 32 (revBelow a 32))

def execFldx (d : DrillRef) (f : Fetched) (s : State) : Host.Outcome State Fault Refusal :=
  .next (s.int2 d f 0x13 fun a b =>
    if iU f.word then BitVec.ofNat 32 (fldExtract a (fldPos b) (fldWidth b)) else fldSigned a (fldPos b) (fldWidth b))

def execFldi (d : DrillRef) (f : Fetched) (s : State) : Host.Outcome State Fault Refusal :=
  .next (s.int3 d f 0x14 fun a b c => fldInsert a c (fldPos b) (fldWidth b))

def execItest (d : DrillRef) (f : Fetched) (s : State) : Host.Outcome State Fault Refusal :=
  .next (s.alu d f 0x0 0x15 fun x act => x.writePred f.word act fun t =>
    intCond (iModBits f.word 10 8) (iU f.word) (x.srcA f.word t) (x.srcB f.word t))

def execPick (d : DrillRef) (f : Fetched) (s : State) : Host.Outcome State Fault Refusal :=
  .next (s.alu d f 0x0 0x16 fun x act => x.writeEach f.word act fun t =>
    if x.pbit t (iC f.word) then x.srcA f.word t else x.srcB f.word t)

def execPlogic (d : DrillRef) (f : Fetched) (s : State) : Host.Outcome State Fault Refusal :=
  .next (s.alu d f 0x0 0x17 fun x act =>
    x.setP (iDst f.word) act (predOp (iModBits f.word 10 8) (x.preg (iA f.word)) (x.preg (iB f.word))))

/-- p7…p0 of a thread as a number. -/
def Drill.preds (x : Drill) (t : Nat) : Nat :=
  (upto 8).foldl (fun n r => n + b2n (x.pbit t r) * 2 ^ r) 0

def execPgather (d : DrillRef) (f : Fetched) (s : State) : Host.Outcome State Fault Refusal :=
  .next (s.alu d f 0x0 0x18 fun x act => x.writeEach f.word act fun t => BitVec.ofNat 32 (x.preds t))

def execPscatter (d : DrillRef) (f : Fetched) (s : State) : Host.Outcome State Fault Refusal :=
  .next (s.alu d f 0x0 0x19 fun x act =>
    (upto 8).foldl (fun y r => y.setP r act (maskWhere (fun t => bit (x.srcA f.word t) r) 64)) x)

def execIadd64 (d : DrillRef) (f : Fetched) (s : State) : Host.Outcome State Fault Refusal :=
  .next (s.alu d f 0x0 0x1A fun x act => x.writePair f.word act fun t =>
    x.rdPair (iAU f.word) t (iA f.word) + x.rdPair (iBU f.word) t (iB f.word))

end Sys2Proof.Machine
end

