-- ==== Sys2Proof/Machine/Memory.lean ====
section
/-! DEFINITION. The memory and atomic classes (Tables 05-8 to 05-10). -/

namespace Sys2Proof.Machine

open Sys2Proof

/-- Issue a memory instruction; one whose answers are due is tried again. -/
def State.memIssue (s : State) (d : DrillRef) (f : Fetched) (cls op : Nat) (body : Drill → Path → DWord → Option State) : State :=
  match (s.drill? d).bind (·.mem) with
  | some m => if m.word = f.word then s.memPump d else s
  | none => s.issue d f cls op false body

/-- Start waiting for the answers of the sectors `keys`; those that need no message come at once. -/
def State.await (s : State) (d : DrillRef) (x : Drill) (w act : DWord) (due : List Nat) (got : List (Nat × Nat)) (bad : List (Nat × DWord)) : State :=
  (s.setDrill d { x with mem := some { word := w, active := act, due := due, got := got, bad := bad, watch := [], woken := false } }).memPump d

/-- A load acquires: ORD 01, or any plain device load under G1 ordering (R204, R221). -/
def loadAcquires (w : DWord) : Bool := decide (iOrd w = 1)

/-- The seedbed load: every value at once (R166, R202). -/
def State.seedbedLoad (s : State) (d : DrillRef) (x : Drill) (w act : DWord) (ts : List Nat) : Option State :=
  let bytes := sizeBytes (iSize w)
  match pickTrap (s.sbTraps d x w ts bytes true) with
  | some (t, mask, a) => some (s.park d t (if iDU w && iAU w then act else mask) a w)
  | none =>
    if s.tracked d.slice (x.sbSpans w ts bytes) [] then none
    else
      let c := s.core d.slice
      let y := ts.foldl (fun (y : Drill) t =>
        y.wrN (iDU w) t (iDst w) (sizeRegs (iSize w))
          (extendLoad (iSize w) (leNat (readBytes c.seedbed (x.seedbedAddr w t).toNat bytes)))) x
      some (s.setDrill d y.retire)

/-- The leased sectors that no fetch can be sent for: each fails and is counted, and its threads meet poison (R252). -/
def unleased (ps : List (Acc × Place)) : List Nat :=
  distinct (ps.filterMap fun e => match e.2 with
    | .noLease k => some k
    | _ => none)

def Place.isUnleased : Place → Bool
  | .noLease _ => true
  | _ => false

/-- The sectors, of this panel or leased, that accesses wait for. -/
def dueKeys (ps : List (Acc × Place)) : List Nat :=
  distinct (ps.filterMap fun e => match e.2 with
    | .dev _ n _ => some n
    | .lease k _ => some k
    | _ => none)

/-- The global load: traps of translation, holds, then the answers of its sectors (R157, R209, R250). A load of a sector waits for the core's
add-to-lines there (R202). -/
def State.globalLoad (s : State) (d : DrillRef) (x : Drill) (w act : DWord) (ts : List Nat) : Option State :=
  let bytes := sizeBytes (iSize w)
  let as := s.accs x w ts bytes false true
  match pickTrap (accTraps as) with
  | some (t, mask, a) => some (s.park d t (if iDU w && iAU w then act else mask) a w)
  | none =>
    let ps := accPlaces as
    if accHeld as ∨ s.tracked d.slice (ps.flatMap fun e => e.2.span e.1.addr bytes) [] then none
    else
      match s.hostLoads d x bytes (loadAcquires w) ps with
      | none => none
      | some (s, got) =>
        let bad := ps.filterMap fun e => if e.2.isUnleased then some (e.1.thread, e.1.addr) else none
        let s := if bad.isEmpty then s else s.count .grnLeaseFail (dieOf d.slice) 0 (unleased ps).length
        some (s.await d ((s.drill? d).getD x) w act (dueKeys ps) got bad)

/-- LD: Table 05-9. -/
def execLd (d : DrillRef) (f : Fetched) (s : State) : Host.Outcome State Fault Refusal :=
  .next (s.memIssue d f 0x5 0x00 fun x _ act =>
    let ts := memThreads f.word act
    if iSeedbed f.word then s.seedbedLoad d x f.word act ts else s.globalLoad d x f.word act ts)

/-- The bytes thread `t` stores. -/
def Drill.storeBytes (x : Drill) (w : DWord) (t : Nat) : List Byte :=
  natLe (sizeBytes (iSize w)) (x.rdN (iDU w) t (iDst w) (sizeRegs (iSize w)))

/-- The seedbed store: the highest-indexed thread's byte stands (R173). -/
def State.seedbedStore (s : State) (d : DrillRef) (x : Drill) (w : DWord) (ts : List Nat) : Option State :=
  let bytes := sizeBytes (iSize w)
  match pickTrap (s.sbTraps d x w ts bytes false) with
  | some (t, mask, a) => some (s.park d t mask a w)
  | none =>
    if s.tracked d.slice [] (x.sbSpans w ts bytes) then none
    else
      let c := ts.foldl (fun (c : Core) t => c.sbPut (x.seedbedAddr w t).toNat (x.storeBytes w t)) (s.core d.slice)
      let c := c.sbClear fun i => ts.any fun t => decide ((x.seedbedAddr w t).toNat ≤ i) && decide (i < (x.seedbedAddr w t).toNat + bytes)
      some ((s.setCore d.slice c).setDrill d x.retire)

/-- A store releases: ORD 01, or any plain device store under G1 ordering (R205, R221). -/
def storeReleases (x : Drill) (w : DWord) : Bool := decide (iOrd w = 1) || x.g1

/-- The global store (R157, R173, R205, R210, R218, R222). -/
def State.globalStore (s : State) (d : DrillRef) (x : Drill) (w act : DWord) (ts : List Nat) : Option State :=
  let bytes := sizeBytes (iSize w)
  let as := s.accs x w ts bytes true false
  match pickTrap (accTraps as) with
  | some (t, mask, a) => some (s.park d t mask a w)
  | none =>
    let ps := accPlaces as
    let dev := ps.filter fun e => match e.2 with
      | .dev _ _ _ => true
      | _ => false
    if accHeld as ∨ s.tracked d.slice [] (ps.flatMap fun e => e.2.span e.1.addr bytes) ∨
        (!dev.isEmpty ∧ storeReleases x w ∧ !s.allPerformed d x) ∨ (iOrd w = 1 ∧ !s.allPerformed d x) then none
    else
      let s := ps.foldl (fun (s : State) e => match e.2 with
        | .host i => s.hostStore d x i (x.storeBytes w e.1.thread)
        | _ => s) s
      some (s.await d ((s.drill? d).getD x) w act (distinct (dev.map fun e => e.2.key)) [] [])

/-- ST: Table 05-9. -/
def execSt (d : DrillRef) (f : Fetched) (s : State) : Host.Outcome State Fault Refusal :=
  .next (s.memIssue d f 0x5 0x01 fun x _ act =>
    if iSeedbed f.word then s.seedbedStore d x f.word (threads act) else s.globalStore d x f.word act (threads act))

/-- PREF: no trap on an unmapped or poisoned address, and no effect there; a misaligned one and a seedbed address beyond 4 MiB trap. It ends once each
sector's home has taken the request (R159, R235, R252). -/
def execPref (d : DrillRef) (f : Fetched) (s : State) : Host.Outcome State Fault Refusal :=
  .next (s.memIssue d f 0x5 0x02 fun x _ act =>
    let bytes := sizeBytes (iSize f.word)
    let bad := if iSeedbed f.word then s.sbTraps d x f.word (threads act) bytes false
      else accTraps ((threads act).filterMap fun t =>
        let a := x.globalAddr f.word t
        if a.toNat % bytes ≠ 0 then some { thread := t, addr := a, res := .trap .misaligned } else none)
    match pickTrap bad with
    | some (t, mask, a) => some (s.park d t mask a f.word)
    | none =>
      if iSeedbed f.word then some (s.setDrill d x.retire)
      else
        let as := s.accs x f.word (threads act) 1 false true
        let ps := accPlaces as
        if accHeld as then none
        else
          let s := if (unleased ps).isEmpty then s else s.count .grnLeaseFail (dieOf d.slice) 0 (unleased ps).length
          some (s.await d x f.word act (dueKeys ps) [] []))

/-! ## Atomics (R128-R130, R160, R271) -/

/-- The TYPE of an atomic. -/
def atomTy (w : DWord) : AtomTy :=
  match iSize w with
  | 0 => .u32
  | 1 => .s32
  | 2 => .f32
  | 3 => .bf16x2
  | _ => .u64

/-- Operand B or C of an atomic's member. -/
def Drill.atomSrc (x : Drill) (w : DWord) (uni : Bool) (t i : Nat) : DWord := BitVec.ofNat 64 (x.rdN uni t i (typeRegs (iSize w)))

/-- Threads of an atomic: once where its destination is drill-uniform (R146). -/
def atomThreads (w act : DWord) : List Nat := if iDU w then [0] else threads act

/-- The groups of equal addresses, members in ascending thread order (R128, R129). -/
def atomGroupsOf (as : List (Nat × Nat)) : List (Nat × List Nat) :=
  as.foldl (fun (gs : List (Nat × List Nat)) e =>
    if gs.any fun g => decide (g.1 = e.1) then gs.map fun g => if g.1 = e.1 then (g.1, g.2 ++ [e.2]) else g
    else gs ++ [(e.1, [e.2])]) []

/-- A group's message (Table 09-2). -/
def Drill.group (x : Drill) (d : DrillRef) (w : DWord) (op : AtomOp) (byte : Nat) (uncached : Bool) (ts : List Nat) : AtomGroup where
  drill := d
  context := x.context
  dst := iDst w
  op := op
  ty := atomTy w
  byte := byte
  ord := iOrd w
  hint := iHint w
  uncached := uncached
  members := ts.map fun t => { thread := t, b := x.atomSrc w (iBU w) t (iB w), c := if op = .cas then x.atomSrc w (iCU w) t (iC w) else 0 }

/-- The seedbed atomic, performed at the bank (R173). -/
def State.seedbedAtomic (s : State) (d : DrillRef) (x : Drill) (w act : DWord) (op : AtomOp) (returns : Bool) : Option State :=
  let bytes := atomBytes (atomTy w)
  let ts := atomThreads w act
  match pickTrap (s.sbTraps d x w ts bytes true) with
  | some (t, mask, a) => some (s.park d t (if iDU w then act else mask) a w)
  | none =>
    if s.tracked d.slice [] (x.sbSpans w ts bytes) then none
    else
      let gs := atomGroupsOf (ts.map fun t => ((x.seedbedAddr w t).toNat, t))
      let (c, y) := gs.foldl (fun (r : Core × Drill) g =>
        let grp := x.group d w op 0 false g.2
        let (v, olds) := groupRun grp (leNat (readBytes r.1.seedbed g.1 bytes)) grp.members
        (r.1.sbPut g.1 (natLe bytes v),
         if returns then (g.2.zip olds).foldl (fun (z : Drill) e => z.wrN (iDU w) e.1 (iDst w) (typeRegs (iSize w)) e.2.toNat) r.2
         else r.2)) (s.core d.slice, x)
      some ((s.setCore d.slice c).setDrill d y.retire)

/-- Whether an atomic must wait: for a store or add-to-line of its core to one of the sectors, or, as a release, for every earlier access (R147, R202,
R205, R221). -/
def State.atomHeld (s : State) (d : DrillRef) (x : Drill) (w : DWord) (ns : List Nat) : Bool :=
  (ns.any fun n => s.coreHolds d.slice n) || ((decide (2 ≤ iOrd w) || x.g1) && !s.allPerformed d x)

/-- Perform a host-memory atomic's groups, read, changed and written in the drill's one step (R110, R129): the old values by thread. -/
def State.hostAtomics (s : State) (d : DrillRef) (x : Drill) (w : DWord) (op : AtomOp) (ps : List (Acc × Place)) : State × List (Nat × Nat) :=
  let at_ := ps.filterMap fun e => match e.2 with
    | .host i => some (i, e.1.thread)
    | _ => none
  (atomGroupsOf at_).foldl (fun (r : State × List (Nat × Nat)) g =>
    let (s, olds) := r.1.hostAtomic d x (x.group d w op 0 false g.2) g.1
    (s, r.2 ++ (g.2.zip olds).map fun e => (e.1, e.2.toNat))) (s, [])

/-- The global atomic: a poisoned sector traps before any member takes effect (R133); else each group goes to its sector's home
(R271), or is performed in host memory, and all but RADD wait for the old values. -/
def State.globalAtomic (s : State) (d : DrillRef) (x : Drill) (w act : DWord) (op : AtomOp) (returns : Bool) : Option State :=
  let bytes := atomBytes (atomTy w)
  let ts := atomThreads w act
  let as := (s.accs x w ts bytes true false).map fun a => match a.res with
    | .at_ (.dev _ n _) => if s.sectorPoisoned n then { a with res := .trap .poisoned } else a
    | _ => a
  match pickTrap (accTraps as) with
  | some (t, mask, a) => some (s.park d t (if iDU w then act else mask) a w)
  | none =>
    let ps := accPlaces as
    let dev := ps.filterMap fun e => match e.2 with
      | .dev y n b => some (256 * n + b, e.1.thread, y.uncached)
      | _ => none
    if accHeld as ∨ s.tracked d.slice [] (ps.flatMap fun e => e.2.span e.1.addr bytes) ∨
        s.atomHeld d x w (dev.map fun e => e.1 / 256) then none
    else
      let gs := atomGroupsOf (dev.map fun e => (e.1, e.2.1))
      let unc (k : Nat) : Bool := dev.any fun e => decide (e.1 = k) && e.2.2
      let s := gs.foldl (fun (s : State) g =>
        let grp := x.group d w op (g.1 % 256) (unc g.1) g.2
        s.send (g.1 / 256) d.slice (if returns then .atomReq grp else .raddReq grp)) s
      let (s, got) := s.hostAtomics d x w op ps
      let x := (s.drill? d).getD x
      if returns then
        let m : MemWait := { word := w, active := act, due := gs.map (·.1), got := got, bad := [], watch := [], woken := false }
        some ((s.setDrill d { x with mem := some m }).memFinish d)
      else
        let under := gs.map fun (g : Nat × List Nat) =>
          ({ key := raddKey (g.1 / 256), mask := maskWhere (fun t => g.2.contains t) 64, addr := x.globalAddr w (g.2.headD 0),
             pc := (x.cur.map (·.pc)).getD 0, word := w } : Unperf)
        some (s.setDrill d { x with unperformed := x.unperformed ++ under }.retire)

/-- An operation of the atomic class. -/
def State.atomic (s : State) (d : DrillRef) (f : Fetched) (code : Nat) (op : AtomOp) (returns : Bool) : State :=
  s.memIssue d f 0x6 code fun x _ act =>
    if iSeedbed f.word then s.seedbedAtomic d x f.word act op returns else s.globalAtomic d x f.word act op returns

def execAadd (d : DrillRef) (f : Fetched) (s : State) : Host.Outcome State Fault Refusal := .next (s.atomic d f 0x00 .add true)
def execAmin (d : DrillRef) (f : Fetched) (s : State) : Host.Outcome State Fault Refusal := .next (s.atomic d f 0x01 .min true)
def execAmax (d : DrillRef) (f : Fetched) (s : State) : Host.Outcome State Fault Refusal := .next (s.atomic d f 0x02 .max true)
def execAand (d : DrillRef) (f : Fetched) (s : State) : Host.Outcome State Fault Refusal := .next (s.atomic d f 0x03 .and true)
def execAor (d : DrillRef) (f : Fetched) (s : State) : Host.Outcome State Fault Refusal := .next (s.atomic d f 0x04 .or true)
def execAxor (d : DrillRef) (f : Fetched) (s : State) : Host.Outcome State Fault Refusal := .next (s.atomic d f 0x05 .xor true)
def execAxch (d : DrillRef) (f : Fetched) (s : State) : Host.Outcome State Fault Refusal := .next (s.atomic d f 0x06 .xch true)
def execAcas (d : DrillRef) (f : Fetched) (s : State) : Host.Outcome State Fault Refusal := .next (s.atomic d f 0x07 .cas true)
/-- RADD: an add-to-line that returns nothing (R160, R246). -/
def execRadd (d : DrillRef) (f : Fetched) (s : State) : Host.Outcome State Fault Refusal := .next (s.atomic d f 0x08 .add false)

end Sys2Proof.Machine
end

