-- ==== Sys2Proof/Machine/Dispatch.lean ====
section
/-! DEFINITION. One arm per command: each a direct call of its meaning, or its refusal by name. -/

namespace Sys2Proof.Machine

open Sys2Proof

def exec (i : Instr) (s : State) : Host.Outcome State Fault Refusal :=
  match i with
  | .enableRise mv lowMs sysclk => Sys2Proof.Machine.execEnableRise mv lowMs sysclk s
  | .converterRegulationTimeout => Sys2Proof.Machine.execConverterRegulationTimeout s
  | .powerGood mode addr => Sys2Proof.Machine.execPowerGood mode addr s
  | .startupStepComplete r => Sys2Proof.Machine.execStartupStepComplete r s
  | .dieRecordAppend pos rec => Sys2Proof.Machine.execDieRecordAppend pos rec s
  | .enumResponseTimeout pos => Sys2Proof.Machine.execEnumResponseTimeout pos s
  | .configRequest fn r => Sys2Proof.Machine.execConfigRequest fn r s
  | .perstAssert => Sys2Proof.Machine.execPerstAssert s
  | .perstDeassert p => Sys2Proof.Machine.execPerstDeassert p s
  | .hotReset => Sys2Proof.Machine.execHotReset s
  | .hostLinkLossTimeout => Sys2Proof.Machine.execHostLinkLossTimeout s
  | .enableFall => Sys2Proof.Machine.execEnableFall s
  | .inputOutOfRange mv us fallUs => Sys2Proof.Machine.execInputOutOfRange mv us fallUs s
  | .sysclkLoss ns => Sys2Proof.Machine.execSysclkLoss ns s
  | .getTelemetry => Sys2Proof.Machine.execGetTelemetry s
  | .getErrors index => Sys2Proof.Machine.execGetErrors index s
  | .setCap watts => Sys2Proof.Machine.execSetCap watts s
  | .getIdentity => Sys2Proof.Machine.execGetIdentity s
  | .i3cDynamicAddress addr => Sys2Proof.Machine.execI3cDynamicAddress addr s
  | .mov d f => Sys2Proof.Machine.execMov d f s
  | .movh d f => Sys2Proof.Machine.execMovh d f s
  | .iadd d f => Sys2Proof.Machine.execIadd d f s
  | .isub d f => Sys2Proof.Machine.execIsub d f s
  | .imul d f => Sys2Proof.Machine.execImul d f s
  | .imulhi d f => Sys2Proof.Machine.execImulhi d f s
  | .imla d f => Sys2Proof.Machine.execImla d f s
  | .imin d f => Sys2Proof.Machine.execImin d f s
  | .imax d f => Sys2Proof.Machine.execImax d f s
  | .iabs d f => Sys2Proof.Machine.execIabs d f s
  | .and d f => Sys2Proof.Machine.execAnd d f s
  | .or d f => Sys2Proof.Machine.execOr d f s
  | .xor d f => Sys2Proof.Machine.execXor d f s
  | .not d f => Sys2Proof.Machine.execNot d f s
  | .shl d f => Sys2Proof.Machine.execShl d f s
  | .shr d f => Sys2Proof.Machine.execShr d f s
  | .ones d f => Sys2Proof.Machine.execOnes d f s
  | .clz d f => Sys2Proof.Machine.execClz d f s
  | .bitrev d f => Sys2Proof.Machine.execBitrev d f s
  | .fldx d f => Sys2Proof.Machine.execFldx d f s
  | .fldi d f => Sys2Proof.Machine.execFldi d f s
  | .itest d f => Sys2Proof.Machine.execItest d f s
  | .pick d f => Sys2Proof.Machine.execPick d f s
  | .plogic d f => Sys2Proof.Machine.execPlogic d f s
  | .pgather d f => Sys2Proof.Machine.execPgather d f s
  | .pscatter d f => Sys2Proof.Machine.execPscatter d f s
  | .iadd64 d f => Sys2Proof.Machine.execIadd64 d f s
  | .fadd d f => Sys2Proof.Machine.execFadd d f s
  | .fsub d f => Sys2Proof.Machine.execFsub d f s
  | .fmul d f => Sys2Proof.Machine.execFmul d f s
  | .fmac d f => Sys2Proof.Machine.execFmac d f s
  | .fmin d f => Sys2Proof.Machine.execFmin d f s
  | .fmax d f => Sys2Proof.Machine.execFmax d f s
  | .ftest d f => Sys2Proof.Machine.execFtest d f s
  | .frcp d f => Sys2Proof.Machine.execFrcp d f s
  | .frsq d f => Sys2Proof.Machine.execFrsq d f s
  | .fsqrt d f => Sys2Proof.Machine.execFsqrt d f s
  | .fex2 d f => Sys2Proof.Machine.execFex2 d f s
  | .flg2 d f => Sys2Proof.Machine.execFlg2 d f s
  | .ftanh d f => Sys2Proof.Machine.execFtanh d f s
  | .fsin d f => Sys2Proof.Machine.execFsin d f s
  | .fcos d f => Sys2Proof.Machine.execFcos d f s
  | .fdotbp d f => Sys2Proof.Machine.execFdotbp d f s
  | .cvt d f => Sys2Proof.Machine.execCvt d f s
  | .cvts d f => Sys2Proof.Machine.execCvts d f s
  | .qmx d f => Sys2Proof.Machine.execQmx d f s
  | .lread d f => Sys2Proof.Machine.execLread d f s
  | .pall d f => Sys2Proof.Machine.execPall d f s
  | .pany d f => Sys2Proof.Machine.execPany d f s
  | .pmask d f => Sys2Proof.Machine.execPmask d f s
  | .lreduce d f => Sys2Proof.Machine.execLreduce d f s
  | .ltake d f => Sys2Proof.Machine.execLtake d f s
  | .ld d f => Sys2Proof.Machine.execLd d f s
  | .st d f => Sys2Proof.Machine.execSt d f s
  | .pref d f => Sys2Proof.Machine.execPref d f s
  | .aadd d f => Sys2Proof.Machine.execAadd d f s
  | .amin d f => Sys2Proof.Machine.execAmin d f s
  | .amax d f => Sys2Proof.Machine.execAmax d f s
  | .aand d f => Sys2Proof.Machine.execAand d f s
  | .aor d f => Sys2Proof.Machine.execAor d f s
  | .axor d f => Sys2Proof.Machine.execAxor d f s
  | .axch d f => Sys2Proof.Machine.execAxch d f s
  | .acas d f => Sys2Proof.Machine.execAcas d f s
  | .radd d f => Sys2Proof.Machine.execRadd d f s
  | .mfence d f => Sys2Proof.Machine.execMfence d f s
  | .twait d f => Sys2Proof.Machine.execTwait d f s
  | .tpoll d f => Sys2Proof.Machine.execTpoll d f s
  | .tread d f => Sys2Proof.Machine.execTread d f s
  | .lwait d f => Sys2Proof.Machine.execLwait d f s
  | .lwaitTimeout d pc => Sys2Proof.Machine.execLwaitTimeout d pc s
  | .dsync d f => Sys2Proof.Machine.execDsync d f s
  | .cbar d f => Sys2Proof.Machine.execCbar d f s
  | .amm d f => Sys2Proof.Machine.execAmm d f s
  | .await d f => Sys2Proof.Machine.execAwait d f s
  | .apoll d f => Sys2Proof.Machine.execApoll d f s
  | .afence d f => Sys2Proof.Machine.execAfence d f s
  | .xsub d f => Sys2Proof.Machine.execXsub d f s
  | .xwait d f => Sys2Proof.Machine.execXwait d f s
  | .xpoll d f => Sys2Proof.Machine.execXpoll d f s
  | .xfence d f => Sys2Proof.Machine.execXfence d f s
  | .bra d f => Sys2Proof.Machine.execBra d f s
  | .brind d f => Sys2Proof.Machine.execBrind d f s
  | .call d f => Sys2Proof.Machine.execCall d f s
  | .exit d f => Sys2Proof.Machine.execExit d f s
  | .nop d f => Sys2Proof.Machine.execNop d f s
  | .trap d f => Sys2Proof.Machine.execTrap d f s
  | .dbreak d f => Sys2Proof.Machine.execDbreak d f s
  | .sreg d f => Sys2Proof.Machine.execSreg d f s
  | .faultRecordWrite die => Sys2Proof.Machine.execFaultRecordWrite die s
  | .parkReplay d edit => Sys2Proof.Machine.execParkReplay d edit s
  | .parkSkip d edit => Sys2Proof.Machine.execParkSkip d edit s
  | .parkKill d edit => Sys2Proof.Machine.execParkKill d edit s
  | .launchRecordTake slice => Sys2Proof.Machine.execLaunchRecordTake slice s
  | .drillDrainComplete d => Sys2Proof.Machine.execDrillDrainComplete d s
  | .arrayInstrStart slice => Sys2Proof.Machine.execArrayInstrStart slice s
  | .arrayTileSwap slice => Sys2Proof.Machine.execArrayTileSwap slice s
  | .arrayInstrComplete slice => Sys2Proof.Machine.execArrayInstrComplete slice s
  | .canaryRecompute slice => Sys2Proof.Machine.execCanaryRecompute slice s
  | .transferStart die engine => Sys2Proof.Machine.execTransferStart die engine s
  | .transferChunkArrive q token chunk => Sys2Proof.Machine.execTransferChunkArrive q token chunk s
  | .transferComplete q token => Sys2Proof.Machine.execTransferComplete q token s
  | .getS sector cache hint => Sys2Proof.Machine.execGetS sector cache hint s
  | .getM sector cache hint have_ => Sys2Proof.Machine.execGetM sector cache hint have_ s
  | .putM sector cache data poison => Sys2Proof.Machine.execPutM sector cache data poison s
  | .atomReq sector cache g => Sys2Proof.Machine.execAtomReq sector cache g s
  | .raddReq sector cache g => Sys2Proof.Machine.execRaddReq sector cache g s
  | .invAck sector cache => Sys2Proof.Machine.execInvAck sector cache s
  | .recallData sector cache data poison => Sys2Proof.Machine.execRecallData sector cache data poison s
  | .homeFillDone sector => Sys2Proof.Machine.execHomeFillDone sector s
  | .nonCachingRead sector src uncached hint ro => Sys2Proof.Machine.execNonCachingRead sector src uncached hint ro s
  | .nonCachingWrite sector src kind uncached hint first len data poison => Sys2Proof.Machine.execNonCachingWrite sector src kind uncached hint first len data poison s
  | .inv sector cache => Sys2Proof.Machine.execInv sector cache s
  | .recall sector cache toI => Sys2Proof.Machine.execRecall sector cache toI s
  | .dataS sector cache data poison => Sys2Proof.Machine.execDataS sector cache data poison s
  | .dataM sector cache data poison => Sys2Proof.Machine.execDataM sector cache data poison s
  | .grantM sector cache => Sys2Proof.Machine.execGrantM sector cache s
  | .wback sector cache => Sys2Proof.Machine.execWback sector cache s
  | .atomResp sector cache g olds poison => Sys2Proof.Machine.execAtomResp sector cache g olds poison s
  | .raddAck sector cache g poison => Sys2Proof.Machine.execRaddAck sector cache g poison s
  | .coherenceSweepDone home reset => Sys2Proof.Machine.execCoherenceSweepDone home reset s
  | .thrashWindowEnd die => Sys2Proof.Machine.execThrashWindowEnd die s
  | .granarySliceFlush slice => Sys2Proof.Machine.execGranarySliceFlush slice s
  | .stackTempSample die readout footprint => Sys2Proof.Machine.execStackTempSample die readout footprint s
  | .bankRefresh die pc bank => Sys2Proof.Machine.execBankRefresh die pc bank s
  | .eccWindowEnd die => Sys2Proof.Machine.execEccWindowEnd die s
  | .patrolScrubRead die codeword => Sys2Proof.Machine.execPatrolScrubRead die codeword s
  | .marginReadDelay die w => Sys2Proof.Machine.execMarginReadDelay die w s
  | .marginWriteDelay die w => Sys2Proof.Machine.execMarginWriteDelay die w s
  | .marginReadReference die w => Sys2Proof.Machine.execMarginReadReference die w s
  | .marginWriteReference die w => Sys2Proof.Machine.execMarginWriteReference die w s
  | .marginSupply die w => Sys2Proof.Machine.execMarginSupply die w s
  | .memMarginSweepDone die low high lane => Sys2Proof.Machine.execMemMarginSweepDone die low high lane s
  | .flitReceive p flit => Sys2Proof.Machine.execFlitReceive p flit s
  | .nak p seq => Sys2Proof.Machine.execNak p seq s
  | .ackProgressTimeout p => Sys2Proof.Machine.execAckProgressTimeout p s
  | .laneLockLoss p group => Sys2Proof.Machine.execLaneLockLoss p group s
  | .partnerTrainingSequence p => Sys2Proof.Machine.execPartnerTrainingSequence p s
  | .groupTrainingDone p mask => Sys2Proof.Machine.execGroupTrainingDone p mask s
  | .hdgOffer p mask => Sys2Proof.Machine.execHdgOffer p mask s
  | .hdgConfirm p mask => Sys2Proof.Machine.execHdgConfirm p mask s
  | .agreementTimeout p => Sys2Proof.Machine.execAgreementTimeout p s
  | .switchForward node src => Sys2Proof.Machine.execSwitchForward node src s
  | .routeRecompute => Sys2Proof.Machine.execRouteRecompute s
  | .replayWindowEnd p => Sys2Proof.Machine.execReplayWindowEnd p s
  | .tltWrite port f => Sys2Proof.Machine.execTltWrite port f s
  | .writeAckSend headland peer => Sys2Proof.Machine.execWriteAckSend headland peer s
  | .tltReadReq port f => Sys2Proof.Machine.execTltReadReq port f s
  | .tltReadResp port f => Sys2Proof.Machine.execTltReadResp port f s
  | .tltAck port f => Sys2Proof.Machine.execTltAck port f s
  | .retransmitTimeout headland peer read seq => Sys2Proof.Machine.execRetransmitTimeout headland peer read seq s
  | .tltHello port h => Sys2Proof.Machine.execTltHello port h s
  | .tltAssign port h => Sys2Proof.Machine.execTltAssign port h s
  | .tltRelease port h => Sys2Proof.Machine.execTltRelease port h s
  | .helloTimer nonce => Sys2Proof.Machine.execHelloTimer nonce s
  | .scaleoutPortLinkLoss port => Sys2Proof.Machine.execScaleoutPortLinkLoss port s
  | .ptpSync port h twoStep logInterval origin err => Sys2Proof.Machine.execPtpSync port h twoStep logInterval origin err s
  | .ptpAnnounce port h master rank => Sys2Proof.Machine.execPtpAnnounce port h master rank s
  | .ptpDelayResp port h rx => Sys2Proof.Machine.execPtpDelayResp port h rx s
  | .holdoverTimeout => Sys2Proof.Machine.execHoldoverTimeout s
  | .holdoverLimitExpiry => Sys2Proof.Machine.execHoldoverLimitExpiry s
  | .sqTail fn q v => Sys2Proof.Machine.execSqTail fn q v s
  | .cqHead fn q v => Sys2Proof.Machine.execCqHead fn q v s
  | .sqEntryFetch fn q => Sys2Proof.Machine.execSqEntryFetch fn q s
  | .nopCommand e => Sys2Proof.Machine.execNopCommand e s
  | .createCq e => Sys2Proof.Machine.execCreateCq e s
  | .createSq e => Sys2Proof.Machine.execCreateSq e s
  | .deleteSq e => Sys2Proof.Machine.execDeleteSq e s
  | .deleteCq e => Sys2Proof.Machine.execDeleteCq e s
  | .quiesce e => Sys2Proof.Machine.execQuiesce e s
  | .quiesceTimeout fn => Sys2Proof.Machine.execQuiesceTimeout fn s
  | .resume e => Sys2Proof.Machine.execResume e s
  | .logStart e => Sys2Proof.Machine.execLogStart e s
  | .logSnapshot e => Sys2Proof.Machine.execLogSnapshot e s
  | .logStop e => Sys2Proof.Machine.execLogStop e s
  | .pin e => Sys2Proof.Machine.execPin e s
  | .unpin e => Sys2Proof.Machine.execUnpin e s
  | .interruptHoldTimeout fn cq => Sys2Proof.Machine.execInterruptHoldTimeout fn cq s
  | .msixUnmask fn vec => Sys2Proof.Machine.execMsixUnmask fn vec s
  | .atsInvalidate pasid lo hi => Sys2Proof.Machine.execAtsInvalidate pasid lo hi s
  | .bar4Read offset len => Sys2Proof.Machine.execBar4Read offset len s
  | .bar4Write offset data => Sys2Proof.Machine.execBar4Write offset data s
  | .bar4Atomicop offset op size a b => Sys2Proof.Machine.execBar4Atomicop offset op size a b s
  | .vfEnableSet n => Sys2Proof.Machine.execVfEnableSet n s
  | .vfEnableClear => Sys2Proof.Machine.execVfEnableClear s
  | .functionLevelReset fn => Sys2Proof.Machine.execFunctionLevelReset fn s
  | .d3hotToD0 fn => Sys2Proof.Machine.execD3hotToD0 fn s
  | .aqEnable fn => Sys2Proof.Machine.execAqEnable fn s
  | .aqDisable fn => Sys2Proof.Machine.execAqDisable fn s
  | .bind e => Sys2Proof.Machine.execBind e s
  | .rebind e => Sys2Proof.Machine.execRebind e s
  | .unbind e => Sys2Proof.Machine.execUnbind e s
  | .map e => Sys2Proof.Machine.execMap e s
  | .unmap e => Sys2Proof.Machine.execUnmap e s
  | .moveRegion e => Sys2Proof.Machine.execMoveRegion e s
  | .moveCopyDone comp => Sys2Proof.Machine.execMoveCopyDone comp s
  | .moveFinalCopyDone comp => Sys2Proof.Machine.execMoveFinalCopyDone comp s
  | .meterRead e => Sys2Proof.Machine.execMeterRead e s
  | .epochCommit comp => Sys2Proof.Machine.execEpochCommit comp s
  | .sliceRelease slice => Sys2Proof.Machine.execSliceRelease slice s
  | .epochHoldTimeout index => Sys2Proof.Machine.execEpochHoldTimeout index s
  | .ownershipClaim comp handle src dst gen => Sys2Proof.Machine.execOwnershipClaim comp handle src dst gen s
  | .ownershipReply comp handle pool owner gen => Sys2Proof.Machine.execOwnershipReply comp handle pool owner gen s
  | .ownershipQueryTimeout comp handle => Sys2Proof.Machine.execOwnershipQueryTimeout comp handle s
  | .meterAdd => Sys2Proof.Machine.execMeterAdd s
  | .serveConfig e => Sys2Proof.Machine.execServeConfig e s
  | .serveStop e => Sys2Proof.Machine.execServeStop e s
  | .streamOpen e => Sys2Proof.Machine.execStreamOpen e s
  | .streamClose e => Sys2Proof.Machine.execStreamClose e s
  | .audio e => Sys2Proof.Machine.execAudio e s
  | .textIn e => Sys2Proof.Machine.execTextIn e s
  | .outBuf e => Sys2Proof.Machine.execOutBuf e s
  | .load e => Sys2Proof.Machine.execLoad e s
  | .passStart comp => Sys2Proof.Machine.execPassStart comp s
  | .stageAdvance comp steps speech => Sys2Proof.Machine.execStageAdvance comp steps speech s
  | .emitNotices comp => Sys2Proof.Machine.execEmitNotices comp s
  | .passCommit comp pages => Sys2Proof.Machine.execPassCommit comp pages s
  | .passRollback comp => Sys2Proof.Machine.execPassRollback comp s
  | .transferPauseTimeout slice => Sys2Proof.Machine.execTransferPauseTimeout slice s
  | .switchDrainDone slice => Sys2Proof.Machine.execSwitchDrainDone slice s
  | .switchSaveDone slice => Sys2Proof.Machine.execSwitchSaveDone slice s
  | .coreRestoreDone slice => Sys2Proof.Machine.execCoreRestoreDone slice s
  | .contextRevoke ctx => Sys2Proof.Machine.execContextRevoke ctx s
  | .teardownComplete ctx => Sys2Proof.Machine.execTeardownComplete ctx s
  | .teardownTimeout ctx => Sys2Proof.Machine.execTeardownTimeout ctx s
  | .governorTick volt10mV watts est => Sys2Proof.Machine.execGovernorTick volt10mV watts est s
  | .fastLimit watts us => Sys2Proof.Machine.execFastLimit watts us s
  | .dieTempSample die temps => Sys2Proof.Machine.execDieTempSample die temps s
  | .headlandTempSample headland temps => Sys2Proof.Machine.execHeadlandTempSample headland temps s
  | .haywardSample us => Sys2Proof.Machine.execHaywardSample us s
  | .partitionResetStepDone die r => Sys2Proof.Machine.execPartitionResetStepDone die r s
  | .restartResume comp => Sys2Proof.Machine.execRestartResume comp s
  | .refetchComplete page => Sys2Proof.Machine.execRefetchComplete page s
  | .refetchTimeout page sourceFailed => Sys2Proof.Machine.execRefetchTimeout page sourceFailed s
  | .fwStage e => Sys2Proof.Machine.execFwStage e s
  | .fwApply e => Sys2Proof.Machine.execFwApply e s
  | .fwActivate e => Sys2Proof.Machine.execFwActivate e s
  | .svnCommit e => Sys2Proof.Machine.execSvnCommit e s
  | .attest e => Sys2Proof.Machine.execAttest e s
  | .debugChallenge e random => Sys2Proof.Machine.execDebugChallenge e random s
  | .debugUnlock e => Sys2Proof.Machine.execDebugUnlock e s
  | .debugLock e => Sys2Proof.Machine.execDebugLock e s
  | .debugUnlockExpiry => Sys2Proof.Machine.execDebugUnlockExpiry s
  | .bist e => Sys2Proof.Machine.execBist e s
  | .captureStart e => Sys2Proof.Machine.execCaptureStart e s
  | .captureStop e => Sys2Proof.Machine.execCaptureStop e s
  | .captureBufferHalf comp => Sys2Proof.Machine.execCaptureBufferHalf comp s
  | .replay e => Sys2Proof.Machine.execReplay e s
  | .lmarginTiming die w => Sys2Proof.Machine.execLmarginTiming die w s
  | .lmarginReference die w => Sys2Proof.Machine.execLmarginReference die w s
  | .xmarginTiming w => Sys2Proof.Machine.execXmarginTiming w s
  | .xmarginReference w => Sys2Proof.Machine.execXmarginReference w s
  | .linkMarginSweepDone die low high => Sys2Proof.Machine.execLinkMarginSweepDone die low high s
  | .grnPinCfgWrite die w => Sys2Proof.Machine.execGrnPinCfgWrite die w s
  | .xltPortMapNextWrite w => Sys2Proof.Machine.execXltPortMapNextWrite w s
  | .timPtpCfgWrite w => Sys2Proof.Machine.execTimPtpCfgWrite w s
  | .rcRegisterRead req bar2 offset size => Sys2Proof.Machine.execRcRegisterRead req bar2 offset size s
  | .registerWrite req offset size v => Sys2Proof.Machine.execRegisterWrite req offset size v s
  | .ethernetFrameDrop port f => Sys2Proof.Machine.execEthernetFrameDrop port f s
  | .scaleoutPortLinkUp port => Sys2Proof.Machine.execScaleoutPortLinkUp port s
  | .ptpFollowUp port h origin => Sys2Proof.Machine.execPtpFollowUp port h origin s
  | .ptpDelayReqTimer port err => Sys2Proof.Machine.execPtpDelayReqTimer port err s
  | .announceReceiptTimeout port => Sys2Proof.Machine.execAnnounceReceiptTimeout port s
  | .mctpControlMessage code eid => Sys2Proof.Machine.execMctpControlMessage code eid s

end Sys2Proof.Machine
end

