-- ==== Sys2Proof/Machine/Tick.lean ====
section
/-! DEFINITION. One nanosecond of idle time: what a step does when no command waits (R310, R346, R347, R469). -/

namespace Sys2Proof.Machine

open Sys2Proof

/-- The device time counter one nanosecond later: at half rate while a backward offset is being removed; else at the disciplined rate, which
differs by 100 ppm while an offset is slewed (R346, R347, R349). -/
def Time.tick (t : Time) : Time :=
  if !t.running then t
  else if 0 < t.back then
    if t.half then { t with now := t.now + 1, back := t.back - 1, half := false } else { t with half := true }
  else
    let dir : Int := if 0 < t.slew then 1 else if t.slew < 0 then -1 else 0
    let acc := t.acc + t.rate + 100000 * dir
    let extra : Int := if 1000000000 ≤ acc then 1 else if acc ≤ -1000000000 then -1 else 0
    { t with now := (t.now + 1 + extra).toNat, slew := t.slew - dir, acc := acc - 1000000000 * extra, half := false }

/-- A die's FC cycle counter one nanosecond later, in tenths of a cycle: 0.8 GHz at step 0, 0.1 GHz more each step (Table 17-4). -/
def Die.tick (x : Die) : Die := if x.part = .inService then { x with fcTenths := x.fcTenths + 8 + x.step } else x

/-- What waits at a home and now can, goes on: BAR4 requests, PIN commands, received frames, the pins of moved regions; a die whose channel has
failed meanwhile starts its reset (R215, R259, R295, R400, R444). -/
def State.retryWaiting (s : State) : State :=
  let s := (s.barServe (s.host.barQ.length + 1)).pinServe.serveFrames
  let s := (s.byPrio.filter fun c => (s.comp? c).any fun x => !x.pinMoves.isEmpty).foldl (fun (s : State) c => s.settleEpoch c) s
  s.resetFaulties

/-- One nanosecond passes and no command waits. -/
def State.tick (s : State) : State :=
  let s := { s with time := s.time.tick }
  if s.inService then ((upto 24).foldl (fun s d => s.modDie d Die.tick) s).idleFlits.retryWaiting else s

end Sys2Proof.Machine
end

