-- ==== Sys2Proof/Safety.lean ====
section
/-! DEFINITION. What counts as a safe step, and the terms in which the statements speak of a step: when a drill's instruction issues, what a step leaves alone, which registers it writes. -/

namespace Sys2Proof.Machine

/-- The step from `s` answers a next state. -/
def Runs (s : State) : Prop := ∃ t, step s = .next t

end Sys2Proof.Machine

namespace Sys2Proof.Claim

open Sys2Proof Sys2Proof.Machine

/-- The running path `p` of drill `d` is at the word `f` of class `cls` and operation `op`: the drill is ready, its core issues, no load or
atomic of it is under way, its context is not revoked (R456), the word is clean and legal (R143), names registers below its count (R114), and `act`, the threads with a true
guard (R148), is not empty. -/
abbrev Ready (s : State) (d : DrillRef) (f : Fetched) (cls op : Nat) (x : Drill) (p : Path) (act : DWord) : Prop :=
  s.drill? d = some x ∧ x.cur = some p ∧ s.coreIssues d.slice = true ∧ x.status = .active ∧ x.mem = none ∧ f.poisoned = false ∧
    iCls f.word = cls ∧ iOp f.word = op ∧ activeMask x f.word p.mask = act ∧ act ≠ 0 ∧ legalWord f.word = true ∧
    regsInRange x.nregs f.word = true ∧ s.revokedCtx x.context = false

/-- Nothing outside drill `d` has changed but its core's meters: no byte of device, host or seedbed memory, no register of the panel, no
other drill, no other core. -/
def DrillOnly (s t : State) (d : DrillRef) : Prop :=
  t = { s with cores := t.cores } ∧ (∀ k, k ≠ d.slice → t.core k = s.core k) ∧
    t.core d.slice = { s.core d.slice with drills := (t.core d.slice).drills, meters := (t.core d.slice).meters } ∧
    (∀ e : DrillRef, e.slice = d.slice → slotKey e ≠ slotKey d → t.drill? e = s.drill? e) ∧
    (∀ a, readByte t.mem.dram a = readByte s.mem.dram a) ∧ (∀ a, readByte t.mem.host a = readByte s.mem.host a) ∧
    ∀ k a, readByte (t.core k).seedbed a = readByte (s.core k).seedbed a

/-- Drill `d` has become `z`, on the next instruction of its running path; only registers and paths of the drill differ. -/
def GoesOn (s t : State) (d : DrillRef) (x : Drill) (p : Path) (z : Drill) : Prop :=
  t.drill? d = some z ∧ DrillOnly s t d ∧ (∃ q, z.cur = some q ∧ q.pc = p.pc + 8) ∧
    z = { x with g := z.g, p := z.p, u := z.u, cur := z.cur, paths := z.paths, window := z.window }

/-- The registers `iDst w` to `iDst w + n - 1` of every executing thread hold `v`, and every other register is as before. -/
def Wrote (w act : DWord) (n : Nat) (x z : Drill) (v : Nat → Nat → Word) : Prop :=
  (∀ k ∈ execThreads w act, ∀ j, j < n → z.rd (iDU w) k (iDst w + j) = v k j) ∧
    (∀ k r, r < 64 → iDU w = true ∨ k ∉ threads act ∨ r < iDst w ∨ iDst w + n ≤ r → z.greg k r = x.greg k r) ∧
    (∀ r, iDU w = false ∨ r < iDst w ∨ iDst w + n ≤ r → z.ureg r = x.ureg r) ∧ ∀ r, z.preg r = x.preg r

/-- Predicate `r` of the active threads holds `v`, every other predicate bit and every register is as before. -/
def WrotePred (act : DWord) (x z : Drill) (at_ : Nat → Prop) (v : Nat → Nat → Bool) : Prop :=
  (∀ r k, r < 8 → k < 64 → at_ r → bit act k = true → z.pbit k r = v r k) ∧
    (∀ r k, k < 64 → ¬ (at_ r ∧ bit act k = true) → z.pbit k r = x.pbit k r) ∧
    (∀ k r, r < 64 → z.greg k r = x.greg k r) ∧ ∀ r, z.ureg r = x.ureg r

end Sys2Proof.Claim
end

