-- ==== Sys2Proof/Certificates/Slice0/Obligations.lean ====
section
/-! DEFINITION. The statements for the provers. -/

namespace Sys2Proof.Claim

open Sys2Proof Sys2Proof.Machine

/-- A constructor of a drill instruction, its operation number, and the result in a thread from its word and the drill before it. -/
abbrev Row (α : Type) := (DrillRef → Fetched → Instr) × Nat × (DWord → Drill → Nat → α)

/-- The result of two sources. -/
def ab (h : DWord → Word → Word → Word) : DWord → Drill → Nat → Word := fun w x t => h w (x.srcA w t) (x.srcB w t)

/-- Less, signed or with U unsigned. -/
def less (w : DWord) (a b : Word) : Bool := if bit w 31 then a.ult b else a.slt b

/-! ## Table 05-3 -/

/-- The integer operations that write one register. -/
def intRows : List (Row Word) := [
  (.mov, 0x00, fun w x t => x.srcB w t),
  (.movh, 0x01, fun w x t => (w.extractLsb' 0 16 : Half) ++ ((x.rd (iDU w) t (iDst w)).extractLsb' 0 16 : Half)),
  (.iadd, 0x02, ab fun _ a b => a + b),
  (.isub, 0x03, ab fun _ a b => a - b),
  (.imul, 0x04, ab fun _ a b => a * b),
  (.imulhi, 0x05, ab fun w a b =>
    if bit w 31 then ((a.setWidth 64 * b.setWidth 64 : DWord).extractLsb' 32 32) else ((a.signExtend 64 * b.signExtend 64 : DWord).extractLsb' 32 32)),
  (.imla, 0x06, fun w x t => x.srcA w t * x.srcB w t + x.srcC w t),
  (.imin, 0x07, ab fun w a b => if less w a b then a else b),
  (.imax, 0x08, ab fun w a b => if less w a b then b else a),
  (.iabs, 0x09, fun w x t => BitVec.ofNat 32 (x.srcA w t).toInt.natAbs)] ++ [
  (.and, 0x0A, ab fun _ a b => a &&& b),
  (.or, 0x0B, ab fun _ a b => a ||| b),
  (.xor, 0x0C, ab fun _ a b => a ^^^ b),
  (.not, 0x0D, fun w x t => ~~~ (x.srcA w t)),
  (.shl, 0x0E, ab fun _ a b => a <<< (b.toNat % 32)),
  (.shr, 0x0F, ab fun w a b => if bit w 31 then a >>> (b.toNat % 32) else a.sshiftRight (b.toNat % 32)),
  (.ones, 0x10, fun w x t => BitVec.ofNat 32 ((List.range 32).countP fun i => bit (x.srcA w t) i)),
  (.clz, 0x11, fun w x t => (x.srcA w t).clz),
  (.bitrev, 0x12, fun w x t => (x.srcA w t).reverse),
  (.fldx, 0x13, ab fun w a b =>
    let v := a.extractLsb' (b.toNat % 32) (b.toNat / 32 % 32 + 1)
    if bit w 31 then v.setWidth 32 else v.signExtend 32)] ++ [
  (.fldi, 0x14, fun w x t =>
    let a : Word := x.srcA w t
    let p : Nat := (x.srcB w t).toNat % 32
    let m : Word := ((BitVec.allOnes ((x.srcB w t).toNat / 32 % 32 + 1)).setWidth 32) <<< p
    let moved : Word := a <<< p
    (x.srcC w t &&& ~~~ m) ||| (moved &&& m)),
  (.pick, 0x16, fun w x t => if x.pbit t (iC w) then x.srcA w t else x.srcB w t),
  (.pgather, 0x18, fun _ x t => (BitVec.ofBoolListLE ((List.range 8).map fun r => x.pbit t r)).setWidth 32)]

/-- ITEST's conditions. -/
def cmpHolds (w : DWord) (a b : Word) : Bool :=
  match iModBits w 10 8 with
  | 0 => a == b
  | 1 => a != b
  | 2 => less w a b
  | 3 => !less w b a
  | 4 => less w b a
  | _ => !less w a b

/-- PLOGIC's operations. -/
def logicOf (w : DWord) (a b : Bool) : Bool :=
  match iModBits w 10 8 with
  | 0 => a && b
  | 1 => a || b
  | 2 => a != b
  | _ => a && !b

/-! ## Table 05-4 -/

/-- The floating operations that write a register: FP32 words, or with BF2 both halves of BF16 pairs. -/
def fltRows : List (Row Word) :=
  let two (h : Word → Word → Word) : DWord → Drill → Nat → Word := fun w x t =>
    if iBF2 w then bfPair2 h (x.fA w true t) (x.fB w true t) else h (x.fA w false t) (x.fB w false t)
  let one (h : Word → Word) : DWord → Drill → Nat → Word := fun w x t => h (x.fA w false t)
  [(.fadd, 0x00, two fun a b => toF32 ((f32 a).add (f32 b))),
   (.fsub, 0x01, two fun a b => toF32 ((f32 a).add (f32 b).neg)),
   (.fmul, 0x02, two fun a b => toF32 ((f32 a).mul (f32 b))),
   (.fmac, 0x03, fun w x t =>
     let h (a b c : Word) : Word := toF32 (((f32 a).mul (f32 b)).add (f32 c))
     if iBF2 w then bfPair3 h (x.fA w true t) (x.fB w true t) (x.srcC w t) else h (x.fA w false t) (x.fB w false t) (x.srcC w t)),
   (.fmin, 0x04, two fun a b => toF32 ((f32 a).minNum (f32 b))),
   (.fmax, 0x05, two fun a b => toF32 ((f32 a).maxNum (f32 b))),
   (.frcp, 0x07, one (approx32 0x07)), (.frsq, 0x08, one (approx32 0x08)), (.fsqrt, 0x09, one fsqrt32)] ++
  [(.fex2, 0x0A, one (approx32 0x0A)), (.flg2, 0x0B, one (approx32 0x0B)), (.ftanh, 0x0C, one (approx32 0x0C)),
   (.fsin, 0x0D, one (approx32 0x0D)), (.fcos, 0x0E, one (approx32 0x0E)),
   (.fdotbp, 0x0F, fun w x t =>
     let a := x.fA w true t
     let b := x.fB w true t
     let half (i : Nat) (v : Word) : FVal := f32 (v.extractLsb' i 16 ++ (0 : Half))
     toF32 ((((half 0 a).mul (half 0 b)).add ((half 16 a).mul (half 16 b))).add (f32 (x.srcC w t))))]

end Sys2Proof.Claim

open Sys2Proof Sys2Proof.Machine Sys2Proof.Claim

/-! ## Integer, floating, conversion and cross-lane classes -/

/-- R151, Table 05-3: each integer operation that writes one register completes with the table's result in every executing thread, drill-uniform
destinations and both forms included; every other register, predicate, byte of memory and drill is unchanged. -/
def Sys2Proof.Claim.IntegerOperationsWriteTheirResult : Prop :=
  ∀ r ∈ intRows, ∀ s d f x p act, Ready s d f 0x0 r.2.1 x p act →
    ∃ t z, Machine.exec (r.1 d f) s = .next t ∧ GoesOn s t d x p z ∧ Wrote f.word act 1 x z fun k _ => r.2.2 f.word x k

/-- Table 05-3: ITEST, PLOGIC and PSCATTER write predicates in the active threads only. -/
def Sys2Proof.Claim.IntegerPredicatesWritten : Prop :=
  (∀ s d f x p act, Ready s d f 0x0 0x15 x p act → ∃ t z, Machine.exec (.itest d f) s = .next t ∧ GoesOn s t d x p z ∧
    WrotePred act x z (· = iDst f.word) fun _ k => cmpHolds f.word (x.srcA f.word k) (x.srcB f.word k)) ∧
  (∀ s d f x p act, Ready s d f 0x0 0x17 x p act → ∃ t z, Machine.exec (.plogic d f) s = .next t ∧ GoesOn s t d x p z ∧
    WrotePred act x z (· = iDst f.word) fun _ k => logicOf f.word (x.pbit k (iA f.word)) (x.pbit k (iB f.word))) ∧
  ∀ s d f x p act, Ready s d f 0x0 0x19 x p act → ∃ t z, Machine.exec (.pscatter d f) s = .next t ∧ GoesOn s t d x p z ∧
    WrotePred act x z (· < 8) fun r k => bit (x.srcA f.word k) r

/-- R145, Table 05-3: IADD64 adds register pairs, the lower register holding bits [31:0]. -/
def Sys2Proof.Claim.Iadd64AddsRegisterPairs : Prop :=
  ∀ s d f x p act, Ready s d f 0x0 0x1A x p act → ∃ t z, Machine.exec (.iadd64 d f) s = .next t ∧ GoesOn s t d x p z ∧
    Wrote f.word act 2 x z fun k j =>
      let pair (uni : Bool) (i : Nat) : DWord := x.rd uni k (i + 1) ++ x.rd uni k i
      (pair (iAU f.word) (iA f.word) + pair (iBU f.word) (iB f.word)).extractLsb' (32 * j) 32

/-- R145, R151, Table 05-3: the integer and predicate class. -/
def Obligations.IntegerOperationsComplete : Prop :=
  Claim.IntegerOperationsWriteTheirResult ∧ Claim.IntegerPredicatesWritten ∧ Claim.Iadd64AddsRegisterPairs

/-- R152, Table 05-4: each floating operation that writes a register completes with the table's result; the error-bounded ones with
`approx32`, a free value wherever that lies within the bound. -/
def Sys2Proof.Claim.FloatingOperationsWriteTheirResult : Prop :=
  ∀ r ∈ fltRows, ∀ s d f x p act, Ready s d f 0x2 r.2.1 x p act →
    ∃ t z, Machine.exec (r.1 d f) s = .next t ∧ GoesOn s t d x p z ∧ Wrote f.word act 1 x z fun k _ => r.2.2 f.word x k

/-- R153: FTEST's conditions. On a NaN only NE and NAN hold. -/
def Sys2Proof.Claim.FtestWritesItsCondition : Prop :=
  ∀ s d f x p act, Ready s d f 0x2 0x06 x p act → ∃ t z, Machine.exec (.ftest d f) s = .next t ∧ GoesOn s t d x p z ∧
    WrotePred act x z (· = iDst f.word) fun _ k =>
      let a := f32 (x.fA f.word false k)
      let b := f32 (x.fB f.word false k)
      let unordered := a.isNan || b.isNan
      match iModBits f.word 10 8 with
      | 0 => a.cmp b == some .eq
      | 1 => unordered || a.cmp b != some .eq
      | 2 => a.cmp b == some .lt
      | 3 => a.cmp b == some .lt || a.cmp b == some .eq
      | 4 => a.cmp b == some .gt
      | 5 => a.cmp b == some .gt || a.cmp b == some .eq
      | 6 => !unordered
      | _ => unordered

/-- R152, R153, Table 05-4: the floating class. -/
def Obligations.FloatingOperationsComplete : Prop :=
  Claim.FloatingOperationsWriteTheirResult ∧ Claim.FtestWritesItsCondition

/-- R49, Table 02-1: converting a value that a format represents to that format gives back its bits, for every encoding that is not a NaN. -/
def Obligations.RepresentableValuesConvertExactly : Prop :=
  ∀ f ∈ [Fmt.fp4, Fmt.e2m3, Fmt.e3m2, Fmt.e4m3, Fmt.e5m2, Fmt.bf16, Fmt.fp32], ∀ r b,
    b < 2 ^ (1 + f.e + f.m) → f.decode b ≠ .nan → f.bitsOf r false (f.decode b) = b

/-- R154, R155: CVT, CVTS and QMX write one register of every active thread and nothing else. CVT writes source A read in SFMT and converted to
DFMT under RND and SAT; CVTS first scales it by the power of two of an E8M0 scale. -/
def Obligations.ConversionsWriteTheirResult : Prop :=
  (∀ s d f x p act, Ready s d f 0x3 0x00 x p act → ∃ t z, Machine.exec (.cvt d f) s = .next t ∧ GoesOn s t d x p z ∧
    Wrote f.word act 1 x z fun k _ => cvtTo f.word (cvtFrom f.word (x.srcA f.word k))) ∧
  (∀ s d f x p act, Ready s d f 0x3 0x01 x p act → ∃ t z, Machine.exec (.cvts d f) s = .next t ∧ GoesOn s t d x p z ∧
    Wrote f.word act 1 x z fun k _ => cvtTo f.word (scaleBy ((x.srcB f.word k).toNat % 256) (cvtFrom f.word (x.srcA f.word k)))) ∧
  ∀ s d f x p act, Ready s d f 0x3 0x02 x p act → ∃ e t z, qmxElem (iModBits f.word 10 7) = some e ∧
    Machine.exec (.qmx d f) s = .next t ∧ GoesOn s t d x p z ∧
      Wrote f.word act 1 x z fun k _ =>
        let group := (execThreads f.word act).filter fun j => decide (j / 32 = k / 32)
        let q := quantBlock e (group.map fun j => f32 (x.srcA f.word j))
        BitVec.ofNat 32 (q.scale % 256 * 256 + q.codes.getD (group.idxOf k) 0 % 256)

/-- R156, Table 05-7: the cross-lane class. A lane that is not live reads as 0, but for a drill-uniform source, whose one value is read
whichever lane is named (the model's choice, log entry 60); PALL and PANY give every active thread one answer; PMASK gives the
active threads' predicate bits; LREDUCE combines the active threads in rising order, a drill-uniform source once for each (log entry 60). -/
def Obligations.CrossLaneOperationsWriteTheirResult : Prop :=
  let lane (x : Drill) (w : DWord) (t : Nat) : Word := if bit x.live t = true ∨ iAU w = true then x.srcA w t else 0
  (∀ s d f x p act, Ready s d f 0x4 0x00 x p act → ∃ t z, Machine.exec (.lread d f) s = .next t ∧ GoesOn s t d x p z ∧
    Wrote f.word act 1 x z fun k _ => lane x f.word ((x.srcB f.word k).toNat % 64)) ∧
  (∀ s d f x p act, Ready s d f 0x4 0x01 x p act → ∃ t z, Machine.exec (.pall d f) s = .next t ∧ GoesOn s t d x p z ∧
    WrotePred act x z (· = iDst f.word) fun _ _ => (threads act).all fun k => x.pbit k (iA f.word)) ∧
  (∀ s d f x p act, Ready s d f 0x4 0x02 x p act → ∃ t z, Machine.exec (.pany d f) s = .next t ∧ GoesOn s t d x p z ∧
    WrotePred act x z (· = iDst f.word) fun _ _ => (threads act).any fun k => x.pbit k (iA f.word)) ∧
  (∀ s d f x p act, Ready s d f 0x4 0x03 x p act → ∃ t z, Machine.exec (.pmask d f) s = .next t ∧ GoesOn s t d x p z ∧
    Wrote f.word act 2 x z fun _ j => (x.preg (iA f.word) &&& act).extractLsb' (32 * j) 32) ∧
  (∀ s d f x p act, Ready s d f 0x4 0x04 x p act → ∃ t z, Machine.exec (.lreduce d f) s = .next t ∧ GoesOn s t d x p z ∧
    Wrote f.word act 1 x z fun _ _ =>
      let h (a b : Word) : Word := match iModBits f.word 10 8 with
        | 0 => a + b
        | 1 => if less f.word b a then b else a
        | 2 => if less f.word a b then b else a
        | 3 => a &&& b
        | _ => a ||| b
      ((threads act).drop 1).foldl (fun v k => h v (x.srcA f.word k)) (x.srcA f.word ((threads act).headD 0))) ∧
  ∀ s d f x p act, Ready s d f 0x4 0x05 x p act → ∃ t z, Machine.exec (.ltake d f) s = .next t ∧ GoesOn s t d x p z ∧
    Wrote f.word act 1 x z fun _ _ => lane x f.word (iImm f.word)

/-! ## Memory and atomic classes -/

namespace Sys2Proof.Claim

/-- Word `j` of a loaded value `v` of `z`: u8, u16, 32, 64 and 128 bits zero-extend, s8 and s16 sign-extend (Table 05-9). -/
def loadedWord (z v j : Nat) : Word :=
  if z = 5 then (BitVec.ofNat 8 v).signExtend 32
  else if z = 6 then (BitVec.ofNat 16 v).signExtend 32
  else BitVec.ofNat 32 (v / 2 ^ (32 * j))

/-- Byte `i` of what thread `k` stores: the register, pair or quad named by DST, lowest byte first. -/
def storeByte (x : Drill) (w : DWord) (k i : Nat) : Byte := (x.rd (iDU w) k (iDst w + i / 4)).extractLsb' (8 * (i % 4)) 8

/-- A seedbed access that traps in no thread: in range, aligned, and if it reads, of no poisoned granule (R159, R167). -/
abbrev SeedbedFine (s : State) (d : DrillRef) (x : Drill) (w : DWord) (ts : List Nat) (n : Nat) (reads : Bool) : Prop :=
  iSeedbed w = true ∧ ∀ k ∈ ts, (x.seedbedAddr w k).toNat < 0x400000 ∧ (x.seedbedAddr w k).toNat % n = 0 ∧
    (reads = true → ∀ g ∈ (s.core d.slice).sbPoison, (x.seedbedAddr w k).toNat + n ≤ 32 * g ∨ 32 * g + 32 ≤ (x.seedbedAddr w k).toNat)

/-- Nothing but drill `d`, its core's meters and its core's seedbed has changed. -/
def SeedbedOnly (s t : State) (d : DrillRef) : Prop :=
  t = { s with cores := t.cores } ∧ (∀ k, k ≠ d.slice → t.core k = s.core k) ∧
    t.core d.slice = { s.core d.slice with
      drills := (t.core d.slice).drills, meters := (t.core d.slice).meters, seedbed := (t.core d.slice).seedbed,
      sbPoison := (t.core d.slice).sbPoison, liveMark := (t.core d.slice).liveMark } ∧
    ∀ e : DrillRef, e.slice = d.slice → slotKey e ≠ slotKey d → t.drill? e = s.drill? e

/-- The byte that the highest-indexed thread of `ts` stores at `a` (R173). -/
def storedAt (x : Drill) (w : DWord) (ts : List Nat) (n a : Nat) : Option Byte :=
  (ts.reverse.find? fun k => decide ((x.seedbedAddr w k).toNat ≤ a ∧ a < (x.seedbedAddr w k).toNat + n)).map fun k =>
    storeByte x w k (a - (x.seedbedAddr w k).toNat)

/-- Table 05-10: the value that an atomic of operation `op` and TYPE `z` leaves where `old` stood, for operands `b` and `c`. -/
def atomValue (op : AtomOp) (z : Nat) (old b c : Nat) : Nat :=
  let o : Word := BitVec.ofNat 32 old
  let v : Word := BitVec.ofNat 32 b
  match op with
  | .add =>
    if z = 4 then (old + b) % 2 ^ 64
    else if z = 2 then (toF32 ((f32 o).add (f32 v))).toNat
    else if z = 3 then (bfPair2 (fun a b => toF32 ((f32 a).add (f32 b))) o v).toNat
    else (old + b) % 2 ^ 32
  | .min => if z = 2 then (toF32 ((f32 o).minNum (f32 v))).toNat else if z = 1 then (if v.toInt < o.toInt then b else old) else min old b
  | .max => if z = 2 then (toF32 ((f32 o).maxNum (f32 v))).toNat else if z = 1 then (if o.toInt < v.toInt then b else old) else max old b
  | .and => old &&& b
  | .or => old ||| b
  | .xor => old ^^^ b
  | .xch => b
  | .cas => if old = b then c else old

/-- R129: the threads of a list take effect one after another on memory; each gets the value that stood there just before. -/
def atomSequence (addr : Nat → Nat) (n : Nat) (h : Nat → Nat → Nat) : List Nat → Memory → Memory × List (Nat × Nat)
  | [], m => (m, [])
  | k :: ks, m =>
    let old := leNat (readBytes m (addr k) n)
    let r := atomSequence addr n h ks (writeBytes m (addr k) (natLe n (h k old)))
    (r.1, (k, old) :: r.2)

/-- An atomic's sequence over its threads in a seedbed. -/
def seedbedAtomics (x : Drill) (w : DWord) (op : AtomOp) (ts : List Nat) (m : Memory) : Memory × List (Nat × Nat) :=
  let n := if iSize w = 4 then 8 else 4
  let operand (u : Bool) (k i : Nat) : Nat := if iSize w = 4 then (x.rd u k (i + 1) ++ x.rd u k i).toNat else (x.rd u k i).toNat
  atomSequence (fun k => (x.seedbedAddr w k).toNat) n
    (fun k old => atomValue op (iSize w) old (operand (iBU w) k (iB w)) (operand (iCU w) k (iC w))) ts m

/-- The atomics that return the old value: constructor, operation number, operation. -/
def atomRows : List ((DrillRef → Fetched → Instr) × Nat × AtomOp) :=
  [(.aadd, 0, .add), (.amin, 1, .min), (.amax, 2, .max), (.aand, 3, .and), (.aor, 4, .or), (.axor, 5, .xor), (.axch, 6, .xch), (.acas, 7, .cas)]

/-- Every address of the threads `ts` is aligned and resolves to device memory; `y` and `n` are its translation and sector. -/
abbrev DeviceFine (s : State) (d : DrillRef) (x : Drill) (w : DWord) (ts : List Nat) (write : Bool) (y : Nat → Xlat) (n : Nat → Nat) : Prop :=
  iSeedbed w = false ∧ (s.core d.slice).queue = [] ∧ (s.core d.slice).xfers = [] ∧ (s.core d.slice).canaries = [] ∧
    ∀ k ∈ ts, (x.globalAddr w k).toNat % sizeBytes (iSize w) = 0 ∧
      s.resolve x (x.globalAddr w k) (sizeBytes (iSize w)) write (!write) = .at_ (.dev (y k) (n k) ((x.globalAddr w k).toNat % 256)) ∧
      s.raddUnder d.slice (n k) = false

end Sys2Proof.Claim

/-- R157, R166, Table 05-9: a seedbed load completes with the bytes at its address, zero- or sign-extended, in every executing thread. -/
def Sys2Proof.Claim.SeedbedLoadReadsItsBytes : Prop :=
  ∀ s d f x p act, Ready s d f 0x5 0x00 x p act →
    SeedbedFine s d x f.word (execThreads f.word act) (sizeBytes (iSize f.word)) true →
    s.tracked d.slice (x.sbSpans f.word (execThreads f.word act) (sizeBytes (iSize f.word))) [] = false →
    ∃ t z, Machine.exec (.ld d f) s = .next t ∧ GoesOn s t d x p z ∧
      Wrote f.word act (sizeRegs (iSize f.word)) x z fun k j =>
        loadedWord (iSize f.word) (leNat (readBytes (s.core d.slice).seedbed (x.seedbedAddr f.word k).toNat (sizeBytes (iSize f.word)))) j

/-- R173, R167, Table 05-9: a seedbed store completes; each byte it covers takes what the highest-indexed thread stores there, every other byte
of the seedbed is as before, granules written whole lose their poison, and no register changes. -/
def Sys2Proof.Claim.SeedbedStoreWritesItsBytes : Prop :=
  ∀ s d f x p act, Ready s d f 0x5 0x01 x p act →
    SeedbedFine s d x f.word (threads act) (sizeBytes (iSize f.word)) false →
    s.tracked d.slice [] (x.sbSpans f.word (threads act) (sizeBytes (iSize f.word))) = false →
    ∃ t z, Machine.exec (.st d f) s = .next t ∧ t.drill? d = some z ∧ SeedbedOnly s t d ∧
      (∃ q, z.cur = some q ∧ q.pc = p.pc + 8) ∧ z = { x with cur := z.cur, paths := z.paths, window := z.window } ∧
      (∀ a, readByte (t.core d.slice).seedbed a =
        (storedAt x f.word (threads act) (sizeBytes (iSize f.word)) a).getD (readByte (s.core d.slice).seedbed a)) ∧
      ∀ g, g ∈ (t.core d.slice).sbPoison ↔ g ∈ (s.core d.slice).sbPoison ∧
        ∃ i, i < 32 ∧ storedAt x f.word (threads act) (sizeBytes (iSize f.word)) (32 * g + i) = none

/-- R128, R129, R160, Table 05-10: a seedbed atomic completes as if its threads took effect one by one in rising order, each returning the value
just before its own; RADD returns nothing. No byte outside the locations changes. -/
def Sys2Proof.Claim.SeedbedAtomicsTakeEffectInThreadOrder : Prop :=
  (∀ r ∈ atomRows, ∀ s d f x p act, Ready s d f 0x6 r.2.1 x p act →
    SeedbedFine s d x f.word (execThreads f.word act) (if iSize f.word = 4 then 8 else 4) true →
    s.tracked d.slice [] (x.sbSpans f.word (execThreads f.word act) (if iSize f.word = 4 then 8 else 4)) = false →
    ∃ t z, Machine.exec (r.1 d f) s = .next t ∧ t.drill? d = some z ∧ SeedbedOnly s t d ∧ (∃ q, z.cur = some q ∧ q.pc = p.pc + 8) ∧
      (∀ a, readByte (t.core d.slice).seedbed a =
        readByte (seedbedAtomics x f.word r.2.2 (execThreads f.word act) (s.core d.slice).seedbed).1 a) ∧
      Wrote f.word act (if iSize f.word = 4 then 2 else 1) x z fun k j =>
        BitVec.ofNat 32 (getD 0 (seedbedAtomics x f.word r.2.2 (execThreads f.word act) (s.core d.slice).seedbed).2 k / 2 ^ (32 * j))) ∧
  ∀ s d f x p act, Ready s d f 0x6 0x08 x p act → SeedbedFine s d x f.word (threads act) 4 true →
    s.tracked d.slice [] (x.sbSpans f.word (threads act) 4) = false →
    ∃ t z, Machine.exec (.radd d f) s = .next t ∧ t.drill? d = some z ∧ SeedbedOnly s t d ∧ (∃ q, z.cur = some q ∧ q.pc = p.pc + 8) ∧
      z = { x with cur := z.cur, paths := z.paths, window := z.window } ∧
      ∀ a, readByte (t.core d.slice).seedbed a = readByte (seedbedAtomics x f.word .add (threads act) (s.core d.slice).seedbed).1 a

/-- R128, R129, R157, R160, R166, R167, R173, Tables 05-9 and 05-10: loads, stores, atomics and adds of the seedbed. -/
def Obligations.SeedbedAccessesComplete : Prop :=
  Claim.SeedbedLoadReadsItsBytes ∧ Claim.SeedbedStoreWritesItsBytes ∧ Claim.SeedbedAtomicsTakeEffectInThreadOrder

/-- Table 09-3, Load in S or M: a load whose sectors the core holds completes from the cached data; homes and memory are not touched. -/
def Sys2Proof.Claim.CachedLoadReadsTheCoresCopy : Prop :=
  ∀ s d f x p act (y : Nat → Xlat) (n : Nat → Nat) (l : Nat → CLine), Ready s d f 0x5 0x00 x p act → DeviceFine s d x f.word (execThreads f.word act) false y n → iHint f.word ≠ 3 →
    (∀ k ∈ execThreads f.word act, (y k).uncached = false ∧ s.line? d.slice (n k) = some (l k) ∧ ((l k).st = .s ∨ (l k).st = .m) ∧
      (l k).poison = false ∧ (l k).loads = []) →
    ∃ t z, Machine.exec (.ld d f) s = .next t ∧ GoesOn s t d x p z ∧
      Wrote f.word act (sizeRegs (iSize f.word)) x z fun k j =>
        loadedWord (iSize f.word)
          (leNat (sectorBytes (l k).data ((x.globalAddr f.word k).toNat % 256) (sizeBytes (iSize f.word)))) j

/-- Table 09-3, Store in M: a store whose sectors the core owns is performed in its lines; device and host memory behind them are unchanged and no
register changes. -/
def Sys2Proof.Claim.OwnedStoreWritesTheCoresCopy : Prop :=
  ∀ s d f x p act (y : Nat → Xlat) (n : Nat → Nat) (l : Nat → CLine), Ready s d f 0x5 0x01 x p act → DeviceFine s d x f.word (threads act) true y n →
    (∀ e ∈ s.yoke.comps, e.2.move = none) → (iOrd f.word = 1 ∨ x.g1 = true → s.allPerformed d x = true) →
    (∀ k ∈ threads act, (y k).uncached = false ∧ s.line? d.slice (n k) = some (l k) ∧ (l k).st = .m) →
    ∃ t z, Machine.exec (.st d f) s = .next t ∧ t.drill? d = some z ∧ t.mem = s.mem ∧ t.dies = s.dies ∧ t.regs = s.regs ∧
      (∃ q, z.cur = some q ∧ q.pc = p.pc + 8) ∧ z.g = x.g ∧ z.p = x.p ∧ z.u = x.u ∧ z.status = .active ∧ z.unperformed = x.unperformed ∧
      ∀ k ∈ threads act, ∃ l', t.line? d.slice (n k) = some l' ∧ l'.st = .m ∧ ∀ i, i < 256 →
        sectorByte l'.data i =
          match (threads act).reverse.find? (fun j => decide (n j = n k ∧ (x.globalAddr f.word j).toNat % 256 ≤ i ∧
            i < (x.globalAddr f.word j).toNat % 256 + sizeBytes (iSize f.word))) with
          | some j => storeByte x f.word j (i - (x.globalAddr f.word j).toNat % 256)
          | none => sectorByte (l k).data i

/-- R159, R237, Table 08-1: PREF of a sector that the granary holds applies its hint to the line's class, or with the discard hint drops the sector;
PREF of an absent sector starts the transaction that brings its DRAM data in. In each, and for a seedbed address, no register changes and nothing
traps. The home is at rest: no request waits or runs there. -/
def Sys2Proof.Claim.PrefFetchesUnderItsHint : Prop :=
  let far (s : State) (x : Drill) (f : Fetched) (act : DWord) (y : Xlat) (n : Nat) : Prop :=
    iSeedbed f.word = false ∧ s.sectorPoisoned n = false ∧ s.dieUp (homeOf n) = true ∧ (s.die (homeOf n)).trans = [] ∧
      (s.die (homeOf n)).pend = [] ∧ (s.die (homeOf n)).sweep = [] ∧
      ∀ k ∈ threads act, (x.globalAddr f.word k).toNat % sizeBytes (iSize f.word) = 0 ∧
        s.resolve x (x.globalAddr f.word k) 1 false true = .at_ (.dev y n ((x.globalAddr f.word k).toNat % 256))
  let quiet (s t : State) (d : DrillRef) (x : Drill) (p : Path) : Prop :=
    t.mem = s.mem ∧ ∃ z q, t.drill? d = some z ∧ z.g = x.g ∧ z.p = x.p ∧ z.u = x.u ∧ z.status = .active ∧ z.cur = some q ∧ q.pc = p.pc + 8
  (∀ s d f x p act, Ready s d f 0x5 0x02 x p act → SeedbedFine s d x f.word (threads act) (sizeBytes (iSize f.word)) false →
    ∃ t z, Machine.exec (.pref d f) s = .next t ∧ GoesOn s t d x p z ∧ z.g = x.g ∧ z.p = x.p ∧ z.u = x.u) ∧
  (∀ s d f x p act y n g l, Ready s d f 0x5 0x02 x p act → far s x f act y n → iHint f.word ≠ 3 → s.gsec? n = some g → s.gline? n = some l →
    ∃ t l', Machine.exec (.pref d f) s = .next t ∧ quiet s t d x p ∧ t.gsec? n = some g ∧ t.gline? n = some l' ∧
      l'.cls = l.cls.hinted (iHint f.word)) ∧
  (∀ s d f x p act y n g, Ready s d f 0x5 0x02 x p act → far s x f act y n → iHint f.word = 3 → s.coreHolds d.slice n = false →
    s.drillDebug x y = false → s.gsec? n = some g → g.dir = .un →
    ∃ t, Machine.exec (.pref d f) s = .next t ∧ quiet s t d x p ∧ t.gsec? n = none) ∧
  ∀ s d f x p act y n, Ready s d f 0x5 0x02 x p act → far s x f act y n → iHint f.word ≠ 3 → y.uncached = false → s.gsec? n = none →
    ∃ t u, Machine.exec (.pref d f) s = .next t ∧ quiet s t d x p ∧ find? (t.die (homeOf n)).trans n = some u ∧
      u.req = .pref d.slice (iHint f.word) false (s.drillDebug x y) ∧ u.acks = [] ∧ u.owner = none ∧ u.fill = true
/-! ## Fences, waits, array, transfer and control classes -/

/-- R159, Tables 08-1 and 09-3: accesses to composition memory that the core's cache and the granary hold. -/
def Obligations.CachedAccessesComplete : Prop :=
  Claim.CachedLoadReadsTheCoresCopy ∧ Claim.OwnedStoreWritesTheCoresCopy ∧ Claim.PrefFetchesUnderItsHint

namespace Sys2Proof.Claim

/-- No register of the drill has changed. -/
def SameRegs (x z : Drill) : Prop := z.g = x.g ∧ z.p = x.p ∧ z.u = x.u

/-- The drill goes on at the next word and nothing else happens: no register, no byte of memory, no other drill changes. -/
def OnlyGoesOn (i : Instr) (s : State) (d : DrillRef) (x : Drill) (p : Path) : Prop :=
  ∃ t z, Machine.exec i s = .next t ∧ GoesOn s t d x p z ∧ SameRegs x z

/-- Threads `m` are live at `pc`, ready to run. -/
def At (z : Drill) (m : DWord) (pc : BitVec 48) : Prop :=
  ∃ q, (z.cur = some q ∨ q ∈ z.paths) ∧ q.pc = pc ∧ q.wait = .runnable ∧ q.mask &&& m = m

/-- The tally counter that `ut` names, owned by the drill's context (R194). -/
abbrev OwnTally (s : State) (d : DrillRef) (x : Drill) (ut : Word) : Prop :=
  ut.toNat < 64 ∧ ((s.core d.slice).tally ut.toNat).owner = some x.context

/-- Counter or token `v` has reached `target` in the signed comparison of Table 05-11 and R184. -/
abbrev reached (v target : Word) : Prop := 0 ≤ (v - target).toInt

/-- The words LWAIT compares: each active thread's aligned device word, held by its own core's cache in S or M. -/
abbrev LwaitFine (s : State) (d : DrillRef) (x : Drill) (w act : DWord) (y : Nat → Xlat) (n : Nat → Nat) (l : Nat → CLine) : Prop :=
  (s.core d.slice).queue = [] ∧ (s.core d.slice).xfers = [] ∧ (s.core d.slice).canaries = [] ∧
    ∀ k ∈ threads act, (x.globalAddr w k).toNat % 4 = 0 ∧
      s.resolve x (x.globalAddr w k) 4 false false = .at_ (.dev (y k) (n k) ((x.globalAddr w k).toNat % 256)) ∧
      (y k).uncached = false ∧ s.raddUnder d.slice (n k) = false ∧
      s.line? d.slice (n k) = some (l k) ∧ ((l k).st = .s ∨ (l k).st = .m) ∧ (l k).poison = false ∧ (l k).loads = []

/-- The word that thread `k` of an LWAIT reads. -/
def lwaitWord (x : Drill) (w : DWord) (l : Nat → CLine) (k : Nat) : Word :=
  BitVec.ofNat 32 (leNat (sectorBytes (l k).data ((x.globalAddr w k).toNat % 256) 4))

/-- A branch target that traps in no thread: a multiple of 8 in mapped code (R162). -/
abbrev GoodTarget (s : State) (x : Drill) (t : BitVec 48) : Prop :=
  t.toNat % 8 = 0 ∧ ((s.translate x.comp x.epoch t.toNat).map (·.code)) = some true

/-- What a trap leaves (R133, R135, R136): the drill parked with its record, in the die's queue or, while 256 stand there, waiting for it. -/
def Parks (i : Instr) (s : State) (d : DrillRef) (x : Drill) (p : Path) (tr : Trap) (mask detail word : DWord) : Prop :=
  ∃ t z r, Machine.exec i s = .next t ∧ t.drill? d = some z ∧ SameRegs x z ∧ z.cur = some p ∧ z.paths = x.paths ∧
    z.status = .parked r ∧ r = { trap := tr, pc := p.pc, faultMask := mask, pathMask := p.mask, instr := word, detail := detail } ∧
    t.mem = s.mem ∧
    let rec_ : FaultRec := { w := faultWords d x r s.time.now, slice := d.slice }
    let y := s.die (dieOf d.slice)
    if y.faults.length < 256 ∧ y.faultWait = [] then (t.die (dieOf d.slice)).faults = y.faults ++ [rec_]
    else (t.die (dieOf d.slice)).faultWait = y.faultWait ++ [rec_] ∧ (t.die (dieOf d.slice)).faults = y.faults

end Sys2Proof.Claim

/-- R161, R206, R209: a fence whose accesses are all performed lets the drill go on, as does an acquire fence, which has no load to wait for, and one at
core scope without G1 ordering once the drill's add-to-lines are performed; a full or acquire fence at host scope also drops the core's lines of host
memory, and no other fence changes anything. Another full or release fence beyond the core waits. -/
def Sys2Proof.Claim.FenceCompletesOncePerformed : Prop :=
  (∀ s d f x p act, Ready s d f 0x7 0x00 x p act → iModBits f.word 8 7 ≠ 1 → iModBits f.word 10 9 ≠ 0 → s.allPerformed d x = false →
    Machine.exec (.mfence d f) s = .next s) ∧
  ∀ s d f x p act, Ready s d f 0x7 0x00 x p act →
    (s.allPerformed d x = true ∨ iModBits f.word 8 7 = 1 ∨
      (iModBits f.word 10 9 = 0 ∧ x.g1 = false ∧ ∀ u ∈ x.unperformed, iCls u.word ≠ 6)) →
    (¬ (iModBits f.word 10 9 = 2 ∧ iModBits f.word 8 7 ≠ 2) → OnlyGoesOn (.mfence d f) s d x p) ∧
    (iModBits f.word 10 9 = 2 ∧ iModBits f.word 8 7 ≠ 2 → ∃ t z, Machine.exec (.mfence d f) s = .next t ∧ t.drill? d = some z ∧
      SameRegs x z ∧ (∃ q, z.cur = some q ∧ q.pc = p.pc + 8) ∧ (t.core d.slice).hostLines = [] ∧ t.mem = s.mem ∧
      (t.core d.slice).cache = (s.core d.slice).cache)

/-- R194, R196, Table 05-11: TWAIT of a reached target goes on and of another one blocks the path at the instruction; TPOLL says whether the
target is reached; TREAD reads the counter. -/
def Sys2Proof.Claim.TallyWaitsFollowTheSignedComparison : Prop :=
  (∀ s d f x p act, Ready s d f 0x8 0x00 x p act → OwnTally s d x (x.srcA f.word 0) →
    (reached ((s.core d.slice).tally (x.srcA f.word 0).toNat).value (x.srcB f.word 0) → OnlyGoesOn (.twait d f) s d x p) ∧
    (¬ reached ((s.core d.slice).tally (x.srcA f.word 0).toNat).value (x.srcB f.word 0) →
      ∃ t z q, Machine.exec (.twait d f) s = .next t ∧ t.drill? d = some z ∧ SameRegs x z ∧ q ∈ z.paths ∧ q.pc = p.pc ∧
        q.wait = .tally (x.srcA f.word 0).toNat (x.srcB f.word 0) ∧ p.mask &&& q.mask = p.mask)) ∧
  (∀ s d f x p act, Ready s d f 0x8 0x01 x p act → OwnTally s d x (x.srcA f.word 0) →
    ∃ t z, Machine.exec (.tpoll d f) s = .next t ∧ GoesOn s t d x p z ∧ WrotePred act x z (· = iDst f.word) fun _ _ =>
      decide (reached ((s.core d.slice).tally (x.srcA f.word 0).toNat).value (x.srcB f.word 0))) ∧
  ∀ s d f x p act, Ready s d f 0x8 0x02 x p act → OwnTally s d x (x.srcA f.word 0) →
    ∃ t z, Machine.exec (.tread d f) s = .next t ∧ GoesOn s t d x p z ∧
      Wrote f.word act 1 x z fun _ _ => ((s.core d.slice).tally (x.srcA f.word 0).toNat).value

/-- R125: LWAIT goes on when no active thread's word equals its gv; when one does, the active threads wait past the instruction until the line
is written or the wait times out, which makes them ready. -/
def Sys2Proof.Claim.LockWaitWaitsWhileTheWordIsUnchanged : Prop :=
  (∀ s d f x p act (y : Nat → Xlat) (n : Nat → Nat) (l : Nat → CLine), Ready s d f 0x9 0x00 x p act → LwaitFine s d x f.word act y n l →
    ((∀ k ∈ threads act, lwaitWord x f.word l k ≠ x.srcB f.word k) → OnlyGoesOn (.lwait d f) s d x p) ∧
    ((∃ k ∈ threads act, lwaitWord x f.word l k = x.srcB f.word k) →
      ∃ t z q ls, Machine.exec (.lwait d f) s = .next t ∧ t.drill? d = some z ∧ SameRegs x z ∧ DrillOnly s t d ∧ q ∈ z.paths ∧
        q.pc = p.pc + 8 ∧ q.wait = .lock ls ∧ act &&& q.mask = act ∧ ∀ k ∈ threads act, n k ∈ ls)) ∧
  ∀ s d pc x q ls, s.inService = true → s.dieUp (dieOf d.slice) = true → s.drill? d = some x → x.status = .active → q ∈ x.paths →
    q.pc = pc → q.wait = .lock ls →
    ∃ t z, Machine.exec (.lwaitTimeout d pc) s = .next t ∧ t.drill? d = some z ∧ SameRegs x z ∧ t.mem = s.mem ∧
      (∀ r ∈ z.paths, r.pc = pc → ∀ ls, r.wait ≠ .lock ls) ∧
      (∃ r, (z.cur = some r ∨ r ∈ z.paths) ∧ r.pc = pc ∧ q.mask &&& r.mask = q.mask)

/-- R125, R161, R194, R196, R206, R209: fences, tally waits and lock waits. -/
def Obligations.FencesAndMemoryWaits : Prop :=
  Claim.FenceCompletesOncePerformed ∧ Claim.TallyWaitsFollowTheSignedComparison ∧ Claim.LockWaitWaitsWhileTheWordIsUnchanged

/-- R127: when every live thread is at one DSYNC the drill goes on past it as one path; until then its threads wait at it. -/
def Sys2Proof.Claim.DrillSyncJoinsAllThreads : Prop :=
  ∀ s d f x p act, Ready s d f 0x9 0x01 x p act →
    (act = p.mask → (∀ q ∈ x.paths, q.wait = .sync ∧ q.pc = p.pc) →
      ∃ t z q, Machine.exec (.dsync d f) s = .next t ∧ t.drill? d = some z ∧ DrillOnly s t d ∧ SameRegs x z ∧ z.paths = [] ∧
        z.cur = some q ∧ q.pc = p.pc + 8 ∧ q.mask = x.live) ∧
    (x.syncMask none ||| act ≠ x.live →
      ∃ t z q, Machine.exec (.dsync d f) s = .next t ∧ t.drill? d = some z ∧ DrillOnly s t d ∧ SameRegs x z ∧ q ∈ z.paths ∧
        q.wait = .sync ∧ q.pc = p.pc ∧ act &&& q.mask = act)

/-- R132: a drill that arrives at a core barrier before the last waits there with its arrival recorded; the last frees the barrier unit, goes
on, and leaves no waiting drill blocked; another count than the first's traps, and those that wait keep waiting. -/
def Sys2Proof.Claim.CoreBarrierReleasesAtTheLastArrival : Prop :=
  ∀ s d f x p, Ready s d f 0x9 0x02 x p x.live → (x.srcA f.word 0).toNat < 16 → (x.srcB f.word 0).toNat ≤ 32 →
    let ub := (x.srcA f.word 0).toNat
    let uc := (x.srcB f.word 0).toNat
    (∀ b, find? (s.core d.slice).barriers ub = some b → b.count = uc → d ∉ b.waiting →
      (b.waiting.length + 1 < uc → ∃ t z q, Machine.exec (.cbar d f) s = .next t ∧ t.drill? d = some z ∧ SameRegs x z ∧
        find? (t.core d.slice).barriers ub = some { b with waiting := b.waiting ++ [d] } ∧ q ∈ z.paths ∧ q.pc = p.pc + 8 ∧ q.wait = .barrier ub) ∧
      (b.waiting.length + 1 = uc → ∃ t z q, Machine.exec (.cbar d f) s = .next t ∧ t.drill? d = some z ∧ SameRegs x z ∧
        find? (t.core d.slice).barriers ub = none ∧ z.cur = some q ∧ q.pc = p.pc + 8 ∧ t.mem = s.mem ∧
        ∀ e ∈ b.waiting, ∀ y, t.drill? e = some y → y.status = .active → ∀ r ∈ y.paths, r.wait ≠ .barrier ub)) ∧
    (find? (s.core d.slice).barriers ub = none → 1 < uc → ∃ t z q, Machine.exec (.cbar d f) s = .next t ∧ t.drill? d = some z ∧
      SameRegs x z ∧ find? (t.core d.slice).barriers ub = some { waiting := [d], context := x.context, count := uc } ∧ q ∈ z.paths ∧
      q.pc = p.pc + 8 ∧ q.wait = .barrier ub) ∧
    (find? (s.core d.slice).barriers ub = none → uc = 1 → ∃ t z q, Machine.exec (.cbar d f) s = .next t ∧ t.drill? d = some z ∧ SameRegs x z ∧
      find? (t.core d.slice).barriers ub = none ∧ z.cur = some q ∧ q.pc = p.pc + 8) ∧
    ∀ b, find? (s.core d.slice).barriers ub = some b → b.waiting ≠ [] → b.count ≠ uc →
      Parks (.cbar d f) s d x p .barrierMismatch x.live 0 f.word ∧
        ∃ t, Machine.exec (.cbar d f) s = .next t ∧ (t.core d.slice).barriers = (s.core d.slice).barriers

/-- R127, R132: a drill's threads join at DSYNC, a core's drills at a barrier. -/
def Obligations.ThreadsAndDrillsJoin : Prop :=
  Claim.DrillSyncJoinsAllThreads ∧ Claim.CoreBarrierReleasesAtTheLastArrival

/-- R92, R93, R175, R176, R184: AMM and XSUB read their descriptor from the seedbed, take the next token into their drill-uniform destination
and queue the operation behind the core's earlier ones. -/
def Sys2Proof.Claim.IssueTakesTheNextToken : Prop :=
  (∀ s d f x p, Ready s d f 0xA 0x00 x p x.live → (x.srcA f.word 0).toNat < 2 ^ 17 → (s.core d.slice).queue.length < 8 →
    s.tracked d.slice [granules (x.srcA f.word 0).toNat 1] [] = false →
    ∃ t z a, Machine.exec (.amm d f) s = .next t ∧ t.drill? d = some z ∧ t.mem = s.mem ∧
      Wrote f.word x.live 1 x z (fun _ _ => (s.core d.slice).arrayNext + 1) ∧ (∃ q, z.cur = some q ∧ q.pc = p.pc + 8) ∧
      (t.core d.slice).queue = (s.core d.slice).queue ++ [a] ∧ (t.core d.slice).arrayNext = (s.core d.slice).arrayNext + 1 ∧
      a.token = (s.core d.slice).arrayNext + 1 ∧ a.drill = d ∧ a.context = x.context ∧ a.phase = .queued ∧
      a.desc = readDWords (s.core d.slice).seedbed (32 * (x.srcA f.word 0).toNat) 4) ∧
  ∀ s d f x p act, Ready s d f 0xB 0x00 x p act → (x.srcA f.word 0).toNat < 2 ^ 17 → (s.core d.slice).xfers.length < 64 →
    s.tracked d.slice [granules (x.srcA f.word 0).toNat 2] [] = false →
    ∃ t z r, Machine.exec (.xsub d f) s = .next t ∧ t.drill? d = some z ∧ t.mem = s.mem ∧
      Wrote f.word act 1 x z (fun _ _ => (s.core d.slice).xferNext + 1) ∧ (∃ q, z.cur = some q ∧ q.pc = p.pc + 8) ∧
      z.lastXfer = some ((s.core d.slice).xferNext + 1) ∧
      (t.core d.slice).xfers = (s.core d.slice).xfers ++ [r] ∧ (t.core d.slice).xferNext = (s.core d.slice).xferNext + 1 ∧
      r.token = (s.core d.slice).xferNext + 1 ∧ r.use = .drill d ∧ r.context = x.context ∧ r.epoch = x.epoch ∧ r.phase = .waiting ∧
      r.desc = readDWords (s.core d.slice).seedbed (32 * (x.srcA f.word 0).toNat) 8

/-- R91, R93, R184: AWAIT, AFENCE, XWAIT and XFENCE go on once what they wait for is complete, and else block the path at the instruction;
APOLL and XPOLL say whether a token is complete. No failed array token may stand unreported for the array's ones (R95). -/
def Sys2Proof.Claim.TokenWaitsEndAtCompletion : Prop :=
  (∀ s d f x p act, Ready s d f 0xA 0x01 x p act → x.failed = [] → reached (s.core d.slice).arrayDone (x.srcA f.word 0) →
    OnlyGoesOn (.await d f) s d x p) ∧
  (∀ s d f x p act, Ready s d f 0xA 0x01 x p act → x.failed = [] → ¬ reached (s.core d.slice).arrayDone (x.srcA f.word 0) →
    ∃ t z q, Machine.exec (.await d f) s = .next t ∧ t.drill? d = some z ∧ SameRegs x z ∧ q ∈ z.paths ∧ q.pc = p.pc ∧
      q.wait = .array (x.srcA f.word 0) ∧ p.mask &&& q.mask = p.mask) ∧
  (∀ s d f x p act, Ready s d f 0xA 0x02 x p act → x.failed = [] → ∃ t z, Machine.exec (.apoll d f) s = .next t ∧ GoesOn s t d x p z ∧
    WrotePred act x z (· = iDst f.word) fun _ _ => decide (reached (s.core d.slice).arrayDone (x.srcA f.word 0))) ∧
  (∀ s d f x p act, Ready s d f 0xA 0x03 x p act → x.failed = [] → (∀ a ∈ (s.core d.slice).queue, a.drill ≠ d) →
    OnlyGoesOn (.afence d f) s d x p) ∧
  (∀ s d f x p act, Ready s d f 0xB 0x01 x p act → reached (s.core d.slice).xferDone (x.srcA f.word 0) → OnlyGoesOn (.xwait d f) s d x p) ∧
  (∀ s d f x p act, Ready s d f 0xB 0x01 x p act → ¬ reached (s.core d.slice).xferDone (x.srcA f.word 0) →
    ∃ t z q, Machine.exec (.xwait d f) s = .next t ∧ t.drill? d = some z ∧ SameRegs x z ∧ q ∈ z.paths ∧ q.pc = p.pc ∧
      q.wait = .transfer (x.srcA f.word 0) ∧ p.mask &&& q.mask = p.mask) ∧
  (∀ s d f x p act, Ready s d f 0xB 0x02 x p act → ∃ t z, Machine.exec (.xpoll d f) s = .next t ∧ GoesOn s t d x p z ∧
    WrotePred act x z (· = iDst f.word) fun _ _ => decide (reached (s.core d.slice).xferDone (x.srcA f.word 0))) ∧
  ∀ s d f x p act, Ready s d f 0xB 0x03 x p act → (∀ t, x.lastXfer = some t → reached (s.core d.slice).xferDone t) →
    OnlyGoesOn (.xfence d f) s d x p

/-- R91-R93, R175, R176, R184: array instructions and transfers are issued under tokens, which are awaited. -/
def Obligations.TokensAreTakenAndAwaited : Prop :=
  Claim.IssueTakesTheNextToken ∧ Claim.TokenWaitsEndAtCompletion

/-- R144, R149, R162, Table 05-12: a branch takes its active threads to their targets and leaves the others at the next word; CALL first writes the
address of the next word; nothing else changes. -/
def Sys2Proof.Claim.BranchesMoveTheActiveThreads : Prop :=
  (∀ s d f x p act, Ready s d f 0xC 0x00 x p act → p.wait = .runnable →
    let target : BitVec 48 := p.pc + 8 * (f.word.extractLsb' 0 24 : BitVec 24).signExtend 48
    GoodTarget s x target → ∃ t z, Machine.exec (.bra d f) s = .next t ∧ t.drill? d = some z ∧ DrillOnly s t d ∧ SameRegs x z ∧
      At z act target ∧ (p.mask &&& ~~~ act ≠ 0 → At z (p.mask &&& ~~~ act) (p.pc + 8))) ∧
  (∀ s d f x p act, Ready s d f 0xC 0x01 x p act → p.wait = .runnable →
    let target (k : Nat) : BitVec 48 := (x.rd (iAU f.word) k (iA f.word + 1) ++ x.rd (iAU f.word) k (iA f.word)).setWidth 48
    (∀ k ∈ threads act, GoodTarget s x (target k)) → ∃ t z, Machine.exec (.brind d f) s = .next t ∧ t.drill? d = some z ∧
      DrillOnly s t d ∧ SameRegs x z ∧ (∀ k ∈ threads act, At z (BitVec.ofNat 64 (2 ^ k)) (target k)) ∧
      (p.mask &&& ~~~ act ≠ 0 → At z (p.mask &&& ~~~ act) (p.pc + 8))) ∧
  ∀ s d f x p act, Ready s d f 0xC 0x02 x p act → p.wait = .runnable →
    let target : BitVec 48 := p.pc + 8 * (f.word.extractLsb' 0 24 : BitVec 24).signExtend 48
    GoodTarget s x target → ∃ t z, Machine.exec (.call d f) s = .next t ∧ t.drill? d = some z ∧ DrillOnly s t d ∧
      (Wrote f.word act 2 x z fun _ j => ((p.pc + 8).setWidth 64 : DWord).extractLsb' (32 * j) 32) ∧
      At z act target ∧ (p.mask &&& ~~~ act ≠ 0 → At z (p.mask &&& ~~~ act) (p.pc + 8))

/-- R121, Table 05-12: EXIT ends the active threads: the drill's last ones begin its drain, else the rest go on. -/
def Sys2Proof.Claim.ExitEndsTheActiveThreads : Prop :=
  (∀ s d f x p, Ready s d f 0xC 0x03 x p p.mask → x.paths = [] →
    ∃ t z, Machine.exec (.exit d f) s = .next t ∧ t.drill? d = some z ∧ DrillOnly s t d ∧ SameRegs x z ∧
      z.status = .draining p.pc p.mask f.word ∧ z.cur = none ∧ z.paths = []) ∧
  ∀ s d f x p act, Ready s d f 0xC 0x03 x p act → (∀ q ∈ x.paths, q.mask &&& act = 0 ∧ q.wait ≠ .sync) →
    (p.mask &&& ~~~ act ≠ 0 ∨ ∃ q ∈ x.paths, q.mask ≠ 0) →
    ∃ t z, Machine.exec (.exit d f) s = .next t ∧ t.drill? d = some z ∧ DrillOnly s t d ∧ SameRegs x z ∧ z.status = .active ∧
      (∀ q, z.cur = some q ∨ q ∈ z.paths → q.mask &&& act = 0) ∧ (p.mask &&& ~~~ act ≠ 0 → At z (p.mask &&& ~~~ act) (p.pc + 8))

/-- Table 05-12, Table 05-13: NOP only goes on, and SREG writes the special value that IMM[4:0] selects. -/
def Sys2Proof.Claim.NopAndSpecialValues : Prop :=
  (∀ s d f x p act, Ready s d f 0xC 0x04 x p act → OnlyGoesOn (.nop d f) s d x p) ∧
  ∀ s d f x p act, Ready s d f 0xC 0x07 x p act → ∃ t z, Machine.exec (.sreg d f) s = .next t ∧ GoesOn s t d x p z ∧
    Wrote f.word act (if iImm f.word ∈ [1, 2, 10, 11] then 2 else 1) x z fun k j =>
      let v : DWord := match iImm f.word with
        | 0 => BitVec.ofNat 64 k
        | 1 => act
        | 2 => x.live
        | 3 => BitVec.ofNat 64 d.slice
        | 4 => BitVec.ofNat 64 (d.slice / 8)
        | 5 => BitVec.ofNat 64 (d.slice % 8)
        | 6 => BitVec.ofNat 64 (8 * d.engine + d.slot)
        | 7 => x.context.setWidth 64
        | 8 => BitVec.ofNat 64 (x.comp * 256 + x.epoch.toNat)
        | 9 => x.pass.setWidth 64
        | 10 => BitVec.ofNat 64 s.time.now
        | _ => BitVec.ofNat 64 ((s.die (d.slice / 8)).fcTenths / 10)
      v.extractLsb' (32 * j) 32

/-- R121, R144, R149, R162, Tables 05-12 and 05-13: branches, EXIT, NOP and SREG. -/
def Obligations.ControlMovesTheThreads : Prop :=
  Claim.BranchesMoveTheActiveThreads ∧ Claim.ExitEndsTheActiveThreads ∧ Claim.NopAndSpecialValues

/-- R133-R136, Table 04-4, Table 05-12: TRAP parks the drill with a software trap or, with bit [7] clear, a report, IMM[6:0] in DETAIL; DBREAK parks it at
a breakpoint under debug unlock with drill scope, else as an illegal instruction. -/
def Sys2Proof.Claim.TrapInstructionsParkTheDrill : Prop :=
  ∀ s d f x p act,
    (Ready s d f 0xC 0x05 x p act → Parks (.trap d f) s d x p (if bit f.word 7 then .software else .report) act
      (f.word.extractLsb' 0 7 : BitVec 7).toNat f.word) ∧
    (Ready s d f 0xC 0x06 x p act → Parks (.dbreak d f) s d x p (if s.debugScope 0 then .breakpoint else .illegal) act 0 f.word)

/-- R143, R134: a word that R143 makes illegal, or of no listed operation, parks the drill with the illegal-instruction trap whichever row's
command delivers it; a poisoned word parks it with the poisoned-data trap at its address. -/
def Sys2Proof.Claim.IllegalWordsTrap : Prop :=
  ∀ s d f x p act, s.drill? d = some x → x.cur = some p → s.coreIssues d.slice = true → x.status = .active → x.mem = none →
    s.revokedCtx x.context = false →
    (f.poisoned = false → activeMask x f.word p.mask = act → act ≠ 0 → legalWord f.word = false → iCls f.word = 0x0 → iOp f.word = 0x02 →
      Parks (.iadd d f) s d x p .illegal act 0 f.word) ∧
    (f.poisoned = false → activeMask x f.word p.mask = act → act ≠ 0 → opSpec f.word = none →
      Parks (.nop d f) s d x p .illegal act 0 f.word) ∧
    (f.poisoned = true → Parks (.iadd d f) s d x p .poisoned p.mask (p.pc.setWidth 64) f.word)

/-- R148, R150: with a false guard in every thread of the path an instruction has no effect but that the path goes on. -/
def Sys2Proof.Claim.EmptyActiveMaskHasNoEffect : Prop :=
  ∀ s d f x p, s.drill? d = some x → x.cur = some p → s.coreIssues d.slice = true → x.status = .active → x.mem = none →
    s.revokedCtx x.context = false → f.poisoned = false → activeMask x f.word p.mask = 0 →
    (∀ r ∈ intRows, iCls f.word = 0x0 → iOp f.word = r.2.1 → OnlyGoesOn (r.1 d f) s d x p) ∧
    (iCls f.word = 0x9 → iOp f.word = 0x02 → OnlyGoesOn (.cbar d f) s d x p) ∧
    (iCls f.word = 0xC → iOp f.word = 0x05 → OnlyGoesOn (.trap d f) s d x p)

/-- R133-R136, R143, R148, R150, Table 04-4: trap instructions and illegal words park the drill; an empty active mask has no effect. -/
def Obligations.TrapsParkTheDrill : Prop :=
  Claim.TrapInstructionsParkTheDrill ∧ Claim.IllegalWordsTrap ∧ Claim.EmptyActiveMaskHasNoEffect

/-! ## Drill events -/

/-- R111, R113, R121, R136: a launch record fills a free slot with a drill whose registers are as R113 says; a waiting fault record enters the
die's queue once it has room; a drained drill frees its slot. -/
def Sys2Proof.Claim.DrillSlotsFillAndEmpty : Prop :=
  (∀ s slice l rest i, s.coreIssues slice = true → (s.core slice).launches = l :: rest → l.ok = true → s.revokedCtx l.ctx = false → l.engine < 4 →
    ((s.core slice).freeSlots l.engine).head? = some i →
    ∃ t x p, Machine.exec (.launchRecordTake slice) s = .next t ∧ (t.core slice).launches = rest ∧
      find? (t.core slice).drills (8 * l.engine + i) = some x ∧ x.cur = some p ∧ p.mask = l.w1 ∧ p.pc = l.w0.setWidth 48 ∧ x.paths = [] ∧
      x.status = .active ∧ x.nregs = ((l.w3 >>> 61).toNat + 1) * 8 ∧ x.ureg 0 = l.w2.extractLsb' 32 32 ∧ x.ureg 1 = l.w2.extractLsb' 0 32 ∧
      (∀ k, k < 64 → x.greg k 0 = BitVec.ofNat 32 k) ∧ (∀ k r, k < 64 → r < 64 → r ≠ 0 → x.greg k r = 0) ∧ (∀ r, x.preg r = 0) ∧
      (∀ r, 2 ≤ r → x.ureg r = 0) ∧ t.mem = s.mem) ∧
  (∀ s die r rest, (s.die die).faultWait = r :: rest → (s.die die).faults.length < 256 →
    ∃ t, Machine.exec (.faultRecordWrite die) s = .next t ∧ (t.die die).faults = (s.die die).faults ++ [r] ∧ (t.die die).faultWait = rest ∧
      t.mem = s.mem ∧ t.cores = s.cores) ∧
  ∀ s d x pc m w, s.drill? d = some x → x.status = .draining pc m w → (∀ a ∈ (s.core d.slice).queue, a.drill ≠ d) → x.unperformed = [] →
    x.failed = [] → ∃ t, Machine.exec (.drillDrainComplete d) s = .next t ∧ t.drill? d = none ∧ t.mem = s.mem ∧
      ∀ e : DrillRef, e.slice = d.slice → slotKey e ≠ slotKey d → t.drill? e = s.drill? e

/-- R137, Table 04-4: the outcomes of a parking whose record is in the die's queue. Replay takes the drill back to the trapping instruction, skip to
the one after it, and kill ends its threads; each removes the record. Under debug unlock of drills a debugger's changes to the drill come first. -/
def Sys2Proof.Claim.ParkingEndsByItsOutcome : Prop :=
  ∀ s d v p r e, s.inService = true → s.drill? d = some v → v.status = .parked r → v.cur ≠ none →
    (∃ q ∈ (s.die (dieOf d.slice)).faults, q.isFor d v r = true) → (e = none ∨ s.debugScope 0 = true) →
    let x := (e.map v.edited).getD v
    x.cur = some p →
    (s.outcomeOk v r .skip = true → ∃ t z q, Machine.exec (.parkSkip d e) s = .next t ∧ t.drill? d = some z ∧ z.status = .active ∧ SameRegs x z ∧
      z.cur = some q ∧ q.pc = p.pc + 8 ∧ (t.die (dieOf d.slice)).faults.length < (s.die (dieOf d.slice)).faults.length) ∧
    (s.outcomeOk v r .replay = true → r.trap.deferred = false → ∃ t z q, Machine.exec (.parkReplay d e) s = .next t ∧ t.drill? d = some z ∧
      z.status = .active ∧ SameRegs x z ∧ z.cur = some q ∧ q.pc = p.pc ∧
      (t.die (dieOf d.slice)).faults.length < (s.die (dieOf d.slice)).faults.length) ∧
    (s.outcomeOk v r .kill = true → (∀ a ∈ (s.core d.slice).queue, a.drill ≠ d) → x.unperformed = [] →
      ∃ t, Machine.exec (.parkKill d e) s = .next t ∧ t.drill? d = none)

/-- R111, R113, R121, R136, R137: slots fill and empty, parkings end by their outcome. -/
def Obligations.DrillSlotsAndParkingOutcomes : Prop :=
  Claim.DrillSlotsFillAndEmpty ∧ Claim.ParkingEndsByItsOutcome

/-! ## The furrow array and the transfer engines -/

namespace Sys2Proof.Claim

/-- The panel and the slice's die are in service. -/
abbrev SliceUp (s : State) (slice : Nat) : Prop := s.inService = true ∧ s.dieUp (slice / 8) = true

/-- The accumulator entry of column `j` of vector `b` (R76). -/
def accEntry (a : ArrayInstr) (b j : Nat) : Word := getD 0 a.acc (2048 * b + j)

/-- Output row `b` of an unscaled output starts here and is this long. -/
def outAt (d : ArrayDesc) (b : Nat) : Nat := 32 * (d.oaddr + b * d.ostride)
def outLen (d : ArrayDesc) : Nat := d.nc * fmtBits d.ofmt / 8

/-- A transfer of a core's queue whose one chunk `i` moves `n` bytes at offset `o` of row `r` within the seedbed. -/
abbrev SeedbedChunk (s : State) (q : XQueue) (tok : Word) (i : Nat) (x : Xfer) (r o n : Nat) : Prop :=
  q.q < 8 ∧ s.inService = true ∧ s.dieUp q.die = true ∧ s.xfer? q tok = some x ∧ (∃ e, e < 16 ∧ x.phase = .running e) ∧ x.stopped = false ∧
    x.done.contains i = false ∧ s.revokedCtx x.context = false ∧ (∀ d, s.dieUp d = true → (s.die d).ifFault = false) ∧
    (xferDesc x.desc).isFill = false ∧
    (xferDesc x.desc).skind = 0 ∧ (xferDesc x.desc).dkind = 0 ∧ (xferDesc x.desc).place i = some (r, o, n) ∧
    (match x.use with
      | .drill _ => True
      | .load _ => False)

end Sys2Proof.Claim

/-- R79, R84, R87: the head array instruction of valid descriptor starts by loading its first tile's weights into the shadow set; one whose
descriptor is invalid completes with status 1, one whose descriptor is poisoned with status 4, and the drill is told (R95). -/
def Sys2Proof.Claim.ArrayInstructionStarts : Prop :=
  (∀ s slice a rest, s.coreIssues slice = true → (s.core slice).queue = a :: rest → a.phase = .queued → a.descPoisoned = false →
    a.d.valid = true → a.d.outl = false → (s.core slice).xfers = [] → (s.core slice).canaryDue = false → s.revokedCtx a.context = false →
    (∀ b ∈ (s.core slice).queue, b.seq < a.seq → anyOverlap a.reads b.writes = false) →
    ∃ t ws a' rest', Machine.exec (.arrayInstrStart slice) s = .next t ∧ (t.core slice).shadow = some ws ∧ ws.token = a.token ∧ ws.tile = 0 ∧
      ws.w = readBytes (s.core slice).seedbed (32 * a.d.waddr) (32 * a.d.wGran) ∧ (t.core slice).queue = a' :: rest' ∧ a'.token = a.token ∧
      a'.phase = .loading 0 ∧ (t.core slice).arrayDone = (s.core slice).arrayDone ∧ (t.core slice).seedbed = (s.core slice).seedbed ∧
      t.mem = s.mem) ∧
  ∀ s slice a rest x, s.coreIssues slice = true → (s.core slice).queue = a :: rest → a.phase = .queued →
    (s.core slice).canaryDue = false → s.revokedCtx a.context = false → (a.descPoisoned = true ∨ a.d.valid = false) → a.drill.slice = slice → s.drill? a.drill = some x → x.context = a.context → x.status = .active →
    ∃ t z, Machine.exec (.arrayInstrStart slice) s = .next t ∧ (t.core slice).arrayDone = a.token ∧ (∀ b ∈ (t.core slice).queue, b.token ≠ a.token) ∧
      t.drill? a.drill = some z ∧ z.failed = x.failed ++ [(a.token, if a.descPoisoned then 4 else 1)] ∧
      (t.core slice).seedbed = (s.core slice).seedbed ∧ t.mem = s.mem

/-- R76, R80, R82: the swap makes the shadow set active and streams every vector past it: without ACC, the first tile leaves in entry (b, j) the
column sum of the tile and the vector's blocks, a later tile adds it to what stood there. -/
def Sys2Proof.Claim.ArraySwapStreamsTheTile : Prop :=
  ∀ s slice a rest k ws, SliceUp s slice → (s.core slice).queue = a :: rest → a.nextTile = some k → (s.core slice).shadow = some ws →
    ws.token = a.token → ws.tile = k → a.d.acc = false → (s.core slice).canaryDue = false →
    ∃ t a' rest', ∃ key : Nat → Nat → Nat, Machine.exec (.arrayTileSwap slice) s = .next t ∧ (t.core slice).active = some ws ∧ (t.core slice).queue = a' :: rest' ∧
      a'.token = a.token ∧ a'.phase = .streaming k ∧ (t.core slice).seedbed = (s.core slice).seedbed ∧ t.mem = s.mem ∧
      (∀ w, (t.core slice).shadow = some w → w.token = a.token ∧ w.tile = k + 1) ∧
      ∀ b j, b < a.d.nb → j < a.d.nc → accEntry a' b j =
        columnSum (narrowPair a.d.wfmt a.d.streamFmt) (key b j) (tileOf a.d.kr a.d.nc a.d.wfmt ws)
          ((List.range (a.d.kr / 32)).map fun g =>
            actBlock a.d a.d.qfmt a.d.quantizes (s.core slice).seedbed b (k * (a.d.kr / 32) + g)) j (accEntry a b j)

/-- R76, R79, R80, R82, R84, R87: the head array instruction starts and its tiles stream. -/
def Obligations.ArrayInstructionsStartAndStream : Prop :=
  Claim.ArrayInstructionStarts ∧ Claim.ArraySwapStreamsTheTile

/-- R93, R97: an array instruction that has streamed its last tile, met no poison and runs no check completes: its rows of outputs stand in the
seedbed, no other byte of the seedbed changes, and its token is the latest complete one. One that met poison completes with status 4 and
its drill is told (R95). -/
def Sys2Proof.Claim.ArrayInstructionCompletes : Prop :=
  (∀ s slice a rest, SliceUp s slice → (s.core slice).queue = a :: rest → a.phase = .streaming (a.d.kt - 1) → a.poisonMet = false →
    a.chkAction = 0 → a.canary = false → fmtScaled a.d.ofmt = false → (a.d.nb = 1 ∨ outLen a.d ≤ 32 * a.d.ostride) →
    (∀ b, b < a.d.nb → (drainVector a.d.ofmt ((List.range a.d.nc).map fun j => accEntry a b j)).2.1 = []) →
    (∀ b, b < a.d.nb → (drainVector a.d.ofmt ((List.range a.d.nc).map fun j => accEntry a b j)).1.length = outLen a.d) →
    ∃ t, Machine.exec (.arrayInstrComplete slice) s = .next t ∧ (t.core slice).arrayDone = a.token ∧
      (∀ b ∈ (t.core slice).queue, b.token ≠ a.token) ∧
      (∀ b, b < a.d.nb → readBytes (t.core slice).seedbed (outAt a.d b) (outLen a.d) =
        (drainVector a.d.ofmt ((List.range a.d.nc).map fun j => accEntry a b j)).1) ∧
      (∀ c, (∀ b, b < a.d.nb → c < outAt a.d b ∨ outAt a.d b + outLen a.d ≤ c) →
        readByte (t.core slice).seedbed c = readByte (s.core slice).seedbed c) ∧ t.mem = s.mem) ∧
  ∀ s slice a rest x, SliceUp s slice → (s.core slice).queue = a :: rest → a.phase = .streaming (a.d.kt - 1) → a.poisonMet = true →
    a.drill.slice = slice → s.drill? a.drill = some x → x.context = a.context → x.status = .active →
    ∃ t z, Machine.exec (.arrayInstrComplete slice) s = .next t ∧ (t.core slice).arrayDone = a.token ∧
      (∀ b ∈ (t.core slice).queue, b.token ≠ a.token) ∧ t.drill? a.drill = some z ∧ z.failed = x.failed ++ [(a.token, 4)] ∧ t.mem = s.mem

/-- R65-R68, R97: the chosen completed instruction of a canary pass is recomputed once: the pass's report counts as made and the instruction
no longer holds its operands. Until then the instructions queued behind it neither start nor swap a tile in. -/
def Sys2Proof.Claim.CanaryRecomputesTheChosenInstruction : Prop :=
  (∀ s slice c k x, SliceUp s slice → s.canaryWork slice = some k → k.instr.comp = c → s.comp? c = some x →
    s.canaryPass c = true → x.serve.canaryDone = false →
    ∃ t x', Machine.exec (.canaryRecompute slice) s = .next t ∧ t.comp? c = some x' ∧ x'.serve.canaryDone = true ∧ x'.serve.pass = x.serve.pass ∧
      x'.serve.st = x.serve.st ∧ (t.core slice).canaryDue = false ∧ (t.core slice).seedbed = (s.core slice).seedbed) ∧
  ∀ s slice, (s.core slice).canaryDue = true →
    Machine.exec (.arrayInstrStart slice) s = .next s ∧ Machine.exec (.arrayTileSwap slice) s = .next s

/-- R65, R66, R68, R93, R97: array instructions complete, canary work is recomputed. -/
def Obligations.ArrayInstructionsEnd : Prop :=
  Claim.ArrayInstructionCompletes ∧ Claim.CanaryRecomputesTheChosenInstruction

/-- R174, R180: an idle engine of a die takes the oldest transfer, free to start, of the first queue in rotation that has one, and works for that queue; a
descriptor that fails the checks of R180 gets status 1. -/
def Sys2Proof.Claim.TransferEngineTakesATransfer : Prop :=
  ∀ s die e pre i post x, s.inService = true → s.dieUp die = true → e < 16 → getD none (s.die die).engines e = none →
    visitOrder (s.die die).rotation = pre ++ i :: post → (∀ j ∈ pre, s.takeable ⟨die, j⟩ = none) → i < 8 →
    s.takeable ⟨die, i⟩ = some x → (s.die die).working i < s.xferCap ⟨die, i⟩ → x.remote s = false → x.descPoisoned = false → x.issued = 0 →
    s.xfer? ⟨die, i⟩ x.token = some x →
    ∃ t x', Machine.exec (.transferStart die e) s = .next t ∧ getD none (t.die die).engines e = some i ∧ (t.die die).rotation = (i + 2) % 9 ∧
      t.xfer? ⟨die, i⟩ x.token = some x' ∧ x'.phase = .running e ∧ t.mem = s.mem ∧
      x'.bad = x.bad ++ (if x.oddDesc = true ∨ (xferDesc x.desc).valid x.desc = false ∨
        (xferDesc x.desc).panelsOk s x.comp (8 * die + i) = false then [1] else [])

/-- R181, R190, R192, R193: a chunk from seedbed to seedbed copies its bytes, marks itself done, and with TALLY adds its length to a counter that the
context owns; every other byte of the seedbed and all other memory is unchanged. -/
def Sys2Proof.Claim.TransferChunkCopiesAndCounts : Prop :=
  ∀ s q tok i x r o n, SeedbedChunk s q tok i x r o n →
    let d := xferDesc x.desc
    let src := (d.srow r + o).toNat
    let dst := (d.drow r + o).toNat
    (∀ g ∈ (s.core (8 * q.die + q.q)).sbPoison, src + n ≤ 32 * g ∨ 32 * g + 32 ≤ src) →
    (d.tally = true → d.tslice = 8 * q.die + q.q ∧ ((s.core d.tslice).tally d.tctr).owner = some x.context ∧
      ((s.core d.tslice).tally d.tctr).frozen = false) →
    ∃ t x', Machine.exec (.transferChunkArrive q tok i) s = .next t ∧ t.xfer? q tok = some x' ∧ i ∈ x'.done ∧ t.mem = s.mem ∧
      (∀ j, j < n → readByte (t.core (8 * q.die + q.q)).seedbed (dst + j) = readByte (s.core (8 * q.die + q.q)).seedbed (src + j)) ∧
      (∀ a, a < dst ∨ dst + n ≤ a → readByte (t.core (8 * q.die + q.q)).seedbed a = readByte (s.core (8 * q.die + q.q)).seedbed a) ∧
      (d.tally = true → ((t.core d.tslice).tally d.tctr).value = ((s.core d.tslice).tally d.tctr).value + BitVec.ofNat 32 n)

/-- R184, R185, Table 06-4: a transfer whose chunks are all done frees its engine, leaves its queue and, as the next token in order, becomes the latest
complete one; with CREC its completion record is written first. -/
def Sys2Proof.Claim.TransferCompletesInTokenOrder : Prop :=
  ∀ s q tok x e, q.q < 8 → s.inService = true → s.dieUp q.die = true → s.xfer? q tok = some x → x.phase = .running e → x.bad = [] →
    x.descPoisoned = false → x.done.length = (xferDesc x.desc).total → s.link.conns = [] → (s.core (8 * q.die + q.q)).early = [] →
    tok = (s.core (8 * q.die + q.q)).xferDone + 1 →
    ∃ t, Machine.exec (.transferComplete q tok) s = .next t ∧ (t.core (8 * q.die + q.q)).xferDone = tok ∧ t.xfer? q tok = none ∧
      getD none (t.die q.die).engines e = none ∧ t.mem = s.mem ∧
      (∀ a, readByte (t.core (8 * q.die + q.q)).seedbed a =
        if (xferDesc x.desc).crec = true ∧ 32 * (xferDesc x.desc).caddr ≤ a ∧ a < 32 * (xferDesc x.desc).caddr + 8
        then (natLe 8 tok.toNat).getD (a - 32 * (xferDesc x.desc).caddr) 0
        else readByte (s.core (8 * q.die + q.q)).seedbed a)

/-- R174, R180, R181, R184, R185, R190, R192, R193: a transfer is taken by an engine, copies its chunks and completes in token order. -/
def Obligations.TransfersRunToTheirEnd : Prop :=
  Claim.TransferEngineTakesATransfer ∧ Claim.TransferChunkCopiesAndCounts ∧ Claim.TransferCompletesInTokenOrder

/-! ## Coherence -/

namespace Sys2Proof.Claim

/-- Sector `n` exists, its home is in service, and nothing else is under way at that home. -/
abbrev HomeIdle (s : State) (n : Nat) : Prop :=
  n < dramBytes / 256 ∧ s.inService = true ∧ s.dieUp (homeOf n) = true ∧ (s.die (homeOf n)).trans = [] ∧ (s.die (homeOf n)).pend = [] ∧
    (s.die (homeOf n)).sweep = []

/-- The only transaction under way at the home of `n` is `tr`, on `n`. -/
abbrev HomeBusy (s : State) (n : Nat) (tr : Trans) : Prop :=
  n < dramBytes / 256 ∧ s.inService = true ∧ s.dieUp (homeOf n) = true ∧ (s.die (homeOf n)).trans = [(n, tr)] ∧
    (s.die (homeOf n)).pend = [] ∧ (s.die (homeOf n)).sweep = []

/-- A message for cache `x` about sector `n` is under way. -/
def Sent (t : State) (n x : Nat) (m : CohMsg) : Prop := { sector := n, cache := x, msg := m } ∈ t.net

/-- Cache `k` and its die are in service and none of its drills awaits a memory answer. -/
abbrev CacheQuiet (s : State) (n k : Nat) : Prop :=
  n < dramBytes / 256 ∧ s.inService = true ∧ s.dieUp (k / 8) = true ∧ ∀ e ∈ (s.core k).drills, e.2.mem = none

/-- The cores are as before, but for their meters, which count the flits of messages (Table 14-6). -/
def Metered (s t : State) : Prop := ∀ k, t.core k = { s.core k with meters := (t.core k).meters }

/-- Only the directory and its messages have changed: no byte of memory, and of the cores their meters alone. -/
def HomeOnly (s t : State) : Prop := t.mem = s.mem ∧ Metered s t ∧ t.time = s.time ∧ t.nv = s.nv

end Sys2Proof.Claim

/-- Table 09-4, R263, R270: at an idle home, GetS of a present sector that no cache owns sends its data and adds the requester to the readers; GetM
of an unshared one sends data and makes the requester owner; GetM from the only reader that still has data is granted without data; PutM from the
owner is absorbed and acknowledged. -/
def Sys2Proof.Claim.HomeGrantsPermission : Prop :=
  (∀ s n x hint g, HomeIdle s n → s.gsec? n = some g → (∀ o, g.dir ≠ .ex o) →
    ∃ t, Machine.exec (.getS n x hint) s = .next t ∧ HomeOnly s t ∧ Sent t n x (.dataS g.data g.poison) ∧
      t.gsec? n = some { g with dir := g.dir.join x } ∧ (t.die (homeOf n)).trans = []) ∧
  (∀ s n x hint have_ g, HomeIdle s n → s.gsec? n = some g → g.dir = .un →
    ∃ t, Machine.exec (.getM n x hint have_) s = .next t ∧ t.mem = s.mem ∧ Metered s t ∧ Sent t n x (.dataM g.data g.poison) ∧
      t.gsec? n = some { g with dir := .ex x } ∧ (t.die (homeOf n)).trans = []) ∧
  (∀ s n x hint g, HomeIdle s n → s.gsec? n = some g → g.dir = .sh [x] →
    ∃ t, Machine.exec (.getM n x hint true) s = .next t ∧ t.mem = s.mem ∧ Metered s t ∧ Sent t n x .grantM ∧
      t.gsec? n = some { g with dir := .ex x } ∧ (t.die (homeOf n)).trans = []) ∧
  ∀ s n x v p g, HomeIdle s n → s.gsec? n = some g → g.dir = .ex x →
    ∃ t, Machine.exec (.putM n x v p) s = .next t ∧ HomeOnly s t ∧ Sent t n x .wbAck ∧
      t.gsec? n = some { g with data := v, poison := p, dirty := true, dir := .un }

/-- Table 09-4: GetS of an owned sector recalls it from its owner, and GetM of a sector with other readers invalidates them: the transaction waits. -/
def Sys2Proof.Claim.HomeAsksHoldersFirst : Prop :=
  (∀ s n x hint g o, HomeIdle s n → s.gsec? n = some g → g.dir = .ex o →
    ∃ t tr, Machine.exec (.getS n x hint) s = .next t ∧ t.mem = s.mem ∧ Metered s t ∧ Sent t n o (.recall false) ∧
      find? (t.die (homeOf n)).trans n = some tr ∧ tr.req = .getS x hint ∧ tr.owner = some (o, false)) ∧
  ∀ s n x hint have_ g ks k, HomeIdle s n → s.gsec? n = some g → g.dir = .sh ks → k ∈ ks → k ≠ x → s.dieUp (k / 8) = true →
    ∃ t tr, Machine.exec (.getM n x hint have_) s = .next t ∧ t.mem = s.mem ∧ Metered s t ∧ Sent t n k .inv ∧
      find? (t.die (homeOf n)).trans n = some tr ∧ tr.req = .getM x hint have_ ∧ k ∈ tr.acks

/-- R263, R270, Table 09-4: a home grants permission, or first asks the holders. -/
def Obligations.HomeGrantsOrAsksHolders : Prop :=
  Claim.HomeGrantsPermission ∧ Claim.HomeAsksHoldersFirst

/-- R272, R273, Table 09-4: a combined atomic group, or an add-to-line group, at the idle home of a present, unshared, sound sector changes the
sector as its members do in order; the atomic's answer carries the value before each member. -/
def Sys2Proof.Claim.HomePerformsAtomics : Prop :=
  ∀ s n x a g, HomeIdle s n → s.gsec? n = some g → g.dir = .un → g.poison = false →
    (∃ t, Machine.exec (.atomReq n x a) s = .next t ∧ t.mem = s.mem ∧ Sent t n x (.atomResp a (groupOnSector a g.data).2 false) ∧
      t.gsec? n = some { g with data := (groupOnSector a g.data).1, dirty := true }) ∧
    (∃ t, Machine.exec (.raddReq n x a) s = .next t ∧ t.mem = s.mem ∧ Sent t n x (.raddAck a false) ∧
      t.gsec? n = some { g with data := (groupOnSector a g.data).1, dirty := true })

/-- R129, R272: a group's members take effect one by one; the answer lists the value that each found. -/
def Sys2Proof.Claim.GroupMembersTakeEffectInOrder : Prop :=
  ∀ g v m ms, groupRun g v [] = (v, []) ∧
    (groupRun g v (m :: ms)).2 = BitVec.ofNat 64 v :: (groupRun g (groupApply g v m) ms).2 ∧
    (groupRun g v (m :: ms)).1 = (ms.foldl (groupApply g) (groupApply g v m)) ∧ (groupRun g v (m :: ms)).2.length = ms.length + 1

/-- Table 09-4, R268, R270: the last InvAck makes a writer the owner and an earlier one is counted; the owner's data, asked for by a reader, enters the
granary as dirty and goes to the reader; a clean fill brings the sector's DRAM data in and answers the reader. -/
def Sys2Proof.Claim.HomeAnswersComplete : Prop :=
  (∀ s n x k hint g tr, HomeBusy s n tr → tr = { req := .getM x hint false, acks := [k], owner := none, fill := false, memOp := false, byPutM := false } →
    s.gsec? n = some g → (∃ ks, g.dir = .sh ks) →
    ∃ t, Machine.exec (.invAck n k) s = .next t ∧ t.mem = s.mem ∧ Metered s t ∧ Sent t n x (.dataM g.data g.poison) ∧
      t.gsec? n = some { g with dir := .ex x } ∧ (t.die (homeOf n)).trans = []) ∧
  (∀ s n k j rest tr, HomeBusy s n tr → tr.acks = k :: j :: rest →
    ∃ t, Machine.exec (.invAck n k) s = .next t ∧ t.mem = s.mem ∧ t.cores = s.cores ∧
      find? (t.die (homeOf n)).trans n = some { tr with acks := j :: rest }) ∧
  (∀ s n x o hint v p g tr, HomeBusy s n tr →
    tr = { req := .getS x hint, acks := [], owner := some (o, false), fill := false, memOp := false, byPutM := false } →
    s.gsec? n = some g → g.dir = .ex o →
    ∃ t, Machine.exec (.recallData n o v p) s = .next t ∧ HomeOnly s t ∧ Sent t n x (.dataS v p) ∧
      t.gsec? n = some { g with data := v, poison := p, dirty := true, dir := .sh [o, x] } ∧ (t.die (homeOf n)).trans = []) ∧
  ∀ s n x hint w tr, HomeBusy s n tr →
    tr = { req := .getS x hint, acks := [], owner := none, fill := true, memOp := false, byPutM := false } →
    s.gline? n = none → getD 0 s.mem.parity (channelOf n) = 0 → (∀ e ∈ s.mem.errs, e.1 / 4 ≠ n) → s.mem.poison.contains n = false →
    freeWay ((s.die (homeOf n)).setLines (granIndex (256 * n))) (s.wayGroup n) = some w →
    ∃ t, Machine.exec (.homeFillDone n) s = .next t ∧ t.mem = s.mem ∧ Sent t n x (.dataS (s.dramSector n).1 false) ∧
      t.gsec? n = some { data := (s.dramSector n).1, dirty := false, poison := false, pins := [], dir := .sh [x] } ∧
      (t.die (homeOf n)).trans = []

/-- R129, R268, R270, R272, R273, Table 09-4: atomic groups at a home, and the answers that end a transaction. -/
def Obligations.HomePerformsAndAnswers : Prop :=
  Claim.HomePerformsAtomics ∧ Claim.GroupMembersTakeEffectInOrder ∧ Claim.HomeAnswersComplete

/-- Tables 08-1 and 09-4, R232, R237, R257: at the idle home of a present, unshared sector a non-caching read answers its data and keeps no copy, and a discarding
one that is not in debug mode drops the sector; a non-caching write puts its bytes in the sector, which is dirty, and answers. -/
def Obligations.NonCachingAccessesActAtTheHome : Prop :=
  ∀ s n src g, HomeIdle s n → s.gsec? n = some g → g.dir = .un → s.agentRevoked src = false →
    (∀ unc hint ro, hint ≠ 3 → ∃ t, Machine.exec (.nonCachingRead n src unc hint ro) s = .next t ∧ t.mem = s.mem ∧ t.gsec? n = some g ∧
      t.host.outs = s.host.outs ++ [.ncData src n g.data g.poison]) ∧
    (∀ unc ro, s.reqDebug (.read src unc 3 ro) = false → ∃ t, Machine.exec (.nonCachingRead n src unc 3 ro) s = .next t ∧ t.mem = s.mem ∧
      t.gsec? n = none ∧ t.host.outs = s.host.outs ++ [.ncData src n g.data g.poison]) ∧
    (∀ hint first len data poison, first + len ≤ 256 →
      ∃ t g', Machine.exec (.nonCachingWrite n src .write false hint first len data poison) s = .next t ∧
      t.mem = s.mem ∧ t.host.outs = s.host.outs ++ [.ncDone src n 0] ∧ t.gsec? n = some g' ∧ g'.dirty = true ∧ g'.dir = .un ∧
      ∀ i, i < 256 → sectorByte g'.data i = if first ≤ i ∧ i < first + len then sectorByte data i else sectorByte g.data i)

/-- Table 09-3: Inv drops a shared line, a Recall takes an owned line's data, WBAck ends a write-back, and ownership without data turns SM_D to M;
the answers of the cache go to the home. -/
def Obligations.CacheFollowsItsTable : Prop :=
  (∀ s n k l, CacheQuiet s n k → s.line? k n = some l → l.st = .s →
    ∃ t, Machine.exec (.inv n k) s = .next t ∧ t.line? k n = none ∧ Sent t n k .invAck ∧ t.mem = s.mem ∧ t.dies = s.dies) ∧
  (∀ s n k l toI, CacheQuiet s n k → s.line? k n = some l → l.st = .m →
    ∃ t, Machine.exec (.recall n k toI) s = .next t ∧ Sent t n k (.recallData l.data l.poison) ∧ t.mem = s.mem ∧ t.dies = s.dies ∧
      t.line? k n = if toI then none else some { l with st := .s, deferred := none }) ∧
  (∀ s n k l, CacheQuiet s n k → s.line? k n = some l → l.st = .miA →
    ∃ t, Machine.exec (.wback n k) s = .next t ∧ t.line? k n = none ∧ t.mem = s.mem ∧ t.dies = s.dies) ∧
  (∀ s n k l v p, CacheQuiet s n k → s.line? k n = some l → l.st = .isD → l.loads = [] → l.stores = [] →
    ∃ t, Machine.exec (.dataS n k v p) s = .next t ∧ t.line? k n = some { l with st := .s, data := v, poison := p } ∧ t.mem = s.mem ∧ t.dies = s.dies) ∧
  (∀ s n k l w, CacheQuiet s n k → s.line? k n = some l → l.st = .smD → l.loads = [] → l.stores = [w] → l.deferred = none →
    s.revokedCtx w.context = false →
    ∃ t l', Machine.exec (.grantM n k) s = .next t ∧ t.line? k n = some l' ∧ l'.st = .m ∧ l'.data = putBytes l.data w.bytes ∧ l'.stores = [] ∧
      t.mem = s.mem ∧ t.dies = s.dies) ∧
  ∀ s n k l v p w, CacheQuiet s n k → s.line? k n = some l → (l.st = .imD ∨ l.st = .smD) → l.loads = [] → l.stores = [w] → l.deferred = none →
    s.revokedCtx w.context = false →
    ∃ t l', Machine.exec (.dataM n k v p) s = .next t ∧ t.line? k n = some l' ∧ l'.st = .m ∧ l'.data = putBytes v w.bytes ∧ l'.stores = [] ∧
      t.mem = s.mem ∧ t.dies = s.dies

/-- R133, R147, R271: the data a drill's load or atomic awaits ends it: the destination registers of its threads take the values and the path goes on;
an add-to-line's acknowledgement counts as performed. -/
def Obligations.AnswersEndTheDrillsAccess : Prop :=
  (∀ s n (d : DrillRef) l ws x p m v, n < dramBytes / 256 → s.inService = true → s.dieUp (d.slice / 8) = true → s.line? d.slice n = some l →
    l.st = .isD → l.stores = [] → l.loads = ws → (∀ w ∈ ws, w.drill = d ∧ w.context = x.context ∧ w.late = false ∧ w.dead = false) → (ws.map (·.thread)).Nodup →
    (s.core d.slice).drills = [(slotKey d, x)] → x.cur = some p → x.status = .active → x.mem = some m → m.due = [n] → m.got = [] → m.bad = [] →
    iCls m.word = 5 → iOp m.word = 0 → iDU m.word = false → iDst m.word + sizeRegs (iSize m.word) ≤ 64 → ws ≠ [] →
    ∃ t z q, Machine.exec (.dataS n d.slice v false) s = .next t ∧ t.line? d.slice n = some { l with st := .s, data := v, poison := false, loads := [] } ∧
      t.drill? d = some z ∧ z.mem = none ∧ z.status = .active ∧ z.cur = some q ∧ q.pc = p.pc + 8 ∧ t.mem = s.mem ∧ t.dies = s.dies ∧
      (∀ w ∈ ws, ∀ j, j < sizeRegs (iSize m.word) → z.greg w.thread (iDst m.word + j) =
        loadedWord (iSize m.word) (leNat (sectorBytes v w.byte w.bytes)) j) ∧
      (∀ r k, r < 64 → (∀ w ∈ ws, w.thread ≠ k) → z.greg k r = x.greg k r) ∧ z.p = x.p ∧ z.u = x.u) ∧
  (∀ s n (d : DrillRef) a olds x p m, n < dramBytes / 256 → s.inService = true → s.dieUp (d.slice / 8) = true →
    (s.core d.slice).drills = [(slotKey d, x)] → x.cur = some p → x.status = .active → x.mem = some m → m.due = [256 * n + a.byte] → m.got = [] →
    m.bad = [] → iCls m.word = 6 → iOp m.word < 8 → iSize m.word < 4 → iDU m.word = false → a.drill = d → x.context = a.context → a.members.length = olds.length →
    (a.members.map (·.thread)).Nodup →
    ∃ t z q, Machine.exec (.atomResp n d.slice a olds false) s = .next t ∧ t.drill? d = some z ∧ z.mem = none ∧ z.status = .active ∧
      z.cur = some q ∧ q.pc = p.pc + 8 ∧ t.mem = s.mem ∧ t.dies = s.dies ∧
      (∀ (i : Nat) (e : AtomMember) (o : DWord), a.members[i]? = some e → olds[i]? = some o → z.greg e.thread (iDst m.word) = o.setWidth 32) ∧
      (∀ r k, r < 64 → r ≠ iDst m.word → z.greg k r = x.greg k r) ∧ z.p = x.p ∧ z.u = x.u) ∧
  ∀ s n (d : DrillRef) a x, CacheQuiet s n d.slice → s.drill? d = some x → a.drill = d → x.context = a.context →
    ∃ t z, Machine.exec (.raddAck n d.slice a false) s = .next t ∧ t.drill? d = some z ∧ t.mem = s.mem ∧
      z = { x with unperformed := removeFirst (fun u => decide (u.key = raddKey n)) x.unperformed }

/-- R245, R255, R274: at the end of a thrash window the figures are held and the window begins anew; a flush of a slice leaves no sector of the slice's
memory in the granary; once a home has swept out a reset die, no directory entry of the sector in question names one of its cores. -/
def Obligations.GranaryHousekeeping : Prop :=
  (∀ s die, s.inService = true → s.dieUp die = true → die < 24 →
    ∃ t, Machine.exec (.thrashWindowEnd die) s = .next t ∧ (t.die die).accesses = 0 ∧ (t.die die).misses = 0 ∧ t.cores = s.cores ∧
      t.mem.dram = s.mem.dram ∧ (t.die die).gran = (s.die die).gran ∧
      t.reg .grnThrashLast die 0 = min 255 ((s.die die).pinnedLines / 4096) * 256 +
        min 255 (if (s.die die).accesses = 0 then 0 else (s.die die).misses * 256 / (s.die die).accesses)) ∧
  (∀ s slice c x, s.owner? slice = some (c, true) → s.inService = true → s.dieUp (slice / 8) = true → s.comp? c = some x → s.drained c x = true →
    ∃ t, Machine.exec (.granarySliceFlush slice) s = .next t ∧ ∀ n ∈ s.flushSet slice, s.settled n = true → t.gsec? n = none ∧
      ∀ g, s.gsec? n = some g → g.dirty = true → g.dir = .un → readBytes t.mem.dram (256 * n) 256 = sectorBytes g.data 0 256) ∧
  ∀ s home reset n g, s.inService = true → s.dieUp home = true → (s.die home).sweep = [reset] → (s.die home).trans = [] → (s.die home).pend = [] →
    homeOf n = home → s.gsec? n = some g → (s.die home).gran = [(n / 4, (s.gline? n).getD ⟨.e, 0, 0, [], []⟩)] →
    ∃ t g', Machine.exec (.coherenceSweepDone home reset) s = .next t ∧ (t.die home).sweep = [] ∧ t.gsec? n = some g' ∧
      (∀ k ∈ g'.dir.holders, k / 8 ≠ reset) ∧ (g'.poison = true ↔ g.poison = true ∨ ∃ o, g.dir = .ex o ∧ o / 8 = reset)

/-! ## Stacked memory -/

/-- R290-R293: a sample below 100 °C is held as Ts, raises the refresh rate to its row at once and never lowers it by more than a row; a reading
that fails, of the stack or under its footprint, counts as 100 °C and is counted; a refreshed bank takes the rate in force. -/
def Sys2Proof.Claim.RefreshFollowsTheTemperature : Prop :=
  (∀ s die r f, s.inService = true → die < 24 → s.dieUp die = true → max r f < 100 →
    ∃ t, Machine.exec (.stackTempSample die (some r) (some f)) s = .next t ∧ (t.die die).ts = max r f ∧ refreshRow (max r f) ≤ (t.die die).rate ∧
      ((t.die die).rate = refreshRow (max r f) ∨ (t.die die).rate = (s.die die).rate ∨ (t.die die).rate + 1 = (s.die die).rate) ∧
      t.mem = s.mem ∧ t.cores = s.cores ∧ t.net = s.net) ∧
  (∀ s die r f, s.inService = true → die < 24 → s.dieUp die = true → (r = none ∨ f = none) → tempOf r ≤ 100 → tempOf f ≤ 100 →
    ∃ t, Machine.exec (.stackTempSample die r f) s = .next t ∧ (t.die die).ts = 100 ∧ (t.die die).throttle = true ∧ 2 ≤ (t.die die).rate ∧
      t.reg .memTempFail die 0 = min 0xFFFFFFFF (s.reg .memTempFail die 0 + 1) ∧ t.mem.dram = s.mem.dram ∧ t.cores = s.cores) ∧
  ∀ s die pc bank, s.inService = true → die < 24 → s.dieUp die = true → pc < 32 → bank < 48 →
    ∃ t, Machine.exec (.bankRefresh die pc bank) s = .next t ∧ getD 0 (t.die die).bankRate (48 * pc + bank) = (s.die die).rate ∧
      (∀ k, k ≠ 48 * pc + bank → getD 0 (t.die die).bankRate k = getD 0 (s.die die).bankRate k) ∧ t.mem = s.mem ∧ t.cores = s.cores

/-- R298, R300: an ECC window ends by beginning anew under the threshold register; the patrol scrubber reads its codewords in turn, and a clean one changes no
memory; an uncorrectable one marks its sector POISON and is counted. -/
def Sys2Proof.Claim.EccWindowsAndScrubbing : Prop :=
  (∀ s die, s.inService = true → die < 24 → s.dieUp die = true →
    ∃ t, Machine.exec (.eccWindowEnd die) s = .next t ∧ (t.die die).eccWin = 0 ∧ (t.die die).eccReported = false ∧
      (t.die die).eccThr = s.reg .memEccThr die 0 ∧ t.mem = s.mem ∧ t.cores = s.cores) ∧
  (∀ s die cw, s.inService = true → die < 24 → s.dieUp die = true → (s.die die).scrubNext = cw → cw ≠ 0 → (s.die die).scrubPer ≠ 0 →
    s.mem.poison.contains (die * 16 * channelBytes / 256 + cw / 4) = false →
    getD 0 s.mem.parity (channelOf (die * 16 * channelBytes / 256 + cw / 4)) = 0 → (∀ e ∈ s.mem.errs, e.1 ≠ die * stackCodewords + cw) →
    ∃ t, Machine.exec (.patrolScrubRead die cw) s = .next t ∧ (t.die die).scrubNext = (cw + 1) % stackCodewords ∧ t.mem = s.mem ∧
      t.cores = s.cores) ∧
  ∀ s die cw, s.inService = true → die < 24 → s.dieUp die = true → (s.die die).scrubNext = cw → cw ≠ 0 → (s.die die).scrubPer ≠ 0 →
    s.mem.poison.contains (die * 16 * channelBytes / 256 + cw / 4) = false →
    getD 0 s.mem.parity (channelOf (die * 16 * channelBytes / 256 + cw / 4)) = 0 →
    s.mem.errs.find? (fun e => decide (e.1 = die * stackCodewords + cw)) = some (die * stackCodewords + cw, true) →
    ∃ t, Machine.exec (.patrolScrubRead die cw) s = .next t ∧ (t.die die).scrubNext = (cw + 1) % stackCodewords ∧
      t.mem.poison.contains (die * 16 * channelBytes / 256 + cw / 4) = true ∧ t.mem.dram = s.mem.dram ∧ t.cores = s.cores

/-- R301, R302, R539, Tables 10-8 and 20-6: a margining command whose operation, fields and die allow it starts a sweep; the sweep ends with its passing steps,
at most the steps asked for. -/
def Sys2Proof.Claim.MarginSweepsRunAndEnd : Prop :=
  (∀ r ∈ ([(Instr.marginReadDelay, 1), (.marginWriteDelay, 2), (.marginReadReference, 3), (.marginWriteReference, 4), (.marginSupply, 5)] :
      List ((Nat → Word → Instr) × Nat)),
    ∀ s die w, s.inService = true → die < 24 → s.dieUp die = true → bits w 31 28 = r.2 → bits w 15 8 ≠ 0 → bits w 7 0 ≤ 2 →
      (∀ k ∈ slicesOf die, s.owner? k = none) → (s.die die).margin.busy = false →
      ∃ t, Machine.exec (r.1 die w) s = .next t ∧
        (t.die die).margin = { steps := bits w 15 8, done := false, busy := true, err := false, low := 0, high := 0, lane := 0 } ∧
        (t.die die).undef.isSome = true ∧ t.mem = s.mem ∧ t.cores = s.cores) ∧
  (∀ s die low high lane, s.inService = true → die < 24 → (s.die die).margin.busy = true →
    ∃ t, Machine.exec (.memMarginSweepDone die low high lane) s = .next t ∧ (t.die die).margin =
      { (s.die die).margin with busy := false, done := true, low := min low (s.die die).margin.steps, high := min high (s.die die).margin.steps, lane := min lane 35 } ∧
      t.mem = s.mem ∧ t.cores = s.cores) ∧
  (∀ r ∈ ([(Instr.lmarginTiming, 1), (.lmarginReference, 2)] : List ((Nat → Word → Instr) × Nat)),
    ∀ s die w, s.inService = true → die < 24 → s.dieUp die = true → bits w 31 28 = r.2 → bits w 15 8 ≠ 0 →
      (s.die die).lmargin.busy = false → s.laneUp die (bits w 27 26) (bits w 25 23) = true →
      ∃ t, Machine.exec (r.1 die w) s = .next t ∧
        (t.die die).lmargin = { steps := bits w 15 8, done := false, busy := true, err := false, low := 0, high := 0, lane := 0 } ∧
        t.mem = s.mem ∧ t.cores = s.cores) ∧
  (∀ r ∈ ([(Instr.xmarginTiming, 1), (.xmarginReference, 2)] : List ((Word → Instr) × Nat)),
    ∀ s w, s.inService = true → bits w 31 28 = r.2 → bits w 15 8 ≠ 0 → s.tst.xmargin.busy = false →
      s.portUp (s.lanePort (bits w 27 22)) = true →
      ∃ t, Machine.exec (r.1 w) s = .next t ∧
        t.tst.xmargin = { steps := bits w 15 8, done := false, busy := true, err := false, low := 0, high := 0, lane := 0 } ∧
        t.mem = s.mem ∧ t.cores = s.cores ∧ t.dies = s.dies) ∧
  (∀ s die low high, s.inService = true → die < 24 → (s.die die).lmargin.busy = true →
    ∃ t, Machine.exec (.linkMarginSweepDone (some die) low high) s = .next t ∧ (t.die die).lmargin.busy = false ∧ (t.die die).lmargin.done = true ∧
      (t.die die).lmargin.low = min low (s.die die).lmargin.steps ∧ (t.die die).lmargin.high = min high (s.die die).lmargin.steps ∧ t.mem = s.mem) ∧
  ∀ s low high, s.inService = true → s.tst.xmargin.busy = true →
    ∃ t, Machine.exec (.linkMarginSweepDone none low high) s = .next t ∧ t.tst.xmargin.busy = false ∧ t.tst.xmargin.done = true ∧
      t.tst.xmargin.low = min low s.tst.xmargin.steps ∧ t.tst.xmargin.high = min high s.tst.xmargin.steps ∧ t.mem = s.mem

/-- R290-R293, R298, R300-R302, R539: refresh follows the temperature, ECC windows and the scrubber run, margining sweeps start and end. -/
def Obligations.StackUpkeepAndSweeps : Prop :=
  Claim.RefreshFollowsTheTemperature ∧ Claim.EccWindowsAndScrubbing ∧ Claim.MarginSweepsRunAndEnd

/-! ## The hedgerow fabric -/

namespace Sys2Proof.Claim

/-- Memory, the cores and the compositions are as before. -/
def Aside (s t : State) : Prop := t.mem = s.mem ∧ t.cores = s.cores ∧ t.yoke = s.yoke

/-- An active port of a running switch. -/
abbrev Linked (s : State) (p : PortRef) : Prop := portExists p = true ∧ s.nodeUp p.node = true ∧ (s.hport p).st = .active

/-- A training port of a running switch. -/
abbrev Training (s : State) (p : PortRef) : Prop := portExists p = true ∧ s.nodeUp p.node = true ∧ (s.hport p).st = .training

/-- The port trains, and its unacknowledged messages await a new route, in the reroute buffer or, where that has no more room, behind it. -/
def Retrains (i : Instr) (s : State) (p : PortRef) : Prop :=
  ∃ t, Machine.exec i s = .next t ∧ (t.hport p).st = .training ∧ (t.hport p).replay = [] ∧
    (t.switch p.node).reroute.map (·.msg) ++ (t.hport p).left =
      (s.switch p.node).reroute.map (·.msg) ++ ((s.hport p).left ++ (s.hport p).unacked) ∧ Aside s t

/-- The port has dropped a flit: its switch is as before, a gap is open, and every active group carries a NAK with the missing SEQ. -/
def Naks (s t : State) (p : PortRef) : Prop :=
  t.switch p.node = s.switch p.node ∧ (t.hport p).rxSeq = (s.hport p).rxSeq ∧ (t.hport p).gap = true ∧ Aside s t ∧
    ∀ g, g < 8 → bit (s.hport p).agreed g = true → ∃ l ∈ (t.hport p).linkOut, l.group = g ∧ l.nak = some (s.hport p).rxSeq

/-- The latest agreement has failed: the third failure in a row takes the port down, an earlier one trains it again. -/
def AgreementFails (i : Instr) (s : State) (p : PortRef) : Prop :=
  ∃ t, Machine.exec i s = .next t ∧ t.cores = s.cores ∧ t.yoke = s.yoke ∧ (t.hport p).offerOut = none ∧ (t.hport p).offerIn = none ∧
    if (s.hport p).fails < 2 then (t.hport p).st = .training ∧ (t.hport p).fails = (s.hport p).fails + 1 else (t.hport p).st = .down

/-- A whole message of its source's present generation, to a destination in service, at a running switch. -/
abbrev Passes (s : State) (node : Nat) (m : HdgMsg) : Prop :=
  (node < 24 ∨ node = 0x1E ∨ node = 0x1F) ∧ s.nodeUp node = true ∧ m.whole = true ∧ s.staleMsg m = false ∧ (m.dst < 24 → s.dieUp m.dst = true)

/-- Message `i` of a switch, that came by a port. -/
abbrev HeldAt (s : State) (node i : Nat) (h : Held) : Prop :=
  Passes s node h.msg ∧ (s.switch node).inbox[i]? = some h ∧ h.port < 4

/-- What R317 does with a message at a spot. -/
def wayOf (s : State) (a : Spot) (m : HdgMsg) : Forward := s.forward a m.level m.mrow m.mcol m.dst
def way (s : State) (node : Nat) (h : Held) : Forward := wayOf s (s.spotOf node h.port) h.msg

/-- The messages in a switch, with the ports they came by. -/
def inMsgs (w : Switch) : List (Nat × HdgMsg) := w.inbox.map fun h => (h.port, h.msg)

/-- Message `i` has left the switch, and no other has. -/
def Left (s t : State) (node i : Nat) : Prop := inMsgs (t.switch node) = (inMsgs (s.switch node)).eraseIdx i

/-- Port `p` has sent message `m`: one flit, or two where the message has a further data flit, with the next SEQs. -/
def SentBy (s t : State) (p : PortRef) (m : HdgMsg) : Prop :=
  (t.hport p).replay.map (fun e => (e.seq, e.cont, e.msg)) = (s.hport p).replay.map (fun e => (e.seq, e.cont, e.msg)) ++
      ((s.hport p).txSeq, false, m) :: (if m.more.isSome then [((s.hport p).txSeq + 1, true, m)] else []) ∧
    (t.hport p).txSeq = (s.hport p).txSeq + BitVec.ofNat 12 m.flits

end Sys2Proof.Claim

/-- R308-R312: a flit in order with a good CRC gives its messages to the switch, and a further data flit completes the message before it; one with a bad CRC is
dropped and counted, and so is a later one while none is NAKed, and both are NAKed; while a gap is open later flits are dropped. A NAK is counted by the flits it sends again and the eighth in a row for one SEQ retrains the port, as do an ACKSEQ timeout, loss of lock on an active
group, and a training partner; loss of lock on a bypass group clears that group. -/
def Obligations.HedgerowLinkCarriesFlits : Prop :=
  (∀ s p f, Linked s p → flitOk f = true → fKind f = 1 ∨ fKind f = 2 → fSeq f = (s.hport p).rxSeq →
    ∃ t, Machine.exec (.flitReceive p f) s = .next t ∧ (t.hport p).rxSeq = fSeq f + 1 ∧ (t.hport p).gap = false ∧ (t.hport p).ackDue = true ∧
      Aside s t ∧
      (fFurther f = false → (∀ m ∈ flitMsgs f, s.staleMsg m = false) →
        inMsgs (t.switch p.node) = inMsgs (s.switch p.node) ++ (flitMsgs f).map fun m => (p.port, m)) ∧
      ∀ i h, fFurther f = true → (s.switch p.node).waitsMore p.port (fSeq f) = some i → (s.switch p.node).inbox[i]? = some h →
        inMsgs (t.switch p.node) = (inMsgs (s.switch p.node)).set i (h.port, { h.msg with more := some (fData f, fPoison f) })) ∧
  (∀ s p f, Linked s p → flitOk f = true → fKind f = 1 ∨ fKind f = 2 → fSeq f ≠ (s.hport p).rxSeq → (fSeq f - (s.hport p).rxSeq).toNat < 2048 →
    ∃ t, Machine.exec (.flitReceive p f) s = .next t ∧ ((s.hport p).gap = true → t = s) ∧ ((s.hport p).gap = false → Naks s t p)) ∧
  (∀ s p f, Linked s p → flitOk f = false → ∃ t, Machine.exec (.flitReceive p f) s = .next t ∧ Naks s t p ∧
    t.reg .hdgCrcErr (nodeBlock p.node) p.port = min 0xFFFFFFFF (s.reg .hdgCrcErr (nodeBlock p.node) p.port + 1)) ∧
  (∀ s p q, Linked s p → (∃ e ∈ (s.hport p).replay, e.seq = q) →
    (¬ ((s.hport p).nakSeq = q ∧ 7 ≤ (s.hport p).nakRun) → ∃ t, Machine.exec (.nak p q) s = .next t ∧ (t.hport p).st = .active ∧
      (t.hport p).replay = (s.hport p).replay ∧ Aside s t ∧ t.reg .hdgReplay (nodeBlock p.node) p.port =
        min 0xFFFFFFFF (s.reg .hdgReplay (nodeBlock p.node) p.port + (s.hport p).resent q)) ∧
    ((s.hport p).nakSeq = q ∧ 7 ≤ (s.hport p).nakRun → Retrains (.nak p q) s p)) ∧
  (∀ s p, Linked s p → (s.hport p).replay ≠ [] → Retrains (.ackProgressTimeout p) s p) ∧
  (∀ s p, Linked s p → Retrains (.partnerTrainingSequence p) s p) ∧
  (∀ s p g, Linked s p → g < 8 → bit (s.hport p).agreed g = true → Retrains (.laneLockLoss p g) s p) ∧
  ∀ s p g, portExists p = true → s.nodeUp p.node = true → g < 8 → bit (s.hport p).agreed g = false → bit (s.hport p).bypassUp g = true →
    ∃ t, Machine.exec (.laneLockLoss p g) s = .next t ∧ bit (t.hport p).bypassUp g = false ∧ (t.hport p).st = (s.hport p).st ∧ t.cores = s.cores ∧
      t.yoke = s.yoke

/-- R313, R316: the groups that pass are offered; with both OFFERs the groups of both form the CONFIRM; equal CONFIRMs make the port active on those
groups, with sequence numbers from 0 and a credit for every free buffer of the partner; a mismatch, an empty set or an agreement that is not
over in time fails. -/
def Obligations.TrainingAgreesOnGroups : Prop :=
  (∀ s p m, Training s p → (s.hport p).offerOut = none → (s.hport p).offerIn = none → (s.hport p).confirmOut = none →
    ∃ t, Machine.exec (.groupTrainingDone p m) s = .next t ∧ (t.hport p).st = .training ∧ t.cores = s.cores ∧ t.yoke = s.yoke ∧
      (t.hport p).offerOut = some (m &&& roleGroups (s.portRole p) 1) ∧ (t.hport p).bypassUp = m &&& roleGroups (s.portRole p) 2) ∧
  (∀ s p m a, Training s p → (s.hport p).offerOut = some a → (s.hport p).offerIn = none → (s.hport p).confirmIn = none →
    (a &&& m ≠ 0 → ∃ t, Machine.exec (.hdgOffer p m) s = .next t ∧ (t.hport p).st = .training ∧ (t.hport p).offerIn = some m ∧
      (t.hport p).confirmOut = some (a &&& m) ∧ Aside s t) ∧
    (a &&& m = 0 → AgreementFails (.hdgOffer p m) s p)) ∧
  (∀ s p m a b, Training s p → (s.hport p).offerOut = some a → (s.hport p).offerIn = some b → (s.hport p).confirmIn = none →
    (m = a &&& b ∧ m ≠ 0 → ∃ t, Machine.exec (.hdgConfirm p m) s = .next t ∧ (t.hport p).st = .active ∧ (t.hport p).agreed = m ∧
      (t.hport p).fails = 0 ∧ (t.hport p).txSeq = 0 ∧ (t.hport p).rxSeq = 0 ∧ (t.hport p).replay = [] ∧
      ((∀ o, s.partnerOf p = some o → ∀ h ∈ (s.switch o.node).inbox, h.port ≠ o.port) →
        ∀ v, v < 9 → getD 0 (t.hport p).credits v = if v = 8 then 448 else 8) ∧ t.cores = s.cores ∧ t.yoke = s.yoke) ∧
    (¬ (m = a &&& b ∧ m ≠ 0) → AgreementFails (.hdgConfirm p m) s p)) ∧
  ∀ s p, Training s p → AgreementFails (.agreementTimeout p) s p

/-- R313, R314, R317, R319, R320, R322: a switch delivers a message, hands it on by a port in a flit with the next SEQ, or moves it to the reroute buffer, as the procedure of
R317 says; a request waits while its home withholds credits, and any message while the reroute buffer has no room for it; a node's own message takes
its turn from the route table; new tables give every node its routes; a replay window within its threshold ends by beginning anew. -/
def Obligations.SwitchesForwardByTheProcedure : Prop :=
  (∀ s node i h, HeldAt s node i h → way s node h = .deliver → ∃ t, Machine.exec (.switchForward node (.held i)) s = .next t ∧
    (s.unitWaits node h.msg = true → t = s) ∧
    (s.unitWaits node h.msg = false →
      (t.switch node).delivered = (s.switch node).delivered ++ [h.msg] ∧ Left s t node i ∧ Aside s t)) ∧
  (∀ s node i h l dir, HeldAt s node i h → way s node h = .hop l (.blocked dir) → ∃ t, Machine.exec (.switchForward node (.held i)) s = .next t ∧
    ((s.switch node).rerouteRoom dir < h.msg.flits → t = s) ∧
    (h.msg.flits ≤ (s.switch node).rerouteRoom dir →
      (t.switch node).reroute = (s.switch node).reroute ++ [{ port := dir, msg := h.msg, ready := false }] ∧ Left s t node i ∧ Aside s t)) ∧
  (∀ s node i h l dir b p, HeldAt s node i h → way s node h = .hop l (.port dir b) → s.portAt (s.spotOf node h.port) dir = some p →
    ∃ t, Machine.exec (.switchForward node (.held i)) s = .next t ∧ ((s.hport p).canSend (h.msg.setLevel l) = false → t = s) ∧
      ((s.hport p).canSend (h.msg.setLevel l) = true → Left s t node i ∧ SentBy s t p (h.msg.setLevel l) ∧ Aside s t)) ∧
  (∀ s node m r l dir b p, Passes s node (s.stamp node m) → find? (s.switch node).routes m.dst = some r →
    let a := s.spotOf node (s.column node 4 (s.stamp node m))
    wayOf s a (s.stamp node m) = .hop l (.port dir b) → s.portAt a dir = some p → (s.hport p).canSend ((s.stamp node m).setLevel l) = true →
    m.whole = true ∧ m.dst ≠ node →
    ∃ t, Machine.exec (.switchForward node (.injected m)) s = .next t ∧ SentBy s t p ((s.stamp node m).setLevel l) ∧
      (s.stamp node m).mrow = r.mrow % 8 ∧ (s.stamp node m).mcol = r.mcol % 4 ∧ t.mem = s.mem ∧ t.yoke = s.yoke ∧ Metered s t ∧
      ∀ c, s.compOfCtx m.context = some c → m.context ≠ 0 → node < 24 → m.unit < 8 →
        getD 0 (t.core (8 * node + m.unit)).meters (16 * c + 6) = getD 0 (s.core (8 * node + m.unit)).meters (16 * c + 6) + m.flits) ∧
  (∀ s, s.inService = true → (∀ d, d ∈ s.nodes → d < 24 → s.newRoutes.isolated d = false) →
    ∃ t, Machine.exec .routeRecompute s = .next t ∧ (∀ n ∈ s.nodes, (t.switch n).routes = s.routesFrom n) ∧ Aside s t) ∧
  ∀ s p, portExists p = true → s.nodeUp p.node = true → (s.hport p).winReplays ≤ (s.hport p).thr →
    ∃ t, Machine.exec (.replayWindowEnd p) s = .next t ∧ Aside s t ∧
      t.hport p = { s.hport p with winReplays := 0, thr := s.reg .hdgReplayThr (nodeBlock p.node) 0 }

/-! ## Scale-out -/

namespace Sys2Proof.Claim

/-- A data frame of TYPE `type` for this panel arrives on a port that is up, and the MAC passes it. -/
abbrev Arrives (s : State) (port : Nat) (f : TltFrame) (type : Nat) : Prop :=
  s.portUp port = true ∧ tType f = type ∧ s.macTakes f = true ∧ s.takesFrame f = true

/-- No channel of a die in service is at fault. -/
abbrev Sound (s : State) : Prop := ∀ d, s.dieUp d = true → (s.die d).ifFault = false

/-- A frame sent from port `p` to panel `peer` goes from the port's address to the peer's derived one, with the TLT EtherType and the panel's tag (R327, R342). -/
def Framed (s : State) (p peer : Nat) (g : TltFrame) : Prop := g.eth = s.ethHdr (derivedMac (tSysid g) peer p) (s.portMac p) s.tltEtherType

/-- The state that knows the sender's ports. -/
def learnt (s : State) (port : Nat) (f : TltFrame) : State := s.setConn (rxKey port f) { s.conn (rxKey port f) with peerPorts := tPorts f }

/-- How a READ_REQ reads its data: with hint 0, keeping the sector, at the cost of the slice that owns it (R338, R406). -/
def readsFor (s : State) (port : Nat) (f : TltFrame) : ReadHow where
  comp := tComp f
  epoch := tEpoch f
  hint := 0
  payer := s.framePayer f (bits f.w1 47 0)
  uncached := false
  waiter := frameWaiter port f
  lastRead := fun _ => false

/-- A code entered the log at the present head. -/
def Logged (s t : State) (c : Code) : Prop := find? t.rel.log (s.rel.head % 256) = some { code := c, time := s.time.now }

/-- A port is free for a frame to the sender. -/
abbrev CanAnswer (s : State) (port : Nat) (f : TltFrame) : Prop :=
  (pickPort (s.livePorts (port / 8) (tPorts f)) (s.conn (rxKey port f)).nextPort none).isSome = true

end Sys2Proof.Claim

/-- R330, R333, R334, R338: a WRITE frame in the window writes its bytes once and falls due for acknowledgement; a duplicate of one that succeeded
only falls due again; the ACK with STATUS 0 carries the highest SEQ below which all is acknowledged; a READ_REQ is answered with the data read
under its tag; a lease's READ_RESP brings its sector; an ACK frees the frames it covers. -/
def Obligations.LinkTransportDeliversFrames : Prop :=
  (∀ s port f sl a, Arrives s port f 0 → tCgen f = (s.conn (rxKey port f)).rxGen →
    find? (s.conn (rxKey port f)).rxSeen (tSeq f).toNat = none → (tSeq f - (s.conn (rxKey port f)).rxBase).toNat < 256 →
    s.heldAlready port f = false → Sound s → s.revokedCtx (tContext f) = false →
    s.epochUse (tComp f) (tEpoch f) = .live → s.translate (tComp f) (tEpoch f) (bits f.w1 47 0) = none → sliceForm f.w1 = some (sl, a) →
    s.sliceStatus (tComp f) (tEpoch f) sl = 0 → tTally f = false → (s.core sl).saved = none → f.payload.length ≤ 256 → bit (tPoison f) 0 = false →
    a + f.payload.length ≤ 0x400000 →
    ∃ t, Machine.exec (.tltWrite port f) s = .next t ∧ t.mem = s.mem ∧ (t.conn (rxKey port f)).ackDue = true ∧
      (∀ i, i < f.payload.length → readByte (t.core sl).seedbed (a + i) = f.payload.getD i 0) ∧
      ∀ b, b < a ∨ a + f.payload.length ≤ b → readByte (t.core sl).seedbed b = readByte (s.core sl).seedbed b) ∧
  (∀ s port f, Arrives s port f 0 → tCgen f = (s.conn (rxKey port f)).rxGen → find? (s.conn (rxKey port f)).rxSeen (tSeq f).toNat = some 0 →
    ∃ t, Machine.exec (.tltWrite port f) s = .next t ∧ Aside s t ∧ t.link.eth = s.link.eth ∧
      t.conn (rxKey port f) = { s.conn (rxKey port f) with peerPorts := tPorts f, ackDue := true }) ∧
  (∀ s h peer, s.inService = true → h < 2 → peer < 4096 → (s.conn (connKey h peer)).ackDue = true →
    (pickPort (s.livePorts h (s.conn (connKey h peer)).peerPorts) (s.conn (connKey h peer)).nextPort none).isSome = true →
    ∃ t p g, Machine.exec (.writeAckSend h peer) s = .next t ∧ Aside s t ∧ (t.conn (connKey h peer)).ackDue = false ∧
      t.link.eth = s.link.eth ++ [.tlt p g] ∧ Framed s p peer g ∧ tType g = 3 ∧ tDst g = peer ∧ tStatus g = 0 ∧
      tSeq g = (s.conn (connKey h peer)).rxBase - 1 ∧ g.payload = ackBitmap (s.conn (connKey h peer))) ∧
  (∀ s port f u bs, Arrives s port f 1 → tCgen f = (s.conn (rxKey port f)).rxGen → s.heldAlready port f = false →
    find? s.tst.captures (tComp f) = none → s.revokedCtx (tContext f) = false → s.epochUse (tComp f) (tEpoch f) = .live →
    bits f.w1 47 0 + tLen f ≤ 2 ^ 48 →
    (learnt s port f).readDevice (readsFor s port f) (pieces (bits f.w1 47 0 : Nat) (tLen f) 18) = .ok (u, bs) →
    u.link = (learnt s port f).link → Sound u → CanAnswer s port f →
    ∃ t p g, Machine.exec (.tltReadReq port f) s = .next t ∧ t.mem = u.mem ∧ tType g = 2 ∧ tSeq g = tSeq f ∧ tStatus g = 0 ∧
      g.payload = bs.map (·.1) ∧ t.link.eth = s.link.eth ++ [.tlt p g] ∧ Framed u p (tSrc f) g) ∧
  (∀ s port f e die key l, Arrives s port f 2 → s.readOf port f = some e → s.heldAlready port f = false →
    tCgen f = (s.conn (rxKey port f)).txGen → tStatus f = 0 → tPoison f = 0 → e.use = .lease die key → s.lease? die key = some l → l.loads = [] →
    l.ended = false → l.t0 < l.t1 → (∀ k ∈ slicesOf die, ∀ x ∈ (s.core k).drills, x.2.mem = none) →
    ∃ t, Machine.exec (.tltReadResp port f) s = .next t ∧ t.mem = s.mem ∧
      t.lease? die key = some { l with data := sectorOf f.payload, poison := false, pending := false, loads := [] } ∧
      ∀ x ∈ (t.conn (rxKey port f)).reads, x.seq ≠ tSeq f) ∧
  ∀ s port f e q tok i x, Arrives s port f 3 → tStatus f = 0 → tCgen f = (s.conn (rxKey port f)).txGen →
    (s.conn (rxKey port f)).window.filter (fun e => ackCovers f e.seq) = [e] → e.use = .xfer q tok i → s.xfer? q tok = some x →
    x.context = tContext e.frame →
    (xferDesc x.desc).frameFrom x.issued = [] →
    ∃ t y, Machine.exec (.tltAck port f) s = .next t ∧ t.mem = s.mem ∧ t.xfer? q tok = some y ∧
      (t.conn (rxKey port f)).window = (s.conn (rxKey port f)).window.filter (fun e => !ackCovers f e.seq) ∧
      ∀ j, j < ((xferDesc x.desc).frameFrom i).length → i + j ∈ y.done

/-- R335, R340, R341, R343, R352, R326: a frame unanswered for the retransmission time is sent again; discovery gives, confirms, defends and releases the system address;
a port that loses link leaves the rotation and one that regains it rejoins; frames with a bad FCS, PAUSE, too long or of another EtherType are dropped
and counted. -/
def Obligations.ScaleOutPortsAndDiscovery : Prop :=
  (∀ s h peer q e, s.inService = true → h < 2 → peer < 4096 →
    (s.conn (connKey h peer)).window.find? (fun e => decide (e.seq = q)) = some e →
    e.sentAt + e.rto * 1000 ≤ s.time.now → s.revokedCtx (tContext e.frame) = false → e.tries < e.retries → s.livePorts h (s.conn (connKey h peer)).peerPorts ≠ [] →
    ∃ t p g y, Machine.exec (.retransmitTimeout h peer false q) s = .next t ∧ Aside s t ∧
      t.link.eth = s.link.eth ++ [.tlt p g] ∧ Framed s p (tDst g) g ∧ g.w0 = e.frame.w0 ∧ g.w1 = e.frame.w1 ∧
      g.w2 = e.frame.w2 ∧ g.payload = e.frame.payload ∧ y ∈ (t.conn (connKey h peer)).window ∧ y.seq = q ∧ y.tries = e.tries + 1 ∧
      y.sentAt = s.time.now ∧ y.rto = s.rtoNow ∧ y.retries = s.retriesNow ∧ p ∈ s.livePorts h (s.conn (connKey h peer)).peerPorts ∧
      (p = e.port → ∀ r ∈ s.livePorts h (s.conn (connKey h peer)).peerPorts, r = e.port)) ∧
  (∀ s n, s.inService = true → ∃ t, Machine.exec (.helloTimer n) s = .next t ∧ Aside s t ∧ t.link.nonce = some (s.link.nonce.getD n) ∧
    t.link.eth = s.link.eth ++ s.upPorts.map fun p => .disc p 0x8 (discTo (t.discovery p) 0x03474C000001)) ∧
  (∀ s port h, s.portUp port = true → h.eth.type = s.tltEtherType → s.link.sysAddr = none → s.link.nonce = some h.nonce → h.panelId = s.sec.panelId →
    ∃ t, Machine.exec (.tltAssign port h) s = .next t ∧ Aside s t ∧ t.link.sysAddr = some (h.address, h.sysid) ∧ Logged s t 0x102FF036 ∧
      t.link.eth = s.link.eth ++ s.upPorts.map fun p => .disc p 0xA (discTo (t.discovery p) h.eth.src)) ∧
  (∀ s port h a, s.portUp port = true → h.eth.type = s.tltEtherType → s.addr? = some a → h.valid = true → h.address.toNat = a.1 → h.panelId ≠ s.sec.panelId →
    ∃ t, Machine.exec (.tltHello port h) s = .next t ∧ Aside s t ∧ Logged s t 0x202FF034) ∧
  (∀ s port h, s.portUp port = true → h.eth.type = s.tltEtherType → s.link.sysAddr.isSome = true → (∀ e ∈ s.yoke.comps, e.2.span = false) →
    ∃ t, Machine.exec (.tltRelease port h) s = .next t ∧ Aside s t ∧ t.link.sysAddr = none ∧ t.link.conns = [] ∧ t.link.nonce = none) ∧
  (∀ s port, s.portUp port = true → ∃ t, Machine.exec (.scaleoutPortLinkLoss port) s = .next t ∧ Aside s t ∧ bit t.link.up port = false ∧
    (∀ p, p ≠ port → bit t.link.up p = bit s.link.up p) ∧ t.link.conns = s.link.conns) ∧
  (∀ s port, s.inService = true → port < 16 → bit s.link.up port = false → bits s.start.portMap (2 * port + 1) (2 * port) ≠ 0 →
    ∃ t, Machine.exec (.scaleoutPortLinkUp port) s = .next t ∧ Aside s t ∧ bit t.link.up port = true ∧
      ∀ p, p ≠ port → bit t.link.up p = bit s.link.up p) ∧
  ∀ s port f, s.portUp port = true → ∃ t, Machine.exec (.ethernetFrameDrop port f) s = .next t ∧ Aside s t ∧ t.link = s.link ∧
    (f.fcsOk = false → t.reg .xltFcsErr 0 port = min 0xFFFFFFFF (s.reg .xltFcsErr 0 port + 1)) ∧
    (f.fcsOk = true → f.pause = true ∨ 4150 < f.bytes ∨ (f.eth.type ≠ s.tltEtherType ∧ f.eth.type ≠ ptpEtherType) →
      t.reg .xltDrop 0 0 = min 0xFFFFFFFF (s.reg .xltDrop 0 0 + 1)) ∧
    (f.fcsOk = true → s.macPasses f = true → t = s)

/-- R344-R349: the best announced master on an up port is followed; a Sync, or the Follow_Up of a two-step one, measures the offset, which is slewed
within the step threshold, stepped forward beyond it when the counter is behind, and run off when it is ahead; timestamps lie within 4 ns of the counter; the
path delay is half the
sum of the one-way differences; holdover begins and is reported. -/
def Obligations.DeviceTimeFollowsTheMaster : Prop :=
  let measured (i : Instr) (s : State) (off : Int) : Prop :=
    ∃ t, Machine.exec i s = .next t ∧ t.time.offset = off ∧ t.cores = s.cores ∧ t.yoke = s.yoke ∧
      let thr : Int := s.reg .timStepThr 0 0
      ((off.natAbs : Int) ≤ thr → t.time.now = s.time.now ∧ t.time.slew = -off * 10000) ∧
      (¬ (off.natAbs : Int) ≤ thr → off < 0 → t.time.now = s.time.now + off.natAbs) ∧
      (¬ (off.natAbs : Int) ≤ thr → 0 ≤ off → t.time.now = s.time.now ∧ t.time.back = off.toNat) ∧
      (t.time.st = .locked ↔ off.natAbs < 50 ∧ 15 ≤ s.time.good)
  (∀ s port h m r, s.takesPtp port h = true → ∃ t, Machine.exec (.ptpAnnounce port h m r) s = .next t ∧ Aside s t ∧
    t.time.masters = insert s.time.masters port (m, r) ∧ t.time.port = (bestPort s.link.up t.time.masters).map (·.1)) ∧
  (∀ s port, s.ptpOn = true → port < 16 → ∃ t, Machine.exec (.announceReceiptTimeout port) s = .next t ∧ Aside s t ∧
    t.time.masters = erase s.time.masters port ∧ t.time.port = (bestPort s.link.up t.time.masters).map (·.1)) ∧
  (∀ s port h k origin e, s.takesPtp port h = true → s.time.port = some port →
    measured (.ptpSync port h false k origin e) s ((s.eventStamp e : Int) - origin - s.time.delay) ∧
    (∃ t, Machine.exec (.ptpSync port h true k origin e) s = .next t ∧ Aside s t ∧
      t.time = { s.time with pendSync := some (port, s.eventStamp e), syncAt := s.time.now, syncEvery := some (intervalNs k) }) ∧
    s.eventStamp e ≤ s.time.now + 4 ∧ s.time.now ≤ s.eventStamp e + 4) ∧
  (∀ s port h (origin rx : Nat), s.takesPtp port h = true → s.time.pendSync = some (port, rx) →
    measured (.ptpFollowUp port h origin) s ((rx : Int) - origin - s.time.delay)) ∧
  (∀ s port e, s.ptpOn = true → s.portUp port = true → s.time.port = some port → ∃ t, Machine.exec (.ptpDelayReqTimer port e) s = .next t ∧
    Aside s t ∧ t.time = { s.time with reqAt := some (s.eventStamp e) } ∧ t.link.eth = s.link.eth ++
      [.delayReq port { eth := s.ethHdr ptpAddress (s.portMac port) ptpEtherType, domain := s.ptpDomain } (s.eventStamp e)]) ∧
  (∀ s port h rx tx, s.takesPtp port h = true → s.time.port = some port → s.time.reqAt = some tx →
    ∃ t, Machine.exec (.ptpDelayResp port h rx) s = .next t ∧ Aside s t ∧
      t.time = { s.time with reqAt := none, delay := ((s.time.ms + ((rx : Int) - tx)) / 2).toNat }) ∧
  (∀ s n, s.inService = true → s.time.syncEvery = some n → s.time.syncAt + 4 * n ≤ s.time.now → s.time.st = .acquiring ∨ s.time.st = .locked → ∃ t, Machine.exec .holdoverTimeout s = .next t ∧ Aside s t ∧
    t.time.st = .holdover ∧ t.time.heldAt = s.time.now ∧ t.time.now = s.time.now ∧ Logged s t 0x10CFF0E2) ∧
  ∀ s, s.inService = true → s.time.st = .holdover → s.time.heldReported = false →
    s.time.heldAt + s.reg .timHoldLimit 0 0 * 1000000000 < s.time.now →
    ∃ t, Machine.exec .holdoverLimitExpiry s = .next t ∧ Aside s t ∧ t.time = { s.time with heldReported := true } ∧ Logged s t 0x20CFF0E3

/-! ## The host interface -/

namespace Sys2Proof.Claim

/-- The completion queue `c` of entry `x` takes an entry into its ring at once, and the completion of `x` ends nothing else. -/
abbrev Roomy (s : State) (e : EntryRef) (x : Entry) (c : Cq) : Prop :=
  (s.fn e.fn).entries.filter (fun y => decide (y.ref = e)) = [x] ∧ e.sq < 0x10000 ∧ (∀ y ∈ (s.fn e.fn).sqs, y.2.deleting = none) ∧
    (∀ y ∈ (s.fn e.fn).entries, y.reserved = false) ∧ (s.fn e.fn).aqRemoving = false ∧ (∀ l, (s.fn e.fn).log = some l → l.pasid ≠ c.pasid) ∧ s.tst.captures = [] ∧ s.tst.replays = [] ∧
    s.cq? e.fn x.cq = some c ∧ c.stopped = false ∧ c.buffer = [] ∧ c.room = true ∧ s.hostOk c.pasid (c.base.toNat + 32 * c.tail) 32 = true

/-- Entry `x` of opcode `op` waits to be performed, on the admin queue or on another, and its function accepts it (Tables 13-4, 13-5). -/
abbrev Asked (s : State) (e : EntryRef) (op : Nat) (admin : Bool) (x : Entry) (c : Cq) : Prop :=
  Roomy s e x c ∧ x.opcode = op ∧ x.started = false ∧ s.fenceOk x = true ∧ (e.sq = 0 ↔ admin = true) ∧ (s.fn e.fn).quiescing = none ∧
    ((s.fn e.fn).quiesced = false ∨ quiescedOk op = true) ∧ (timedOp op = false → x.word 1 = 0)

/-- The completion of `x` stands in the ring slot at the tail, with its tag, its SQ's head, its status, the two payload words and the phase
(Table 13-7); the entry is gone. -/
def Answered (s t : State) (e : EntryRef) (x : Entry) (c : Cq) (st w2 w3 : Nat) : Prop :=
  let w1 := (cqWord1 0 st 0 s.panelAddr).toNat + 4 * b2n c.lost + b2n c.phase
  t.entry? e = none ∧ (∃ k, t.cq? e.fn x.cq = some k ∧ k.tail = (c.tail + 1) % c.size) ∧
    readBytes t.mem.host (hostKey c.pasid (c.base.toNat + 32 * c.tail)) 32 = dwordBytes
      [BitVec.ofNat 64 (x.tag * 2 ^ 32 + ((s.sq? e.fn e.sq).map (·.head)).getD 0 % 65536 * 2 ^ 16 + e.sq % 65536), BitVec.ofNat 64 w1,
        BitVec.ofNat 64 w2, BitVec.ofNat 64 w3]

/-- Device memory, the cores and the compositions are as before. -/
def HostOnly (s t : State) : Prop := t.mem.dram = s.mem.dram ∧ t.cores = s.cores ∧ t.yoke = s.yoke

/-- Sector `n` is in its home's granary, held by no cache; nothing is under way for it or waits at the home, whose segment has an entry free and
whose channels are sound. -/
abbrev Present (s : State) (n : Nat) (g : GSec) : Prop :=
  s.quiet n = true ∧ (s.die (homeOf n)).pend = [] ∧ s.dieUp (homeOf n) = true ∧ (s.die (homeOf n)).ifFault = false ∧
    (s.die (homeOf n)).segTrans (segmentOf n) < 32 ∧ s.gsec? n = some g ∧ g.dir = .un

end Sys2Proof.Claim

/-- R215, R359-R361, R365, R368: a doorbell moves its ring's tail or head, one beyond the ring stops the queue; while a BAR4 request waits it waits behind it; fetching reads the next entry once a completion slot is
free and reserves it; the hold time or an unmask sends the vector's message, unless it is masked; an invalidation takes
the range out of the Address Translation Cache and is completed. -/
def Obligations.DoorbellsFetchesAndInterrupts : Prop :=
  (∀ s f q v x, s.fnReady f = true → q < queueIds f → s.sq? f q = some x → x.deleting = none → s.deletingSq f q = false → x.stopped = false →
    s.host.barQ = [] → (x.tailError (bits v 15 0) = false → ∃ t, Machine.exec (.sqTail f q v) s = .next t ∧ Aside s t ∧ t.sq? f q = some { x with tail := bits v 15 0 }) ∧
    (x.tailError (bits v 15 0) = true → ∃ t y, Machine.exec (.sqTail f q v) s = .next t ∧ HostOnly s t ∧ t.sq? f q = some y ∧ y.stopped = true ∧
      y.tail = x.tail)) ∧
  (∀ s f q v x, s.fnReady f = true → q < queueIds f → s.cq? f q = some x → x.stopped = false → x.buffer = [] → x.headError (bits v 15 0) = false →
    s.host.barQ = [] → (s.fn f).aqRemoving = false → (∀ y ∈ (s.fn f).sqs, y.2.deleting = none) →
    ∃ t, Machine.exec (.cqHead f q v) s = .next t ∧ Aside s t ∧ t.cq? f q = some { x with head := bits v 15 0 }) ∧
  (∀ s f q v, s.fnReady f = true → q < queueIds f → s.host.barQ ≠ [] →
    Machine.exec (.sqTail f q v) s = .next (s.barWait (.sqTail f q v)) ∧ Machine.exec (.cqHead f q v) s = .next (s.barWait (.cqHead f q v))) ∧
  (∀ s f q x c w, s.fnReady f = true → s.sq? f q = some x → x.stopped = false → x.deleting = none → x.head ≠ x.tail →
    s.cq? f x.cq = some c → c.stopped = false → c.slotFree = true → (q = 0 → (s.fn f).aqRemoving = false) →
    (q ≠ 0 → (s.fn f).quiesced = false ∧ (s.fn f).quiescing = none) → s.hostWords x.pasid (x.base.toNat + 64 * x.head) 8 = some w →
    reservedOp (bits (w.getD 0 0) 63 56) = false → bit (w.getD 0 0) 48 = false →
    ∃ t y, Machine.exec (.sqEntryFetch f q) s = .next t ∧ Aside s t ∧ (t.fn f).entries = (s.fn f).entries ++ [y] ∧ y.w = w ∧ y.cq = x.cq ∧
      y.ref = { fn := f, sq := q, num := (s.fn f).nextOrder } ∧ y.started = false ∧ y.seq = s.host.fetches ∧
      t.sq? f q = some { x with head := (x.head + 1) % x.size } ∧
      t.cq? f x.cq = some { c with reserved := c.reserved + 1 }) ∧
  (∀ s f q c, s.fnReady f = true → s.cq? f q = some c → c.unsignalled ≠ 0 → c.hold ≠ 0 → c.oldestAt + c.hold * 1000 ≤ s.time.now →
    ∃ t, Machine.exec (.interruptHoldTimeout f q) s = .next t ∧ Aside s t ∧ t.cq? f q = some { c with unsignalled := 0 } ∧
      if bit (s.regs.get (msixCtrl f c.vector)) 0 then c.vector ∈ (t.fn f).pendingVec ∧ t.host.outs = s.host.outs
      else t.host.outs = s.host.outs ++ [.msix f c.vector]) ∧
  (∀ s f v, s.fnReady f = true → v < vectors f → ∃ t, Machine.exec (.msixUnmask f v) s = .next t ∧ Aside s t ∧
    bit (t.regs.get (msixCtrl f v)) 0 = false ∧
    t.host.outs = s.host.outs ++ if (s.fn f).pendingVec.contains v then [.msix f v] else []) ∧
  ∀ s p lo hi, s.inService = true → ∃ t, Machine.exec (.atsInvalidate p lo hi) s = .next t ∧ Aside s t ∧
    t.host.outs = s.host.outs ++ [.atsDone p lo hi] ∧
    ∀ a, lo ≤ a → a < hi → hostKey (some p) 0 / 4096 + a / 4096 ∉ t.host.atc

/-- R361-R364, R371-R374, Tables 13-4 to 13-7: the queue commands complete with status 0 and their effect: queues are created and deleted, a dirty log starts,
hands over its bitmap and ends, a function quiesces and resumes; a quiesce that takes too long tears down the compositions that still run, and ends with status 7 once they are
still. -/
def Obligations.QueueCommandsComplete : Prop :=
  (∀ s e a x c, Asked s e 0x00 a x c → ∃ t, Machine.exec (.nopCommand e) s = .next t ∧ HostOnly s t ∧ Answered s t e x c 0 0 0) ∧
  (∀ s e x c, Asked s e 0x01 true x c → s.cq? e.fn (bits (x.word 4) 63 48) = none →
    bits (x.word 2) 11 0 = 0 → bits (x.word 3) 11 0 = 0 → bits (x.word 4) 30 20 = 0 → bits (x.word 5) 63 53 = 0 → bits (x.word 5) 41 34 = 0 →
    bits (x.word 5) 25 16 = 0 → x.zeroFrom 6 = true → ringSizeOk (bits (x.word 4) 47 32) = true → bits (x.word 4) 63 48 < queueIds e.fn →
    bits (x.word 5) 52 42 < vectors e.fn →
    ∃ t k, Machine.exec (.createCq e) s = .next t ∧ HostOnly s t ∧ Answered s t e x c 0 0 0 ∧ t.cq? e.fn (bits (x.word 4) 63 48) = some k ∧
      k.base = x.word 2 ∧ k.recBase = x.word 3 ∧ k.size = bits (x.word 4) 47 32 + 1 ∧ k.vector = bits (x.word 5) 52 42 ∧ k.head = 0 ∧ k.tail = 0 ∧
      k.phase = true ∧ k.stopped = false) ∧
  (∀ s e x c, Asked s e 0x02 true x c → s.sq? e.fn (bits (x.word 4) 63 48) = none → (s.cq? e.fn (bits (x.word 5) 63 48)).isSome = true →
    bits (x.word 2) 11 0 = 0 → x.word 3 = 0 → bits (x.word 4) 30 20 = 0 → bits (x.word 5) 47 0 = 0 → x.zeroFrom 6 = true →
    ringSizeOk (bits (x.word 4) 47 32) = true → bits (x.word 4) 63 48 < queueIds e.fn →
    ∃ t k, Machine.exec (.createSq e) s = .next t ∧ HostOnly s t ∧ Answered s t e x c 0 0 0 ∧ t.sq? e.fn (bits (x.word 4) 63 48) = some k ∧
      k.base = x.word 2 ∧ k.size = bits (x.word 4) 47 32 + 1 ∧ k.cq = bits (x.word 5) 63 48 ∧ k.head = 0 ∧ k.tail = 0 ∧ k.stopped = false) ∧
  (∀ s e x c y, Asked s e 0x03 true x c → x.onlyQid = true → bits (x.word 4) 63 48 ≠ 0 → s.sq? e.fn (bits (x.word 4) 63 48) = some y →
    (∀ z ∈ (s.fn e.fn).entries, z.ref.sq ≠ bits (x.word 4) 63 48) →
    ∃ t, Machine.exec (.deleteSq e) s = .next t ∧ HostOnly s t ∧ Answered s t e x c 0 0 0 ∧ t.sq? e.fn (bits (x.word 4) 63 48) = none) ∧
  (∀ s e x c, Asked s e 0x04 true x c → x.onlyQid = true → bits (x.word 4) 63 48 ≠ 0 → bits (x.word 4) 63 48 ≠ x.cq →
    (s.cq? e.fn (bits (x.word 4) 63 48)).isSome = true → (∀ y ∈ (s.fn e.fn).sqs, y.2.cq ≠ bits (x.word 4) 63 48) →
    (∀ k ∈ s.yoke.comps, k.2.fn = e.fn → k.2.eventCq ≠ bits (x.word 4) 63 48) →
    ∃ t, Machine.exec (.deleteCq e) s = .next t ∧ HostOnly s t ∧ Answered s t e x c 0 0 0 ∧ t.cq? e.fn (bits (x.word 4) 63 48) = none) ∧
  (∀ s e x c, Asked s e 0x08 true x c → x.zeroFrom 2 = true → (s.fn e.fn).quiesced = false → (s.fn e.fn).quiesceLate = false → (s.fn e.fn).entries = [x] →
    (∀ k ∈ s.yoke.comps, k.2.fn ≠ e.fn) →
    ∃ t, Machine.exec (.quiesce e) s = .next t ∧ HostOnly s t ∧ Answered s t e x c 0 0 0 ∧ (t.fn e.fn).quiesced = true) ∧
  (∀ s f e x, s.inService = true → (s.fn f).quiescing = some e → s.entry? e = some x → x.at_ + 100000000 ≤ s.time.now →
    (s.fn f).quiesceLate = false → (∃ k ∈ s.yoke.comps, k.2.fn = f ∧ k.2.serve.st.still = false) →
    ∃ t, Machine.exec (.quiesceTimeout f) s = .next t ∧ t.cores = s.cores ∧ t.mem = s.mem ∧ (t.fn f).quiesceLate = true ∧
      (t.fn f).quiescing = some e ∧ (t.fn f).quiesced = (s.fn f).quiesced ∧
      ∀ k y, s.comp? k = some y → (k, y) ∈ s.yoke.comps → y.fn = f → y.serve.st.still = false → y.context ≠ 0 →
        ∃ d, (y.context, d) ∈ t.yoke.teardowns) ∧
  (∀ s e x c, Roomy s e x c → (s.fn e.fn).quiescing = some e → (s.fn e.fn).quiesceLate = true → (s.fn e.fn).entries = [x] →
    (∀ k ∈ s.yoke.comps, k.2.fn = e.fn → k.2.serve.st.still = true) → s.yoke.teardowns = [] →
    Answered s (s.settleQuiesce e.fn) e x c 7 0 0 ∧ ((s.settleQuiesce e.fn).fn e.fn).quiesced = true ∧
      ((s.settleQuiesce e.fn).fn e.fn).quiescing = none) ∧
  (∀ s e x c, Asked s e 0x09 true x c → x.zeroFrom 2 = true →
    ∃ t, Machine.exec (.resume e) s = .next t ∧ HostOnly s t ∧ Answered s t e x c 0 0 0 ∧ (t.fn e.fn).quiesced = false) ∧
  (∀ s e x c, Asked s e 0x0A true x c → (s.fn e.fn).log = none → (x.word 2).toNat % 4096 = 0 → (x.word 3).toNat % 4096 = 0 →
    (x.word 2).toNat + 4096 ≤ (x.word 3).toNat → (x.word 3).toNat ≤ (x.word 2).toNat + 0x40000000000 → bits (x.word 4) 63 32 = 0 →
    bits (x.word 4) 30 20 = 0 → x.zeroFrom 5 = true → pasidOf (x.word 4) ≠ c.pasid →
    ∃ t, Machine.exec (.logStart e) s = .next t ∧ HostOnly s t ∧ Answered s t e x c 0 0 0 ∧
      (t.fn e.fn).log = some { lo := (x.word 2).toNat, hi := (x.word 3).toNat, pasid := pasidOf (x.word 4), pages := [], outside := false }) ∧
  (∀ s e x c l, Asked s e 0x0B true x c → (s.fn e.fn).log = some l → x.zeroFrom 3 = true →
    s.hostOk (((s.sq? e.fn 0).map (·.pasid)).getD none) (x.word 2).toNat l.bitmap.length = true →
    ∃ t, Machine.exec (.logSnapshot e) s = .next t ∧ HostOnly s t ∧ Answered s t e x c 0 s.time.now l.bitmap.length ∧
      (t.fn e.fn).log = some { l with pages := [], outside := false }) ∧
  ∀ s e x c, Asked s e 0x0C true x c → x.zeroFrom 2 = true →
    ∃ t, Machine.exec (.logStop e) s = .next t ∧ HostOnly s t ∧ Answered s t e x c 0 0 0 ∧ (t.fn e.fn).log = none

/-- R369, R370, R375, R376, Table 13-11: VF Enable makes and removes functions; a function-level reset, and a return from D3hot, leave a function without compositions as
after reset; AQ_EN creates and removes the admin queue pair. -/
def Obligations.FunctionsAreEnabledAndReset : Prop :=
  (∀ s n, s.fnReady 0 = true → s.host.vfs = 0 → n ∈ [1, 2, 3, 4, 6, 8, 12, 24] → (∀ k ∈ s.yoke.comps, k.2.fn ≠ 0) →
    ∃ t, Machine.exec (.vfEnableSet n) s = .next t ∧ t = { s with host := { s.host with vfs := n } }) ∧
  (∀ s, s.fnReady 0 = true → s.host.vfs ≠ 0 → s.yoke.comps = [] → ∃ t, Machine.exec .vfEnableClear s = .next t ∧ HostOnly s t ∧ t.host.vfs = 0 ∧
    ∀ f, 0 < f → f ≤ s.host.vfs → (t.fn f).sqs = [] ∧ (t.fn f).cqs = [] ∧ (t.fn f).aqEn = false) ∧
  (∀ i ∈ [Instr.functionLevelReset, Instr.d3hotToD0], ∀ s f, s.inService = true → 0 < f → f ≤ s.host.vfs → (∀ k ∈ s.yoke.comps, k.2.fn ≠ f) →
    (i f = .d3hotToD0 f → (s.fn f).d3hot = true) →
    ∃ t, Machine.exec (i f) s = .next t ∧ HostOnly s t ∧ t.fn f = { Fn.reset with nextOrder := (s.fn f).nextOrder }) ∧
  (∀ s f, s.fnReady f = true → (s.fn f).aqEn = false → ∃ t y k, Machine.exec (.aqEnable f) s = .next t ∧ Aside s t ∧ (t.fn f).aqEn = true ∧
    t.sq? f 0 = some y ∧ t.cq? f 0 = some k ∧ y.base = BitVec.ofNat 64 (s.reg .hstAqSqBase 0 f) ∧ y.size = s.reg .hstAqSize 0 f % 2 ^ 16 + 1 ∧
    k.base = BitVec.ofNat 64 (s.reg .hstAqCqBase 0 f) ∧ k.size = s.reg .hstAqSize 0 f / 2 ^ 16 + 1 ∧ t.reg .hstFnCtrl 0 f = 1) ∧
  ∀ s f y, s.fnReady f = true → (s.fn f).aqEn = true → (s.fn f).aqRemoving = false → s.sq? f 0 = some y → y.deleting = none →
    (∀ z ∈ (s.fn f).entries, z.ref.sq ≠ 0) → (∀ k, s.cq? f 0 = some k → k.buffer = []) →
    ∃ t, Machine.exec (.aqDisable f) s = .next t ∧ Aside s t ∧ (t.fn f).aqEn = false ∧ t.sq? f 0 = none ∧ t.cq? f 0 = none

/-- R215, R241, R242, R273, R357: BAR4 reads, writes and atomics act on device memory at the home; PIN pins a present sector within the quota and UNPIN clears
the pin, each answering the number of sectors. -/
def Obligations.BarAccessesAndPinsActAtTheHome : Prop :=
  (∀ s o n a g, s.fnReady 0 = true → s.host.barQ = [] → s.bar4 o n = .go a → Present s (a / 256) g → a % 256 + n ≤ 256 → n ≠ 0 →
    ∃ t, Machine.exec (.bar4Read o n) s = .next t ∧ t.mem = s.mem ∧ t.gsec? (a / 256) = some g ∧
      t.host.outs = s.host.outs ++ [.bar4 (sectorBytes g.data (a % 256) n) g.poison]) ∧
  (∀ s o (v : List Byte) a g, s.fnReady 0 = true → s.host.barQ = [] → s.bar4 o v.length = .go a → Present s (a / 256) g → a % 256 + v.length ≤ 256 → v ≠ [] →
    ∃ t g', Machine.exec (.bar4Write o v) s = .next t ∧ t.mem = s.mem ∧ t.gsec? (a / 256) = some g' ∧ g'.dirty = true ∧
      ∀ i, i < 256 → sectorByte g'.data i =
        if a % 256 ≤ i ∧ i < a % 256 + v.length then v.getD (i - a % 256) 0 else sectorByte g.data i) ∧
  (∀ s o op n u v a g, s.fnReady 0 = true → s.host.barQ = [] → n = 4 ∨ n = 8 → o % n = 0 → s.bar4 o n = .go a → a % n = 0 → Present s (a / 256) g → g.poison = false →
    u.toNat < 2 ^ (8 * n) → v.toNat < 2 ^ (8 * n) →
    let old := leNat (sectorBytes g.data (a % 256) n)
    ∃ t g', Machine.exec (.bar4Atomicop o op n u v) s = .next t ∧ t.mem = s.mem ∧ t.gsec? (a / 256) = some g' ∧
      t.host.outs = s.host.outs ++ [.bar4 (natLe n old) false] ∧ leNat (sectorBytes g'.data (a % 256) n) =
        match op with
        | .fetchAdd => (old + u.toNat) % 2 ^ (8 * n)
        | .swap => u.toNat
        | .cas => if old = u.toNat then v.toNat else old) ∧
  (∀ s e x c n g l, Asked s e 0x18 true x c → s.pinStatus e x = 0 → s.panelField x.comp (x.word 2) = .here →
    s.rangeSectors x.comp (bits (x.word 2) 47 0) (x.word 3).toNat = [some n] → s.gsec? n = some g → s.gline? n = some l →
    x.pins = ⟨0, 0, 0⟩ → (s.die (homeOf n)).pend.contains (n, .ticket (.pin e)) = false →
    (l.pinnedBy x.comp = true ∨ ((s.die (homeOf n)).pLines x.comp (granIndex (256 * n))).length < s.pinQuota x.comp (homeOf n)) →
    ∃ t, Machine.exec (.pin e) s = .next t ∧ Answered s t e x c 0 (2 ^ 32) 0 ∧ t.gsec? n = some (g.pin x.comp) ∧ HostOnly s t) ∧
  ∀ s e x c n g l, Asked s e 0x19 true x c → s.pinStatus e x = 0 →
    s.rangeSectors x.comp (bits (x.word 2) 47 0) (x.word 3).toNat = [some n] → s.gsec? n = some g → s.gline? n = some l → g.pins.contains x.comp = true →
    ∃ t, Machine.exec (.unpin e) s = .next t ∧ Answered s t e x c 0 (2 ^ 32) 0 ∧ t.gsec? n = some (g.unpin x.comp) ∧ HostOnly s t

/-! ## Compositions -/

namespace Sys2Proof.Claim

/-- An admin command on a composition: no earlier one for the same composition is open (R381). -/
abbrev YokeAsked (s : State) (e : EntryRef) (op : Nat) (x : Entry) (c : Cq) : Prop :=
  Asked s e op true x c ∧ ∀ f ∈ s.host.fns, ∀ y ∈ f.2.entries, yokeOp y.opcode = true → y.comp = x.comp → x.seq ≤ y.seq

/-- The entry names a bound composition of its own function. -/
abbrev Mine (s : State) (e : EntryRef) (x : Entry) (y : Comp) : Prop := s.comp? x.comp = some y ∧ y.fn = e.fn

/-- A composition that may commit an epoch now: at a boundary, its previous epoch drained, nothing else waiting (R392, R393). -/
abbrev AtRest (s : State) (c : Nat) (y : Comp) : Prop :=
  s.comp? c = some y ∧ y.serve.st.still = true ∧ s.drained c y = true ∧ y.settling = none ∧ s.link.held = []

/-- Composition `c` has gone from `y` to the map `m` under the next epoch number, and its old map is the previous one. -/
def Committed (i : Instr) (s : State) (c : Nat) (y : Comp) (m : EpochMap) : Prop :=
  ∃ t z, Machine.exec i s = .next t ∧ t.comp? c = some z ∧ z.cur = { m with epoch := y.cur.epoch + 1 } ∧ z.prev = some y.cur ∧ z.change = none ∧
    z.context = y.context ∧ z.fn = y.fn ∧ z.leaving = y.leaving ++ y.cur.slices.filter fun k => !m.slices.contains k

end Sys2Proof.Claim

/-- R382-R388, R440: BIND makes a composition of the listed slices at epoch 0 with no region, gives it a context, answered in the payload, gives it the slices'
tally counters, and clears a seedbed that another tenant held last; REBIND commits the listed slices under the next epoch; UNBIND at a
boundary begins the context's teardown. -/
def Obligations.CompositionsBindAndUnbind : Prop :=
  (∀ s e x c ws, YokeAsked s e 0x20 x c → s.sliceList e x = some ws → s.marginBusy ws = false → s.bindBefore x ws = false →
    s.bindStatus e x false ws = 0 →
    ∃ t y, Machine.exec (.bind e) s = .next t ∧ Answered s t e x c 0 y.context.toNat 0 ∧ t.comp? x.comp = some y ∧ y.fn = e.fn ∧
      y.tenant = bits (x.word 3) 63 52 ∧ y.cur.epoch = 0 ∧ y.cur.slices = slicesIn (ws.map sliceEntry) ∧ y.cur.sets = setsOf (ws.map sliceEntry) ∧
      y.cur.regions = [] ∧ y.serve.st = .stopped ∧ t.yoke.ctxNext = y.context + 1 ∧
      (∀ k ∈ y.cur.slices, ∀ i, i < 64 → ((t.core k).tally i).owner = some y.context ∧ ((t.core k).tally i).value = 0) ∧
      (∀ k ∈ y.cur.slices, (∃ o, (s.core k).lastTenant = some o ∧ o ≠ y.tenant) → ∀ a, readByte (t.core k).seedbed a = 0)) ∧
  (∀ s e x c y ws, YokeAsked s e 0x21 x c → Mine s e x y → AtRest s x.comp y → y.move = none → s.bindWordsBad e x true = false →
    s.sliceList e x = some ws → s.bindStatus e x true ws = 0 →
    Committed (.rebind e) s x.comp y (x.mapFor (y.cur.epoch + 1) (if ws = [] then y.cur.slices else slicesIn (ws.map sliceEntry))
      (if ws = [] then y.cur.sets else setsOf (ws.map sliceEntry)) y.cur.regions)) ∧
  ∀ s e x c y, YokeAsked s e 0x22 x c → Mine s e x y → x.context = 0 → x.zeroFrom 2 = true → s.sharedElsewhere x.comp none = false →
    y.serve.st.still = true → y.context ≠ 0 → (∀ d ∈ s.yoke.teardowns, d.1 ≠ y.context) →
    ∃ t z, Machine.exec (.unbind e) s = .next t ∧ t.comp? x.comp = some z ∧ z.unbinding = true ∧ z.unbindEntry = some e ∧ z.cur = y.cur ∧
      t.yoke.teardowns = s.yoke.teardowns ++
        [(y.context, { comp := x.comp, tr := s.time.now + 2000, revoked := false, unbind := true, restart := false })]

/-- R389-R393, R399, R400: MAP adds its region and UNMAP takes one out under the next epoch; a waiting change commits at a boundary; MOVE_REGION starts to copy,
the end of the copy commits the new place, and the final copy ends the move and answers. -/
def Obligations.RegionsMapMoveAndCommit : Prop :=
  (∀ s e x c y, YokeAsked s e 0x23 x c → Mine s e x y → AtRest s x.comp y → y.move = none → x.mapBad = false → x.region.shared = false →
    (∀ t ∈ y.cur.regions, x.region.overlaps t = false) → x.region.offset + x.region.size ≤ setBytes (y.cur.set x.region.set) →
    y.cur.regions.length < 64 → Committed (.map e) s x.comp y { y.cur with regions := y.cur.regions ++ [x.region] }) ∧
  (∀ s e x c y r, YokeAsked s e 0x24 x c → Mine s e x y → AtRest s x.comp y → y.move = none → x.context = 0 → x.zeroFrom 3 = true →
    y.cur.regions.find? (fun r => decide (r.vbase = (x.word 2).toNat)) = some r → s.sharedElsewhere x.comp (some r) = false →
    Committed (.unmap e) s x.comp y { y.cur with regions := y.cur.regions.filter fun t => decide (t.vbase ≠ r.vbase) }) ∧
  (∀ s c y h, s.inService = true → AtRest s c y → y.change = some h → y.move = none →
    (∀ k ∈ h.map.slices, k ∈ y.cur.slices ∨ s.dieUp (dieOf k) = true) → Committed (.epochCommit c) s c y h.map) ∧
  (∀ s e x c y r, YokeAsked s e 0x25 x c → Mine s e x y → x.context = 0 → x.word 3 = 0 → bits (x.word 4) 63 62 = 0 → bits (x.word 4) 58 0 = 0 →
    (x.word 5).toNat % 0x200000 = 0 → x.zeroFrom 6 = true → y.cur.regions.find? (fun r => decide (r.vbase = (x.word 2).toNat)) = some r →
    r.shared = false → (x.word 5).toNat + r.size ≤ setBytes (y.cur.set (bits (x.word 4) 61 59)) →
    (∀ t ∈ y.cur.regions, t.shared = false → t.set = bits (x.word 4) 61 59 →
      t.offset + t.size ≤ (x.word 5).toNat ∨ (x.word 5).toNat + r.size ≤ t.offset) →
    (∀ ch ∈ y.cur.set (bits (x.word 4) 61 59) ++ y.cur.set r.set, s.dieUp (ch / 16) = true) →
    ∃ t z, Machine.exec (.moveRegion e) s = .next t ∧ t.mem = s.mem ∧ t.comp? x.comp = some z ∧ z = { y with move := some {
      entry := e, vbase := r.vbase, set := bits (x.word 4) 61 59, offset := (x.word 5).toNat, phase := .copying, marks := [] } }) ∧
  (∀ s c y m r, s.inService = true → AtRest s c y → y.move = some m → m.phase = .copying →
    y.cur.regions.find? (fun r => decide (r.vbase = m.vbase)) = some r → r.ro = false →
    (∃ t z n, Machine.exec (.moveCopyDone c) s = .next t ∧ t.comp? c = some z ∧ z.move = some n ∧ n.phase = .final ∧
      z.prev = some y.cur ∧ z.cur.epoch = y.cur.epoch + 1 ∧ z.cur.regions = y.cur.regions.map fun t =>
        if t.vbase = r.vbase then { t with set := m.set, offset := m.offset } else t)) ∧
  ∀ s c y m old r x q, s.inService = true → s.comp? c = some y → y.move = some m → m.phase = .final → y.prev = some old → s.drained c y = true →
    old.regions.find? (fun r => decide (r.vbase = m.vbase)) = some r → (∀ i ∈ m.marks, s.settled (r.sector old r.set r.offset i) = true) →
    (y.span = true ∨ s.leavingLive y = []) → s.mem.errs = [] →
    (∀ i g, s.gsec? (r.sector old r.set r.offset i) = some g → g.pins = []) → Roomy s m.entry x q → (s.fn m.entry.fn).quiescing = none →
    ∃ t z, Machine.exec (.moveFinalCopyDone c) s = .next t ∧ t.comp? c = some z ∧ z.move = none ∧ z.cur = y.cur ∧ Answered s t m.entry x q 0 0 0

/-- R396, R397, R402-R404, R406, R407: a flushed leaving slice is released; a frame held too long for an epoch is answered with status 2; the ownership table moves a
record to the pool that claims it from its owner, the reply makes the named pool's copy OWNED or drops it, and 100 µs of "not mine" settle
on the table's owner; METER_READ writes its records and METER_ADD empties the slices' counts. -/
def Obligations.SlicesOwnershipAndMeters : Prop :=
  (∀ s k c y, s.owner? k = some (c, true) → s.comp? c = some y → y.unbinding = false → y.span = false → s.inService = true →
    s.dieUp (dieOf k) = true → s.drained c y = true → (∀ l ∈ (s.die (dieOf k)).leases, l.2.slice ≠ k) →
    (∀ l ∈ (s.die (dieOf k)).gran, leaseLines ≤ l.1 → l.2.way ≠ k) →
    (∀ l ∈ (s.core k).cache, s.settled l.1 = true ∧ l.2.st.stable = true) → s.flushSet k = [] → (s.core k).loan = .none_ →
    ∃ t z, Machine.exec (.sliceRelease k) s = .next t ∧ t.comp? c = some z ∧ k ∉ z.leaving ∧ z.cur = y.cur ∧ (t.core k).domainOn = false ∧
      (t.core k).cache = [] ∧ ∀ i, ((t.core k).tally i).owner = none) ∧
  (∀ s i h, s.inService = true → s.link.held[i]? = some h → h.since + 10000000 ≤ s.time.now →
    (pickPort (s.livePorts (h.port / 8) (s.conn (rxKey h.port h.frame)).peerPorts) (s.conn (rxKey h.port h.frame)).nextPort none).isSome = true →
    ∃ t p g, Machine.exec (.epochHoldTimeout i) s = .next t ∧ Aside s t ∧ t.link.held = s.link.held.eraseIdx i ∧ tStatus g = 2 ∧
      tSeq g = tSeq h.frame ∧ tType g = (if tType h.frame = 1 then 2 else 3) ∧
      t.link.eth = s.link.eth ++ [.tlt p g] ∧ Framed s p (tSrc h.frame) g) ∧
  (∀ s c n src dst g, s.inService = true → s.ownTable c = true → s.recordOwner c n = some (src, g) →
    (find? s.yoke.owners (ownerKey c n)).isSome = true ∨ s.yoke.owners.length < 65536 →
    ∃ t, Machine.exec (.ownershipClaim c n src dst g) s = .next t ∧ t.mem = s.mem ∧ t.cores = s.cores ∧ t.recordOwner c n = some (dst, g + 1) ∧
      find? t.yoke.copies (copyKey c n dst) = some .pending) ∧
  (∀ s c n p o g, s.inService = true → s.recordOwner c n = some (o, g) → (find? s.yoke.copies (copyKey c n p)).isSome = true →
    ∃ t, Machine.exec (.ownershipReply c n p o g) s = .next t ∧ t.mem = s.mem ∧ t.cores = s.cores ∧
      find? t.yoke.copies (copyKey c n p) = if p = o then some .owned else none) ∧
  (∀ s c n o g b, s.inService = true → s.ownTable c = true → find? s.yoke.notMine (ownerKey c n) = some b → s.recordOwner c n = some (o, g) → b + 100000 ≤ s.time.now →
    ∃ t, Machine.exec (.ownershipQueryTimeout c n) s = .next t ∧ t.cores = s.cores ∧ find? t.yoke.notMine (ownerKey c n) = none ∧
      find? t.yoke.copies (copyKey c n o) = some .owned ∧
      ∀ k, k / 2 ^ 17 = ownerKey c n → k ≠ copyKey c n o → find? t.yoke.copies k = none) ∧
  (∀ s e x c, YokeAsked s e 0x27 x c → x.context = 0 → bits (x.word 3) 51 32 = 0 → bits (x.word 3) 31 0 = 0 → x.word 4 = 0 → x.zeroFrom 5 = true →
    (∀ k ∈ s.yoke.comps, k.2.fn = e.fn → k.2.tenant ≠ bits (x.word 3) 63 52) → (s.fn e.fn).log = none →
    s.hostOk (s.adminPasid e.fn) (x.word 2).toNat 128 = true →
    (hostKey (s.adminPasid e.fn) (x.word 2).toNat + 128 ≤ hostKey c.pasid (c.base.toNat + 32 * c.tail) ∨
      hostKey c.pasid (c.base.toNat + 32 * c.tail) + 32 ≤ hostKey (s.adminPasid e.fn) (x.word 2).toNat) →
    ∃ t, Machine.exec (.meterRead e) s = .next t ∧ HostOnly s t ∧ Answered s t e x c 0 1 0 ∧
      readBytes t.mem.host (hostKey (s.adminPasid e.fn) (x.word 2).toNat) 128 =
        meterRecord 0 (bits (x.word 3) 63 52) s.yoke.meterTime []) ∧
  ∀ s, s.inService = true → s.yoke.meterTime + 1000000 ≤ s.time.now → ∃ t, Machine.exec .meterAdd s = .next t ∧ t.mem = s.mem ∧
    t.yoke.meterTime = s.time.now ∧ ∀ k i, i % 16 ≠ 0 → getD 0 (t.core k).meters i = 0

/-! ## The serving loop -/

namespace Sys2Proof.Claim

/-- A serving command of an I/O queue for a bound composition `y` of its function (R410). -/
abbrev ServeAsked (s : State) (e : EntryRef) (op : Nat) (x : Entry) (c : Cq) (y : Comp) : Prop :=
  Asked s e op false x c ∧ x.context = 0 ∧ s.comp? x.comp = some y ∧ y.fn = e.fn

/-- Composition `c` is now `y` with the serving loop `v`; device memory and the cores are as before. -/
def Serves (s t : State) (c : Nat) (y : Comp) (v : Serve) : Prop := t.comp? c = some { y with serve := v } ∧ t.mem.dram = s.mem.dram

/-- The composition's loop runs on, driven by no replay: no failure, no restart, nothing that ends it at the next boundary. -/
abbrev Runs_ (s : State) (c : Nat) (y : Comp) : Prop :=
  s.inService = true ∧ s.replaying c = false ∧ s.comp? c = some y ∧ y.serve.failedNow = false ∧ y.serve.excused = false ∧ y.serve.restarting = false

/-- Nothing waits for the composition's next boundary. -/
abbrev NothingDue (s : State) (y : Comp) : Prop := y.serve.stopEntry = none ∧ y.unbinding = false ∧ (s.fn y.fn).quiescing = none

/-- How the reeve reads the kernel table of composition `c`: under its epoch, at the cost of its lowest die. -/
def kernelReads (c : Nat) (y : Comp) : ReadHow where
  comp := c
  epoch := y.cur.epoch
  hint := 0
  payer := 8 * y.cur.pools.headD 0
  uncached := false
  waiter := .reeve
  lastRead := fun _ => false

/-- The launch record of a stage in the composition's kernel table can be read (R412). -/
abbrev KernelRead (s : State) (c : Nat) (y : Comp) (stage : Nat) : Prop :=
  ∃ u bs, s.readDevice (kernelReads c y) (pieces (y.serve.ktab + 32 * stage) 32 2) = .ok (u, bs) ∧ ∀ b ∈ bs, b.2 = false

/-- Every core of the composition has one more launch record, for this stage, context and pass (R412). -/
def Launched (s t : State) (c : Nat) (y : Comp) (stage : Nat) : Prop :=
  ∀ d ∈ y.cur.pools, ∀ k ∈ s.ownOn c d, ∃ r, (t.core k).launches = (s.core k).launches ++ [r] ∧ r.comp = c ∧ r.epoch = y.cur.epoch ∧
    bits r.w0 63 48 = y.context.toNat ∧ bits r.w3 15 0 = stage ∧ r.pass = BitVec.ofNat 32 y.serve.pass

end Sys2Proof.Claim

/-- R411, R413, R418, R429: SERVE_CONFIG in STOPPED starts the loop with its settings; SERVE_STOP ends it, at once where no pass runs and else at the boundary; a
stream opens as a pending join and is marked to close; OUT_BUF adds a buffer behind its slot's; LOAD queues transfers that move its bytes. -/
def Obligations.ServingCommandsTakeEffect : Prop :=
  (∀ s e x c y, ServeAsked s e 0x40 x c y → x.configBad = false → y.serve.st = .stopped → x.at_ + 1000000 ≤ (x.word 1).toNat →
    y.cur.within (x.word 3).toNat (x.word 4).toNat (fun r => !r.ro) = true → y.cur.within (x.word 2).toNat 128 (fun r => r.ro) = true →
    ∃ t v, Machine.exec (.serveConfig e) s = .next t ∧ Answered s t e x c 0 0 0 ∧ Serves s t x.comp y v ∧ v.st = .wait ∧ v.pass = 0 ∧
      v.s0 = (x.word 1).toNat ∧ v.ktab = (x.word 2).toNat ∧ v.kvbase = (x.word 3).toNat ∧ v.kvsize = (x.word 4).toNat ∧
      v.pframes = bits (x.word 5) 63 56 ∧ v.grace = bits (x.word 5) 47 40 * 100000 ∧ v.streams = [] ∧ t.cores = s.cores) ∧
  (∀ s e x c y, ServeAsked s e 0x41 x c y → x.zeroFrom 1 = true → y.serve.stopEntry = none →
    (y.serve.st = .stopped → ∃ t, Machine.exec (.serveStop e) s = .next t ∧ Answered s t e x c 0 0 0 ∧ HostOnly s t) ∧
    (y.serve.st ≠ .stopped → y.serve.st.still = true → y.serve.streams = [] → y.serve.pendFrames = [] →
      ∃ t, Machine.exec (.serveStop e) s = .next t ∧ Answered s t e x c 0 0 0 ∧ Serves s t x.comp y Serve.reset ∧ t.cores = s.cores) ∧
    (y.serve.st.still = false → ∃ t, Machine.exec (.serveStop e) s = .next t ∧
      Serves s t x.comp y { y.serve with stopEntry := some e } ∧ t.mem = s.mem ∧ t.cores = s.cores)) ∧
  (∀ s e x c y, ServeAsked s e 0x42 x c y → x.openBad = false → y.serve.serving = true → y.serve.stream? x.handle = none →
    ∃ t v u, Machine.exec (.streamOpen e) s = .next t ∧ Serves s t x.comp y v ∧ t.mem = s.mem ∧ t.cores = s.cores ∧
      v.streams = y.serve.streams ++ [u] ∧ u.handle.toNat = x.handle ∧ u.openEntry = e ∧ u.admitted = false ∧ u.closing = none ∧
      u.rate = bits (x.word 2) 31 22 ∧ u.format = bits (x.word 2) 21 18 ∧ u.beam = bits (x.word 2) 17 15 + 1 ∧
      u.targets = BitVec.ofNat 24 (bits (x.word 3) 23 0)) ∧
  (∀ s e x c y u, ServeAsked s e 0x43 x c y → bits (x.word 2) 31 0 = 0 → x.word 1 = 0 → x.zeroFrom 3 = true → y.serve.serving = true →
    y.serve.stream? x.handle = some u → u.closing = none →
    ∃ t v, Machine.exec (.streamClose e) s = .next t ∧ Serves s t x.comp y v ∧ t.mem = s.mem ∧ t.cores = s.cores ∧
      v.stream? x.handle = some { u with closing := some e } ∧ v.streams.length = y.serve.streams.length) ∧
  (∀ s e x c y u l, ServeAsked s e 0x46 x c y → bits (x.word 2) 25 20 = 0 → bits (x.word 2) 31 27 < 24 → (x.word 3).toNat % 64 = 0 → x.word 1 = 0 →
    x.zeroFrom 4 = true → y.serve.serving = true → y.serve.stream? x.handle = some u → bit u.targets (bits (x.word 2) 31 27) = true →
    (if bit (x.word 2) 26 then u.speechOut else u.textOut) = true → find? u.kept.slots (bits (x.word 2) 31 27) = some l →
    ∃ t v u' l', Machine.exec (.outBuf e) s = .next t ∧ Serves s t x.comp y v ∧ t.mem = s.mem ∧ t.cores = s.cores ∧ v.stream? x.handle = some u' ∧
      find? u'.kept.slots (bits (x.word 2) 31 27) = some l' ∧
      let b : OutBuf := { entry := e, addr := x.word 3, len := bits (x.word 2) 19 0 + 1, filled := 0, full := false }
      if bit (x.word 2) 26 then l' = { l with speechBufs := l.speechBufs ++ [b] } else l' = { l with textBufs := l.textBufs ++ [b] }) ∧
  ∀ s e x c y, ServeAsked s e 0x48 x c y → x.word 1 = 0 → x.word 4 ≠ 0 → (x.word 4).toNat % 256 = 0 → x.zeroFrom 5 = true →
    s.panelField x.comp (x.word 3) = .here → s.rangeMapped x.comp y ((x.word 3).toNat % 2 ^ 48) (x.word 4).toNat = true → y.context ≠ 0 →
    s.dieUp (y.cur.pools.headD 0) = true → s.loadFull x y = false →
    ∃ t xs, Machine.exec (.load e) s = .next t ∧ t.mem = s.mem ∧ t.cores = s.cores ∧ t.yoke = s.yoke ∧
      (t.die (y.cur.pools.headD 0)).reeveXfers = (s.die (y.cur.pools.headD 0)).reeveXfers ++ xs ∧
      xs.map (·.desc) = loadDescs (x.word 2).toNat (x.word 3).toNat 6 (x.word 4).toNat ∧
      ∀ r ∈ xs, r.use = .load e ∧ r.context = y.context ∧ r.comp = x.comp ∧ r.epoch = y.cur.epoch ∧ r.phase = .waiting

/-- R419-R421: an AUDIO or TEXT_IN command that Table 15-5 does not refuse has its data copied when it is performed, and waits for the pass of its window. -/
def Obligations.InputIsCopiedAndWaits : Prop :=
  ∀ r ∈ ([(Instr.audio, 0x44, false), (.textIn, 0x45, true)] : List ((EntryRef → Instr) × Nat × Bool)),
    ∀ s e x c y bs, ServeAsked s e r.2.1 x c y → x.zeroFrom 4 = true →
    (if r.2.2 then bits (x.word 2) 31 13 = 0 ∧ 0 < bits (x.word 2) 12 0 ∧ bits (x.word 2) 12 0 ≤ 4096 else bits (x.word 2) 31 0 = 0) →
    y.serve.refusal (y.serve.stream? x.handle) r.2.2 (x.word 1).toNat = 0 → s.entryData x = some bs →
    ∃ t v f, Machine.exec (r.1 e) s = .next t ∧ Serves s t x.comp y v ∧ t.mem = s.mem ∧ v.pendFrames = y.serve.pendFrames ++ [f] ∧ f.entry = e ∧
      f.handle.toNat = x.handle ∧ f.time = (x.word 1).toNat ∧ f.bytes = bs ∧ f.text = r.2.2 ∧ f.gathered = false ∧
      v.streams = y.serve.streams ∧ v.st = y.serve.st

/-- R412, R414-R418, Table 15-4: a pass that may start gathers, reserves and launches FEAT on every core; each stage over launches the next; the output stage leads to
EMIT, its notices to COMMIT, and the commit counts the pass and waits for the next; a failed run starts again once, from the committed versions, and a second
failure ends the loop in FAILED. -/
def Obligations.PassesRunThroughTheirStates : Prop :=
  (∀ s c y, s.comp? c = some y → s.replaying c = false → s.passReady c y = true → KernelRead s c y 0 →
    ∃ t z, Machine.exec (.passStart c) s = .next t ∧ t.comp? c = some z ∧ z.serve.st = .encode ∧ z.serve.stage = 0 ∧ z.serve.pass = y.serve.pass ∧
      z.serve.gatherAt = s.time.now ∧ z.cur = y.cur ∧ Launched s t c y 0) ∧
  (∀ r ∈ [(ServeState.encode, 0, ServeState.encode, 1), (.encode, 1, .decode, 2), (.decode, 2, .vocode, 3)],
    ∀ s c y steps speech, Runs_ s c y → y.context ≠ 0 → s.stageOver c = true → y.serve.st = r.1 → y.serve.stage = r.2.1 →
    KernelRead s c y r.2.2.2 → (∀ k ∈ y.cur.slices, (s.core k).loan ≠ .lent) →
    ∃ t z, Machine.exec (.stageAdvance c steps speech) s = .next t ∧ t.comp? c = some z ∧ z.serve.st = r.2.2.1 ∧ z.serve.stage = r.2.2.2 ∧
      z.serve.pass = y.serve.pass ∧ z.cur = y.cur ∧ Launched s t c y r.2.2.2) ∧
  (∀ s c y steps speech, Runs_ s c y → y.context ≠ 0 → s.stageOver c = true → y.serve.st = .vocode →
    ∃ t z, Machine.exec (.stageAdvance c steps speech) s = .next t ∧ t.comp? c = some z ∧ z.serve.st = .emit ∧ z.serve.pass = y.serve.pass ∧
      z.cur = y.cur ∧ t.mem.dram = s.mem.dram) ∧
  (∀ s c y, Runs_ s c y → y.serve.st = .emit → s.canaryPending c y = false →
    ∃ t z, Machine.exec (.emitNotices c) s = .next t ∧ t.comp? c = some z ∧ z.serve.st = .commit ∧ z.serve.notices = [] ∧
      z.serve.pass = y.serve.pass ∧ z.cur = y.cur ∧ t.mem.dram = s.mem.dram) ∧
  (∀ s c y pages, Runs_ s c y → NothingDue s y → y.serve.st = .commit →
    ∃ t z, Machine.exec (.passCommit c pages) s = .next t ∧ t.comp? c = some z ∧ z.serve.st = .wait ∧ z.serve.pass = y.serve.pass + 1 ∧
      (∀ u ∈ z.serve.streams, u.kept = u.work) ∧ ∀ f ∈ z.serve.pendFrames, f.gathered = false) ∧
  (∀ s c y, s.inService = true → s.replaying c = false → s.comp? c = some y → y.serve.failedNow = true → y.serve.failures = 0 → y.serve.restarting = false →
    y.serve.st.inPass = true → s.stageOver c = true → y.context ≠ 0 → (s.fn y.fn).quiesced = false → KernelRead s c y 0 →
    (∀ k ∈ y.cur.slices, (s.core k).loan ≠ .lent) →
    ∃ t z, Machine.exec (.passRollback c) s = .next t ∧ t.comp? c = some z ∧ z.serve.st = .encode ∧ z.serve.stage = 0 ∧ z.serve.rerun = true ∧
      z.serve.failures = 1 ∧ z.serve.failedNow = false ∧ z.serve.pass = y.serve.pass ∧ (∀ u ∈ z.serve.streams, u.kept = u.work) ∧ Launched s t c y 0) ∧
  ∀ s c y, s.inService = true → s.replaying c = false → s.comp? c = some y → y.serve.failedNow = true → 1 ≤ y.serve.failures → y.serve.restarting = false →
    y.serve.st.inPass = true → s.stageOver c = true → NothingDue s y →
    ∃ t z, Machine.exec (.passRollback c) s = .next t ∧ t.comp? c = some z ∧ z.serve.st = .failed ∧ z.serve.streams = [] ∧ z.serve.pendFrames = [] ∧
      t.mem.dram = s.mem.dram

/-! ## Loans and teardown -/

namespace Sys2Proof.Claim

/-- Slices other than `k` are as before. -/
def OthersSame (s t : State) (k : Nat) : Prop := ∀ j, j ≠ k → t.core j = s.core j

/-- The teardown of context `ctx` in the yoke controller's list. -/
abbrev TearsDown (s : State) (ctx : Half) (d : Teardown) : Prop := (s.yoke.teardowns.find? fun e => decide (e.1 = ctx)) = some (ctx, d)

/-- The teardown of `ctx` is over: it is off the list, the time of its end is kept, its tally counters are free. -/
def TornDown (s t : State) (ctx : Half) (late : Bool) : Prop :=
  (∀ e ∈ t.yoke.teardowns, e.1 ≠ ctx) ∧ (ctx, s.time.now) ∈ t.yoke.ctxFreed ∧ t.yoke.lastTd = ctx ∧ t.yoke.tdTimeout = late ∧
    t.mem.dram = s.mem.dram ∧ (∀ k, ∀ x ∈ (t.core k).xfers, x.context ≠ ctx) ∧ ∀ k i, ((t.core k).tally i).owner ≠ some ctx

end Sys2Proof.Claim

/-- R450-R453: 20 µs after a switch was requested no transfer of the core runs and its engines are free; with the outgoing context drained the save begins; the saved image
holds its drills, array, transfers and seedbed, and the incoming context begins with fresh token counters; a restored image gives them back. -/
def Obligations.CoresSwitchBetweenContexts : Prop :=
  (∀ s k, s.inService = true → (s.core k).loan = .draining → (s.core k).loanAt + 20000 ≤ s.time.now →
    ∃ t, Machine.exec (.transferPauseTimeout k) s = .next t ∧ t.mem = s.mem ∧ OthersSame s t k ∧
      t.core k = { s.core k with xfers := (s.core k).xfers.map Xfer.pause } ∧ (∀ x ∈ (t.core k).xfers, ∀ e, x.phase ≠ .running e) ∧
      ∀ x ∈ (s.core k).xfers, ∀ e, x.phase = .running e → getD none (t.die (dieOf k)).engines e = none) ∧
  (∀ s k, s.inService = true → (s.core k).loan = .draining → s.coreDrained k = true →
    ∃ t, Machine.exec (.switchDrainDone k) s = .next t ∧ t.mem = s.mem ∧ OthersSame s t k ∧ t.core k = { s.core k with loan := .saving }) ∧
  (∀ s k c b y, s.inService = true → (s.core k).loan = .saving → s.owner? k = some (c, b) → s.comp? c = some y →
    ∃ t v, Machine.exec (.switchSaveDone k) s = .next t ∧ t.mem.dram = s.mem.dram ∧ OthersSame s t k ∧ (t.core k).loan = .lent ∧
      (t.core k).saved = some v ∧ v.context = y.context ∧ v.drills = (s.core k).drills ∧ v.seedbed = (s.core k).seedbed ∧
      v.sbPoison = (s.core k).sbPoison ∧ v.queue = (s.core k).queue ∧ v.active = (s.core k).active ∧ v.shadow = (s.core k).shadow ∧
      v.arrayNext = (s.core k).arrayNext ∧ v.arrayDone = (s.core k).arrayDone ∧ v.xferNext = (s.core k).xferNext ∧
      v.xferDone = (s.core k).xferDone ∧ v.xfers = (s.core k).xfers ∧ v.barriers = (s.core k).barriers ∧ v.launches = (s.core k).launches ∧
      (t.core k).drills = [] ∧ (t.core k).queue = [] ∧ (t.core k).xfers = [] ∧ (t.core k).launches = [] ∧ (t.core k).arrayNext = 0 ∧
      (t.core k).arrayDone = 0 ∧ (t.core k).xferNext = 0 ∧ (t.core k).xferDone = 0 ∧ (t.core k).tallies = (s.core k).tallies) ∧
  ∀ s k v, s.inService = true → (s.core k).loan = .restoring → (s.core k).saved = some v →
    ∃ t, Machine.exec (.coreRestoreDone k) s = .next t ∧ t.mem = s.mem ∧ OthersSame s t k ∧ (t.core k).loan = .none_ ∧ (t.core k).borrower = none ∧
      (t.core k).saved = none ∧ (t.core k).seedbed = v.seedbed ∧ (t.core k).sbPoison = v.sbPoison ∧ (t.core k).queue = v.queue ∧
      (t.core k).active = v.active ∧ (t.core k).shadow = v.shadow ∧ (t.core k).arrayNext = v.arrayNext ∧ (t.core k).arrayDone = v.arrayDone ∧
      (t.core k).xferNext = v.xferNext ∧ (t.core k).xferDone = v.xferDone ∧ (t.core k).barriers = v.barriers ∧
      (t.core k).launches = v.launches ∧ (t.core k).tallies = (s.core k).tallies ∧
      (∀ i x, find? v.drills i = some x → ∃ z, find? (t.core k).drills i = some z ∧ z.g = x.g ∧ z.p = x.p ∧ z.u = x.u ∧ z.context = x.context) ∧
      (t.core k).xfers.map (fun x => (x.token, x.done)) = v.xfers.map (fun x => (x.token, x.done)) ∧
      ∀ x ∈ (t.core k).xfers, x.phase ≠ .paused

/-- R456, R457, R459, R460: at its time a torn-down context is revoked everywhere: no drill, launch record or array instruction of it is left, its tally counters
are frozen, its transfers end with status 8; teardown ends when nothing of it is outstanding, or 10 ms later with what is left cut off. -/
def Obligations.ContextsAreTornDown : Prop :=
  (∀ s ctx d, TearsDown s ctx d → d.revoked = false → d.tr ≤ s.time.now →
    ∃ t, Machine.exec (.contextRevoke ctx) s = .next t ∧ t.mem.dram = s.mem.dram ∧ ctx ∈ t.yoke.revoked ∧
      TearsDown t ctx { d with revoked := true } ∧ (∀ k, ∀ x ∈ (t.core k).drills, x.2.context ≠ ctx) ∧
      (∀ k, ∀ l ∈ (t.core k).launches, l.ctx ≠ ctx) ∧ (∀ k, ∀ a ∈ (t.core k).queue, a.context ≠ ctx) ∧
      (∀ k, ∀ v, (t.core k).saved = some v → v.context ≠ ctx) ∧ (∀ k, ∀ x ∈ (t.core k).xfers, x.context = ctx → 8 ∈ x.bad) ∧
      (∀ k, ∀ x ∈ (t.die k).reeveXfers, x.context = ctx → 8 ∈ x.bad) ∧
      ∀ k i, ((s.core k).tally i).owner = some ctx → ((t.core k).tally i).frozen = true) ∧
  (∀ s ctx d y, TearsDown s ctx d → d.revoked = true → d.restart = true → d.unbind = false → s.outstanding ctx = 0 → s.comp? d.comp = some y →
    ∃ t, Machine.exec (.teardownComplete ctx) s = .next t ∧ TornDown s t ctx false ∧ t.comp? d.comp = some { y with context := 0 }) ∧
  ∀ s ctx d y, TearsDown s ctx d → d.revoked = true → d.restart = true → d.unbind = false → d.tr + 10000000 ≤ s.time.now → s.comp? d.comp = some y →
    ∃ t, Machine.exec (.teardownTimeout ctx) s = .next t ∧ TornDown s t ctx (decide (s.outstanding ctx ≠ 0)) ∧
      t.comp? d.comp = some { y with context := 0 }

/-! ## Power, temperature and the hayward -/

namespace Sys2Proof.Claim

/-- A die whose governor step may rise: its ceiling and PWR_FMAX allow a step more (R466). -/
abbrev MayRise (s : State) (d : Nat) : Prop :=
  d ∈ s.governed ∧ (s.die d).gov < 8 ∧ (s.die d).gov < (s.die d).ceil ∧ (s.die d).gov < s.reg .pwrFmax d 0 % 16

/-- The nodes of the graph that the hayward looks at (R491, R494). -/
def watched (s : State) : List HNode := s.hNodes.filter fun n => s.dieUp n.die && !(n.comps.any fun c => s.exempt c)

/-- In service, with a hayward that is on and has taken no sample in this millisecond (R491). -/
abbrev HayDue (s : State) : Prop := s.inService = true ∧ s.reg .rlyHayCfg 0 0 % 2 = 1 ∧ s.time.now / 1000000 ≠ s.rel.hay.last

/-- The highest of the nine readings of a die, a sensor that cannot be read counting as 100 °C (R472). -/
def hottest (temps : List (Option Nat)) : Nat := (temps.map fun t => t.getD 100).foldl max 0

end Sys2Proof.Claim

/-- R465-R468, R470, R472, R473: a tick keeps the input's measurements and the effective cap; above the cap every die above step 0 within 90 % of the highest estimate goes
one step down, or with all at step 0 the duty falls; below the cap's margin the duty rises, or one die of the lowest step that may; no step in
force moves by more than one; the fast limit sets 8/16; samples keep the highest reading and its peak; 115 °C resets a partition, or shuts the
module down. -/
def Obligations.PowerFollowsTheGovernor : Prop :=
  (∀ s v w est, s.mod.pwrgd = true → s.start.failed = false →
    ∃ t, Machine.exec (.governorTick v w est) s = .next t ∧ HostOnly s t ∧ t.pwr.inputW = w ∧ t.pwr.volt10 = v ∧ t.reg .pwrCapEff 0 0 = s.capNow ∧
      (∀ d, (t.die d).step ≤ (s.die d).step + 1 ∧ (s.die d).step ≤ (t.die d).step + 1) ∧
      (s.capNow < w → (∃ d ∈ s.governed, 0 < (s.die d).gov) → ∀ d ∈ s.governed, (t.die d).gov =
        if 0 < (s.die d).gov ∧ ∀ e ∈ s.governed, 0 < (s.die e).gov → 9 * (t.die e).est ≤ 10 * (t.die d).est then (s.die d).gov - 1
        else (s.die d).gov) ∧
      (s.capNow < w → (∀ d ∈ s.governed, (s.die d).gov = 0) → ∀ d ∈ s.governed, (s.die d).td < 100 →
        (t.die d).duty = max 1 ((s.die d).duty - 1)) ∧
      (w + 2 * (s.reg .pwrMargin 0 0 % 256) < s.capNow → (∃ d ∈ s.governed, (s.die d).duty < 16) → ∀ d ∈ s.governed,
        (t.die d).gov = (s.die d).gov ∧ ((s.die d).td < 100 → (t.die d).duty = (s.die d).duty + if (s.die d).duty < 16 then 1 else 0)) ∧
      (w + 2 * (s.reg .pwrMargin 0 0 % 256) < s.capNow → (∀ d ∈ s.governed, 16 ≤ (s.die d).duty) →
        (∀ d, (t.die d).gov ≠ (s.die d).gov → (t.die d).gov = (s.die d).gov + 1 ∧ MayRise s d ∧
          (∀ e, MayRise s e → (s.die d).gov ≤ (s.die e).gov) ∧ ∀ e, (t.die e).gov ≠ (s.die e).gov → e = d) ∧
        ((∃ d, MayRise s d) → ∃ d, (t.die d).gov ≠ (s.die d).gov))) ∧
  (∀ s w us, s.mod.pwrgd = true → s.start.failed = false → 20 ≤ us → 115 * (s.reg .pwrCapEff 0 0 % 2048) < 100 * w →
    ∃ t, Machine.exec (.fastLimit w us) s = .next t ∧ Aside s t ∧ (∀ d ∈ s.governed, t.die d = { s.die d with duty := 8 }) ∧
      t.reg .pwrFast 0 0 = min 0xFFFFFFFF (s.reg .pwrFast 0 0 + 1)) ∧
  (∀ s d temps, s.inService = true → d < 24 → temps.length = 9 → (s.die d).part ≠ .outOfService →
    ∃ t, Machine.exec (.dieTempSample d temps) s = .next t ∧ (t.die d).td = hottest temps ∧
      (hottest temps < 115 → HostOnly s t ∧ (t.die d).part = (s.die d).part ∧
        t.reg .pwrDieTpeak d 0 = max (s.reg .pwrDieTpeak d 0) (min 255 (hottest temps))) ∧
      (115 ≤ hottest temps → (t.die d).part ≠ .inService)) ∧
  (∀ s h temps, s.mod.pwrgd = true → h < 2 → temps.length = 4 → temps.foldl max 0 < 115 →
    ∃ t, Machine.exec (.headlandTempSample h temps) s = .next t ∧ HostOnly s t ∧ getD 0 t.pwr.th h = temps.foldl max 0 ∧
      (h ∈ t.pwr.thHot ↔ 105 ≤ temps.foldl max 0 ∨ (100 ≤ temps.foldl max 0 ∧ h ∈ s.pwr.thHot))) ∧
  ∀ s h temps, s.mod.pwrgd = true → h < 2 → temps.length = 4 → 115 ≤ temps.foldl max 0 →
    ∃ t, Machine.exec (.headlandTempSample h temps) s = .next t ∧ t.mod.pwrgd = false ∧ t.mod.shdnHigh = false ∧ t.cores = [] ∧ t.mem.dram = [] ∧
      t.nv = { s.nv with lastShutdown := mkCode 0xE1100137 (0xFA + h), portMap := s.mapLeft }

/-- R491-R493, R496: in a millisecond that had no sample yet, a sample without waiting nodes changes only the hayward's memory; a node in its fiftieth sample without progress has its partition reset; a
wait-for cycle in its third sample without progress has one of its partitions reset. -/
def Sys2Proof.Claim.HaywardResetsHungPartitions : Prop :=
  (∀ s, HayDue s → watched s = [] →
    ∃ t, Machine.exec (.haywardSample []) s = .next t ∧ t = { s with rel := t.rel } ∧ t.rel.log = s.rel.log ∧ t.rel.hay.seen = []) ∧
  (∀ s n k, HayDue s → n ∈ watched s → (∀ m ∈ watched s, m.key = n.key → m = n) →
    find? s.rel.hay.seen n.key = some n.print → find? s.rel.hay.still n.key = some k → 49 ≤ k →
    ∃ t, Machine.exec (.haywardSample []) s = .next t ∧ (t.die n.die).part ≠ .inService) ∧
  ∀ s, HayDue s → watched s ≠ [] → closedSet (watched s).length (watched s) = watched s →
    (∀ n ∈ watched s, find? s.rel.hay.seen n.key = some n.print ∧ ∃ k, find? s.rel.hay.cyc n.key = some k ∧ 2 ≤ k) →
    ∃ t n, Machine.exec (.haywardSample []) s = .next t ∧ n ∈ watched s ∧ (t.die n.die).part ≠ .inService

namespace Sys2Proof.Claim

/-- In service, with a hayward that is off. -/
abbrev Unwatched (s : State) : Prop := s.inService = true ∧ s.reg .rlyHayCfg 0 0 % 2 = 0

/-- The counter of a die went up by one, and only registers changed. -/
def CountsOne (s t : State) (r : Reg) (d : Nat) : Prop :=
  t = { s with regs := t.regs } ∧ t.reg r d 0 = min 0xFFFFFFFF (s.reg r d 0 + 1)

end Sys2Proof.Claim

/-- R167, R482, Table 18-3, log entry 54: the errors that a sample brings take effect before it, in order; a corrected one is counted, as are those of on-die ECC and FEC; a multi-bit one poisons its seedbed
granule, its granary sector, or its cached sector, which is invalidated when clean and written back when modified; one in a register parks the
drill that reads it; one in tags or reeve memory resets the partition; one in the accumulators marks the running array instruction, and a wrong
weight bit changes an entry; one in a stacked-memory codeword and a channel's parity failures stand until the next access meets them; a headland fault puts the panel out of service. A die that is not in service shows none. -/
def Sys2Proof.Claim.MemoryErrorsAreMet : Prop :=
  (∀ us s, Machine.exec (.haywardSample us) s = Machine.exec (.haywardSample []) (s.upsets us)) ∧
  (∀ u us (s : State), s.upsets (u :: us) = (s.upsets [u]).upsets us) ∧
  (∀ u d s, Unwatched s → upsetDie u = some d → s.dieUp d = false → Machine.exec (.haywardSample [u]) s = .next s) ∧
  (∀ s d, Unwatched s → d < 24 → s.dieUp d = true →
    (∃ t, Machine.exec (.haywardSample [.corrected d]) s = .next t ∧ CountsOne s t .rlySramCe d) ∧
    ∃ t, Machine.exec (.haywardSample [.onDie d]) s = .next t ∧ CountsOne s t .memOdeccCe d) ∧
  (∀ s p ok, Unwatched s → p < 16 → ∃ t, Machine.exec (.haywardSample [.fec p ok]) s = .next t ∧ t = { s with regs := t.regs } ∧
    t.reg (if ok then .xltFecCe else .xltFecUe) 0 p = min 0xFFFFFFFF (s.reg (if ok then .xltFecCe else .xltFecUe) 0 p + 1)) ∧
  (∀ s d, Unwatched s → d < 24 → s.dieUp d = true →
    ∃ t, Machine.exec (.haywardSample [.tags d]) s = .next t ∧ (t.die d).part ≠ .inService) ∧
  (∀ s k, Unwatched s → dieOf k < 24 → s.dieUp (dieOf k) = true →
    (∃ t, Machine.exec (.haywardSample [.seedbedCorrected k]) s = .next t ∧ CountsOne s t .rlySbdCe (dieOf k)) ∧
    ∀ g, g < 2 ^ 17 → g ∉ (s.core k).sbPoison →
      ∃ t, Machine.exec (.haywardSample [.seedbed k g]) s = .next t ∧ t = { s with regs := t.regs, cores := t.cores } ∧
        t.core k = { s.core k with sbPoison := (t.core k).sbPoison } ∧ (∀ h, h ∈ (t.core k).sbPoison ↔ h = g ∨ h ∈ (s.core k).sbPoison) ∧
        (∀ j, j ≠ k → t.core j = s.core j) ∧ t.reg .rlySbdUe (dieOf k) 0 = min 0xFFFFFFFF (s.reg .rlySbdUe (dieOf k) 0 + 1)) ∧
  (∀ s n g, Unwatched s → homeOf n < 24 → s.dieUp (homeOf n) = true → s.gsec? n = some g →
    ∃ t, Machine.exec (.haywardSample [.granary n]) s = .next t ∧ t.gsec? n = some { g with poison := true } ∧ t.mem.dram = s.mem.dram ∧ t.cores = s.cores ∧
      t.reg .rlySramUe (homeOf n) 0 = min 0xFFFFFFFF (s.reg .rlySramUe (homeOf n) 0 + 1) ∧
      ((s.refetchRegion (256 * n)).isSome → (find? (t.die (homeOf n)).refetch (n / 16)).isSome)) ∧
  (∀ s k n l, Unwatched s → dieOf k < 24 → s.dieUp (dieOf k) = true → s.line? k n = some l →
    ∃ t, Machine.exec (.haywardSample [.line k n]) s = .next t ∧ t.mem.dram = s.mem.dram ∧ (∀ j, j ≠ k → t.core j = s.core j) ∧
      (l.st = .s → t.line? k n = none) ∧ (l.st = .m → t.line? k n = some { l with st := .miA, poison := true }) ∧
      (l.st ≠ .s → l.st ≠ .m → t = s)) ∧
  (∀ s d x p m w, Unwatched s → dieOf d.slice < 24 → s.coreIssues d.slice = true → s.drill? d = some x → x.cur = some p → x.status = .active → x.mem = none →
    p.mask &&& m ≠ 0 →
    ∃ t r y, Machine.exec (.haywardSample [.register d m w]) s = .next t ∧ t.drill? d = some y ∧ y = { x with status := .parked r } ∧ r.trap = .poisoned ∧
      r.faultMask = p.mask &&& m ∧ r.pc = p.pc ∧ r.detail = 0 ∧ t.mem = s.mem) ∧
  (∀ s k a rest, Unwatched s → dieOf k < 24 → s.dieUp (dieOf k) = true → (s.core k).queue = a :: rest → a.phase ≠ .queued → (∀ b ∈ rest, b.token ≠ a.token) →
    (∃ t, Machine.exec (.haywardSample [.accumulator k]) s = .next t ∧ t = { s with cores := t.cores } ∧
      t.core k = { s.core k with queue := { a with poisonMet := true } :: rest }) ∧
    ∀ e v, ∃ t, Machine.exec (.haywardSample [.weight k e v]) s = .next t ∧ t = { s with cores := t.cores } ∧
      t.core k = { s.core k with queue := { a with acc := setD 0 a.acc e v } :: rest }) ∧
  (∀ s cw bad, Unwatched s → homeOf (cw / 4) < 24 → s.dieUp (homeOf (cw / 4)) = true →
    ∃ t, Machine.exec (.haywardSample [.codeword cw bad]) s = .next t ∧ t = { s with mem := { s.mem with errs := t.mem.errs } } ∧
      find? t.mem.errs cw = some bad) ∧
  (∀ s ch n, Unwatched s → ch / 16 < 24 → s.dieUp (ch / 16) = true →
    ∃ t, Machine.exec (.haywardSample [.parity ch n]) s = .next t ∧ t = { s with mem := { s.mem with parity := t.mem.parity } } ∧
      getD 0 t.mem.parity ch = n) ∧
  ∀ s b, Unwatched s →
    ∃ t, Machine.exec (.haywardSample [.headland b]) s = .next t ∧ t.inService = false ∧ HostOnly s t ∧
      (s.start.code = 0 → t.start.code = if b then 0xE12FB180 else 0xE12FA180)

/-- R167, R482, R491-R493, R496, Table 18-3: what a sample does with hung nodes, and with errors in the panel's own memories (that the sample brings them is the model's choice, log entry 54). -/
def Obligations.HaywardSamplesFindHangsAndErrors : Prop :=
  Claim.HaywardResetsHungPartitions ∧ Claim.MemoryErrorsAreMet

/-! ## Recovery -/

namespace Sys2Proof.Claim

/-- A partition under reset, in step `n` of Table 18-5. -/
abbrev InReset (s : State) (d n : Nat) (run : ResetRun) : Prop :=
  s.inService = true ∧ (s.die d).part = .resetting ∧ (s.die d).run = some run ∧ run.step = n

/-- The reset fails in its step with the code whose base is `base`. -/
def ResetFails (run : ResetRun) (r : ResetResult) (base : Nat) : Prop :=
  (run.step = 5 ∧ r.trainOk = false ∧ base = 0x80A000C5) ∨ (run.step = 7 ∧ r.imageOk = false ∧ base = 0x81300193) ∨
    (run.step = 4 ∧ ∃ full dram, run.bist = some (full, dram) ∧ testCode r dram = some base)

/-- A page under refetch whose region is known, on a running die. -/
abbrev Refetching (s : State) (page c off : Nat) (r : Region) (rf : Refetch) : Prop :=
  s.inService = true ∧ s.dieUp (dieOfDpa (4096 * page)) = true ∧ find? (s.die (dieOfDpa (4096 * page))).refetch page = some rf ∧
    s.refetchRegion (4096 * page) = some (c, r, off)

/-- The composition restarts, and its old context is gone. -/
abbrev Restarting (s : State) (c : Nat) (x : Comp) : Prop :=
  s.inService = true ∧ s.comp? c = some x ∧ x.serve.restarting = true ∧ x.context = 0 ∧ x.unbinding = false ∧ ∀ e ∈ s.yoke.teardowns, e.2.comp ≠ c

end Sys2Proof.Claim

/-- R498, R499, R535-R537, Table 18-5: each step of a partition's reset leads to the next; a failed training, image or test leaves the die out of service; the last step puts it
back in service at clock step 0 with its stack zero; the compositions of its slices then resume from the committed state, or fail when one of
their partitions has left service. -/
def Obligations.PartitionsResetAndCompositionsResume : Prop :=
  (∀ s d n run r, InReset s d n run → (n ∈ [1, 2, 3] ∨ (n = 4 ∧ run.bist = none) ∨ (n = 5 ∧ r.trainOk = true)) →
    ∃ t, Machine.exec (.partitionResetStepDone d r) s = .next t ∧ Aside s t ∧ (t.die d).part = .resetting ∧
      (t.die d).run = some { run with step := n + 1 }) ∧
  (∀ s d run r full dram, InReset s d 4 run → run.bist = some (full, dram) → testCode r dram = none →
    ∃ t, Machine.exec (.partitionResetStepDone d r) s = .next t ∧ Aside s t ∧ (t.die d).run = some { run with step := 5 } ∧
      bit (t.die d).bistStatus 31 = true ∧ bits (t.die d).bistStatus 29 27 = 0) ∧
  (∀ s d n run r base, InReset s d n run → ResetFails run r base →
    ∃ t, Machine.exec (.partitionResetStepDone d r) s = .next t ∧ HostOnly s t ∧ (t.die d).part = .outOfService ∧ (t.die d).run = none ∧
      (t.die d).partCode = if (s.die d).partCode = 0 then mkCode base d else (s.die d).partCode) ∧
  (∀ s d run r, d < 24 → InReset s d 7 run → r.imageOk = true →
    (∀ e ∈ ((s.modDie d fun x => { x with part := .inService }).newRoutes).nodes, e < 24 →
      ((s.modDie d fun x => { x with part := .inService }).newRoutes).isolated e = false) →
    ∃ t, Machine.exec (.partitionResetStepDone d r) s = .next t ∧ t.cores = s.cores ∧ t.yoke = s.yoke ∧ (t.die d).part = .inService ∧
      (t.die d).run = none ∧ (t.die d).step = 0 ∧ (∀ a, dieOfDpa a = d → readByte t.mem.dram a = 0) ∧
      ∀ a, dieOfDpa a ≠ d → readByte t.mem.dram a = readByte s.mem.dram a) ∧
  (∀ s c x, Restarting s c x → (∀ k ∈ x.cur.slices, s.dieUp (dieOf k) = true) → x.lostPages = [] →
    ∃ t z, Machine.exec (.restartResume c) s = .next t ∧ t.mem.dram = s.mem.dram ∧ t.comp? c = some z ∧ z.serve.restarting = false ∧ z.lost = [] ∧
      z.cur = x.cur ∧ z.fn = x.fn ∧ z.serve.pass = x.serve.pass ∧
      if x.serve.st.inPass then z.serve.st = .rollback ∧ z.serve.failedNow = false else z.serve.st = x.serve.st) ∧
  ∀ s c x, Restarting s c x → (∃ k ∈ x.cur.slices, (s.die (dieOf k)).part = .outOfService) → NothingDue s x →
    ∃ t z, Machine.exec (.restartResume c) s = .next t ∧ t.comp? c = some z ∧ z.serve.st = .failed ∧ z.serve.restarting = false ∧ z.serve.streams = []

/-- R486-R490: a refetch whose page meets no wait at its home writes the source's bytes, free of poison, counts it and lets the waiting readers go on; 40 ms without the page, or a source that
cannot be read, ends it, and the page's poison stays. -/
def Obligations.PoisonedPagesAreRefetched : Prop :=
  (∀ s page c off r rf u v bs, Refetching s page c off r rf → s.loadFirst rf = false → s.fetchPage c r off = some (u, bs) →
    u.putPage page bs (.page page) = (v, none) →
    ∃ t, Machine.exec (.refetchComplete page) s = .next t ∧ t.soundPage page = some bs ∧ find? (t.die (dieOfDpa (4096 * page))).refetch page = none ∧
      t.reg .rlyWpageRefetch 0 0 = min 0xFFFFFFFF (s.reg .rlyWpageRefetch 0 0 + 1)) ∧
  ∀ s page c off r rf failed, Refetching s page c off r rf →
    rf.began + 40000000 ≤ s.time.now ∨ failed = true ∨ s.pageSource c r off = none →
    ∃ t, Machine.exec (.refetchTimeout page failed) s = .next t ∧ find? (t.die (dieOfDpa (4096 * page))).refetch page = none ∧
      t.mem.dram = s.mem.dram ∧ t.mem.poison = s.mem.poison ∧
      (s.parkedOn page = [] → HostOnly s t ∧ t.reg .rlyWpageFail 0 0 = min 0xFFFFFFFF (s.reg .rlyWpageFail 0 0 + 1))

/-! ## The root of trust -/

namespace Sys2Proof.Claim

/-- A security command of the PF's admin queue (Table 19-3). -/
abbrev SecAsked (s : State) (e : EntryRef) (op : Nat) (x : Entry) (c : Cq) : Prop := Asked s e op true x c ∧ e.fn = 0

/-- The report of R528, its signature, the attestation key and its certificate, and the identity certificate behind its length (R527). -/
def evidence (s : State) (f : Nat) (nonce : List Byte) : List Byte :=
  s.attestation f nonce ++ mldsaSig (s.nv.attSeed ((s.sec.booted.map (·.dm)).getD 0)) (s.attestation f nonce) ++ s.sec.attKey ++
    s.sec.attCertSig ++ natLe 4 s.nv.certificate.length ++ s.nv.certificate

end Sys2Proof.Claim

/-- R522, R523, R525, R526: an accepted bundle is written to the inactive bank and pends; FW_APPLY takes the listed partitions out of service to load it; FW_ACTIVATE makes
its bank the active one; SVN_COMMIT raises the fused minima to the booted manifest's versions and never lowers them. -/
def Obligations.FirmwareIsStagedAppliedAndActivated : Prop :=
  (∀ s e x c bs, SecAsked s e 0x10 x c → 0 < (x.word 3).toNat → (x.word 3).toNat ≤ bankBytes → x.zeroFrom 4 = true → s.sec.applying = none →
    s.hostRead (s.adminPasid e.fn) (x.word 2).toNat (x.word 3).toNat = some bs →
    let m := writeBytes [] 0 bs
    let v := s.nv.setBank (!s.nv.activeBank) m
    v.bundleOk m = true → ((imageEntries m).all fun i => digestOk m i) = true → v.svnOk m = true →
    ∃ t, Machine.exec (.fwStage e) s = .next t ∧ HostOnly s t ∧ Answered s t e x c 0 0 0 ∧ t.nv = v ∧ t.sec.pending = some (bundleOf m) ∧
      t.sec.pendBank = !s.nv.activeBank) ∧
  (∀ s e x c b, SecAsked s e 0x11 x c → bits (x.word 2) 63 24 = 0 → x.zeroFrom 3 = true → s.sec.applying = none → s.sec.pending = some b →
    (∀ a, s.sec.booted = some a → a.iface = b.iface) → (∀ d ∈ diesOf (x.word 2), s.dieHeld d = false ∧ s.dieUp d = true) →
    ∃ t, Machine.exec (.fwApply e) s = .next t ∧ t.nv = s.nv ∧ (x.word 2 = 0 → HostOnly s t ∧ Answered s t e x c 0 0 0) ∧
      ∀ d ∈ diesOf (x.word 2), (t.die d).part ≠ .inService) ∧
  (∀ s e x c, SecAsked s e 0x12 x c → x.zeroFrom 2 = true → s.sec.applying = none → s.sec.pending.isSome = true →
    ∃ t, Machine.exec (.fwActivate e) s = .next t ∧ HostOnly s t ∧ Answered s t e x c 0 0 0 ∧
      t.nv = { s.nv with activeBank := s.sec.pendBank } ∧ t.sec = s.sec) ∧
  ∀ s e x c b, SecAsked s e 0x13 x c → x.zeroFrom 2 = true → s.sec.applying = none → s.sec.booted = some b → s.sec.bootBank = s.nv.activeBank →
    (∀ d, d < 24 → (s.die d).image = b.cdDigest) →
    ∃ t, Machine.exec (.svnCommit e) s = .next t ∧ HostOnly s t ∧ t.entry? e = none ∧
      t.nv = { s.nv with hlSvnMin := max s.nv.hlSvnMin b.hlSvn, cdSvnMin := max s.nv.cdSvnMin b.cdSvn }

/-- R527-R533: ATTEST writes the evidence to host memory; a challenge is kept with its time and answered; a good token unlocks its scope for its duration and spends the
challenge, a bad one only spends it; DEBUG_LOCK and the end of the duration lock again. -/
def Obligations.AttestationAndDebugUnlock : Prop :=
  (∀ s e x c nonce, Asked s e 0x14 true x c → x.zeroFrom 4 = true → s.hostRead (s.adminPasid e.fn) (x.word 3).toNat 64 = some nonce →
    (s.fn e.fn).log = none → s.hostOk (s.adminPasid e.fn) (x.word 2).toNat (evidence s e.fn nonce).length = true →
    (hostKey (s.adminPasid e.fn) (x.word 2).toNat + (evidence s e.fn nonce).length ≤ hostKey c.pasid (c.base.toNat + 32 * c.tail) ∨
      hostKey c.pasid (c.base.toNat + 32 * c.tail) + 32 ≤ hostKey (s.adminPasid e.fn) (x.word 2).toNat) →
    ∃ t, Machine.exec (.attest e) s = .next t ∧ HostOnly s t ∧ Answered s t e x c 0 (evidence s e.fn nonce).length 0 ∧
      readBytes t.mem.host (hostKey (s.adminPasid e.fn) (x.word 2).toNat) (evidence s e.fn nonce).length = evidence s e.fn nonce) ∧
  (∀ s e x c r, SecAsked s e 0x15 x c → x.zeroFrom 2 = true →
    ∃ t, Machine.exec (.debugChallenge e r) s = .next t ∧ HostOnly s t ∧ Answered s t e x c 0 (r.toNat % 2 ^ 64) (r.toNat / 2 ^ 64) ∧
      t.sec = { s.sec with challenge := some (r, s.time.now) }) ∧
  (∀ s e x c bs, SecAsked s e 0x16 x c → x.zeroFrom 3 = true → s.hostRead (s.adminPasid e.fn) (x.word 2).toNat 11912 = some bs →
    ∃ t, Machine.exec (.debugUnlock e) s = .next t ∧ HostOnly s t ∧ t.entry? e = none ∧ t.sec.challenge = none ∧
      if s.tokenOk bs then t.sec.debugNow = true ∧ t.sec.debugSince = true ∧ t.sec.scope = BitVec.ofNat 16 (leNat ((bs.drop 48).take 2)) ∧
        t.sec.expiry = s.time.now + leNat ((bs.drop 52).take 4) * 1000000000
      else t.sec.debugNow = s.sec.debugNow ∧ t.sec.scope = s.sec.scope ∧ t.sec.expiry = s.sec.expiry) ∧
  (∀ s e x c, SecAsked s e 0x17 x c → x.zeroFrom 2 = true →
    ∃ t, Machine.exec (.debugLock e) s = .next t ∧ t.entry? e = none ∧ t.sec.debugNow = false ∧
      (s.sec.debugNow = true → t.sec.scope = 0 ∧ t.reg .rlyHayCfg 0 0 = 1) ∧
      (s.sec.debugNow = false → HostOnly s t ∧ Answered s t e x c 0 0 0)) ∧
  ∀ s, s.inService = true → s.sec.debugNow = true → s.sec.expiry ≤ s.time.now →
    ∃ t, Machine.exec .debugUnlockExpiry s = .next t ∧ t.sec.debugNow = false ∧ t.sec.scope = 0 ∧ t.reg .rlyHayCfg 0 0 = 1 ∧
      (s.parkedDrills = [] → HostOnly s t)

/-! ## Test and capture -/

namespace Sys2Proof.Claim

/-- A capture command for a composition of its own function (Table 20-2). -/
abbrev CaptureAsked (s : State) (e : EntryRef) (op : Nat) (x : Entry) (y : Comp) : Prop :=
  (s.fn e.fn).entries.filter (fun y => decide (y.ref = e)) = [x] ∧ e.sq = 0 ∧ x.opcode = op ∧ x.started = false ∧ s.fenceOk x = true ∧
    s.replaying x.comp = false ∧ ((s.fn e.fn).quiesced = false ∨ quiescedOk op = true) ∧ (timedOp op = false → x.word 1 = 0) ∧ x.context = 0 ∧
    s.comp? x.comp = some y ∧ y.fn = e.fn

end Sys2Proof.Claim

/-- R536-R538, R541-R546, Table 20-2: BIST takes the listed dies out of service for their test cycle; a capture is set up with its ring and starts at a boundary; its
buffer goes to the host when half full and when it stops; a replay whose records are at an end completes with status 0 and leaves the loop
stopped. -/
def Obligations.TestCyclesCapturesAndReplays : Prop :=
  (∀ s e x c, SecAsked s e 0x1A x c → bits (x.word 2) 63 24 = 0 → bits (x.word 3) 61 0 = 0 → x.zeroFrom 4 = true →
    (∀ d ∈ diesOf (x.word 2), s.dieHeld d = false ∧ s.testBusy d = false ∧ s.dieUp d = true) →
    ∃ t, Machine.exec (.bist e) s = .next t ∧ (x.word 2 = 0 → HostOnly s t ∧ Answered s t e x c 0 0 0) ∧
      ∀ d ∈ diesOf (x.word 2), (t.die d).part ≠ .inService) ∧
  (∀ s e x y, CaptureAsked s e 0x1B x y → x.captureBad = false → (∀ k, find? s.tst.captures x.comp = some k → k.active = false ∧ k.entry = none) →
    ∃ t k, Machine.exec (.captureStart e) s = .next t ∧ t.mem.dram = s.mem.dram ∧ t.yoke = s.yoke ∧ find? t.tst.captures x.comp = some k ∧ k.dest = x.word 2 ∧
      k.size = (x.word 3).toNat ∧ k.wrap = bit (x.word 4) 63 ∧ k.payload = bit (x.word 4) 62 ∧ k.pasid = s.adminPasid e.fn ∧
      if y.serve.st.still = true ∧ y.serve.st ≠ .wait then t.entry? e = none
      else k.active = false ∧ k.entry = some e ∧ k.buffer = [] ∧ t.mem = s.mem) ∧
  (∀ s e x y k, CaptureAsked s e 0x1C x y → x.zeroFrom 2 = true → find? s.tst.captures x.comp = some k → k.entry = none →
    ∃ t k', Machine.exec (.captureStop e) s = .next t ∧ t.mem.dram = s.mem.dram ∧ t.yoke = s.yoke ∧ t.entry? e = none ∧ find? t.tst.captures x.comp = some k' ∧
      k'.active = false ∧ k'.buffer = []) ∧
  (∀ s c k, s.inService = true → find? s.tst.captures c = some k → k.active = true → 0x80000 ≤ k.held →
    ∃ t k', Machine.exec (.captureBufferHalf c) s = .next t ∧ t.mem.dram = s.mem.dram ∧ t.yoke = s.yoke ∧ find? t.tst.captures c = some k' ∧ k'.buffer = [] ∧ k'.dest = k.dest) ∧
  ∀ s e x c y bs h, Asked s e 0x1D true x c → x.context = 0 → x.zeroFrom 4 = true → s.comp? x.comp = some y → y.fn = e.fn → y.serve.st = .stopped →
    s.hostRead (s.adminPasid e.fn) (x.word 2).toNat (x.word 3).toNat = some bs → (∀ z ∈ (s.fn e.fn).entries, z.ref.sq < 0x10000) →
    (parseRecords ((x.word 3).toNat / 16 + 1) bs).dropWhile (fun r => decide (recType r ≠ 8)) = [h] → snapshotShape h = s.shape x.comp y →
    ∃ t, Machine.exec (.replay e) s = .next t ∧ Answered s t e x c 0 0 0 ∧ t.tst.replays = [] ∧ t.mem.dram = s.mem.dram ∧
      t.comp? x.comp = some { y with serve := Serve.reset }

/-! ## Registers -/

namespace Sys2Proof.Claim

/-- A 32-bit access by function `req` reaches register `a` at key `key`. -/
abbrev Reaches (s : State) (req off key : Nat) (a : RegAt) : Prop :=
  s.barOpen req = true ∧ off % 4 = 0 ∧ bar0Key req off = some key ∧ s.regHere key = some a

/-- A refused write is reported, and its code, offset and count are kept (R6, R554). -/
def Refused (s t : State) (site off : Nat) : Prop :=
  HostOnly s t ∧ t.reg .glbRegErr 0 0 = (mkCode 0x11500200 site).toNat ∧ t.reg .glbRegErrAddr 0 0 = off ∧
    t.reg .glbRegErrCnt 0 0 = min 0xFFFFFFFF (s.reg .glbRegErrCnt 0 0 + 1)

end Sys2Proof.Claim

/-- R356, R359, R553-R555, R559: a 32-bit read returns the register's value, clears a read-to-clear register (GRN_COH_PEND to what waits now), and latches the high half of
a 64-bit one for the read that follows; a 64-bit read of a 64-bit register is one action; a doorbell page reads 0; any other access is Unsupported Request. A write
to a read-only or read-to-clear register is dropped, and one to the admin queue's registers while AQ_EN is 1; one that a field does not take is refused; the port map
goes to flash, where the record before it may still stand for 100 ms; the low half of a 64-bit register waits for the high half. -/
def Obligations.RegistersReadAndWrite : Prop :=
  (∀ s req bar2 off n, s.barOpen req = true → (n ≠ 4 ∧ n ≠ 8) ∨ off % n ≠ 0 →
    Machine.exec (.rcRegisterRead req bar2 off n) s = .next (s.out .unsupported)) ∧
  (∀ s req bar2 off n, s.barOpen req = true → n = 4 ∨ n = 8 → off % n = 0 → bar0Key req off = none ∨ bar2 = true →
    Machine.exec (.rcRegisterRead req bar2 off n) s = .next (s.out (.readVal 0))) ∧
  (∀ s req off key a, Reaches s req off key a → a.high = false →
    ∃ t, Machine.exec (.rcRegisterRead req false off 4) s = .next t ∧ Aside s t ∧
      t.host.outs = s.host.outs ++ [.readVal (BitVec.ofNat 64 (s.readWhole a % 2 ^ 32))] ∧
      (a.reg.row.access ≠ .rc → t.regs.vals = s.regs.vals) ∧ (a.reg.row.access = .rc → t.reg a.reg a.blk a.idx = if a.reg = .grnCohPend then (s.die a.blk).mostPend else 0) ∧
      (a.reg.row.wide = true → latchOf t.regs.latched req key = some (BitVec.ofNat 32 (s.readWhole a / 2 ^ 32)))) ∧
  (∀ s req off key a w, Reaches s req off key a → a.high = true → latchOf s.regs.latched req (key - 4) = some w →
    ∃ t, Machine.exec (.rcRegisterRead req false off 4) s = .next t ∧ Aside s t ∧ t.host.outs = s.host.outs ++ [.readVal (w.setWidth 64)] ∧
      latchOf t.regs.latched req (key - 4) = none) ∧
  (∀ s req off key a, Reaches s req off key a → off % 8 = 0 → a.high = false → a.reg.row.wide = true →
    ∃ t, Machine.exec (.rcRegisterRead req false off 8) s = .next t ∧ Aside s t ∧ t.regs.latched = s.regs.latched ∧
      t.host.outs = s.host.outs ++ [.readVal (BitVec.ofNat 64 (s.readWhole a))]) ∧
  (∀ s req off key a v, Reaches s req off key a → a.high = false → a.reg.row.wide = false →
    (a.reg.row.access = .ro ∨ a.reg.row.access = .rc → Machine.exec (.registerWrite req off 4 v) s = .next s) ∧
    (a.reg = .glbScratch → ∃ t, Machine.exec (.registerWrite req off 4 v) s = .next t ∧ Aside s t ∧ t.reg .glbScratch 0 0 = v.toNat % 2 ^ 32) ∧
    (a.reg.row.access = .rw → (a.reg.ofAq = true → (s.fn a.idx).aqEn = false) → s.takes a.reg (v.toNat % 2 ^ 32 &&& a.reg.mask) = false →
      ∃ t, Machine.exec (.registerWrite req off 4 v) s = .next t ∧ Refused s t (a.site key) key)) ∧
  (∀ s f v, s.barOpen f = true → s.start.failed = false → f < 25 → (s.fn f).aqEn = true →
    Machine.exec (.registerWrite f (if f = 0 then 0x100008 else 8) 8 v) s = .next s) ∧
  (∀ s f v, s.barOpen f = true → s.start.failed = false → f < 25 → (s.fn f).aqEn = false →
    ∃ t, Machine.exec (.registerWrite f (if f = 0 then 0x100008 else 8) 8 v) s = .next t ∧ Aside s t ∧
      t.reg .hstAqSqBase 0 f = v.toNat / 4096 * 4096) ∧
  (∀ s f v lo, s.barOpen f = true → s.start.failed = false → f < 25 → (s.fn f).aqEn = false → latchOf s.regs.heldLow f (0x100008 + 0x1000 * f) = some lo →
    ∃ t, Machine.exec (.registerWrite f (if f = 0 then 0x10000C else 12) 4 v) s = .next t ∧ Aside s t ∧
      t.reg .hstAqSqBase 0 f = (v.toNat % 2 ^ 32 * 2 ^ 32 + lo.toNat) / 4096 * 4096) ∧
  (∀ s d w, s.barOpen 0 = true → s.start.failed = false → d < 24 →
    if bits w 4 0 ≤ 18 ∧ bits w 12 8 ≤ 18 then
      ∃ t, Machine.exec (.grnPinCfgWrite d w) s = .next t ∧ Aside s t ∧ t.reg .grnPinCfg d 0 = bits w 12 8 * 256 + bits w 4 0
    else ∃ t, Machine.exec (.grnPinCfgWrite d w) s = .next t ∧ Refused s t d (Reg.off .grnPinCfg d 0) ∧
      t.reg .grnPinCfg d 0 = s.reg .grnPinCfg d 0) ∧
  (∀ s w, s.barOpen 0 = true →
    (portMapOk w.toNat = true → Machine.exec (.xltPortMapNextWrite w) s = .next { s with
      nv := { s.nv with portMap := w }, mod := { s.mod with mapOld := some (s.mapUnstored.getD s.nv.portMap, s.time.now) } }) ∧
    (portMapOk w.toNat = false → ∃ t, Machine.exec (.xltPortMapNextWrite w) s = .next t ∧ Refused s t 0xFF 0x2004 ∧ t.nv = s.nv)) ∧
  ∀ s w, s.barOpen 0 = true → ∃ t, Machine.exec (.timPtpCfgWrite w) s = .next t ∧ HostOnly s t ∧
    t.reg .timPtpCfg 0 0 = (w &&& 0x17F).toNat ∧ (s.inService = true → t.time.masters = [])

/-! ## The module -/

namespace Sys2Proof.Claim

/-- The module has shut down: nothing of what silicon held is left, and the cause stands in the fuses' company (R39, R571, R572). -/
def ShutDown (s t : State) (code : Code) : Prop :=
  t.mod.pwrgd = false ∧ t.mod.shdnHigh = false ∧ t.cores = [] ∧ t.dies = [] ∧ t.mem.dram = [] ∧ t.mem.host = s.mem.host ∧
    t.start.done = false ∧ t.start.step = 0 ∧ t.nv = { s.nv with lastShutdown := code, portMap := s.mapLeft }

/-- Start-up has failed with this code as the first or a later one (R38). -/
def StartFails (s t : State) (c : Code) : Prop :=
  t.start.failed = true ∧ t.start.done = false ∧ t.mod.crs = false ∧ t.start.code = (if s.start.code = 0 then c else s.start.code) ∧ Logged s t c

/-- Start-up is in step `n`. -/
abbrev InStep (s : State) (n : Nat) : Prop := s.starting = true ∧ s.start.step = n

/-- Start-up goes from step `n` to the next. -/
def ToNext (s t : State) (n : Nat) : Prop := t.start.step = n + 1 ∧ t.start.failed = false ∧ t.start.done = false ∧ t.mod = s.mod

/-- The PF has been reset: no queue, no VF, one link event more (R376). -/
def PfReset (s t : State) : Prop :=
  (t.fn 0).sqs = [] ∧ (t.fn 0).cqs = [] ∧ (t.fn 0).aqEn = false ∧ t.host.vfs = 0 ∧
    t.reg .hstLinkEvents 0 0 = min 0xFFFFFFFF (s.reg .hstLinkEvents 0 0 + 1) ∧ (s.yoke.comps = [] → HostOnly s t)

end Sys2Proof.Claim

/-- R38, R39, R462-R464, R565, R569-R573: ENABLE starts the converters after 100 ms low with input and clock in range; regulation in time brings power good, the straps and start-up step 1,
else the converters stay off; ENABLE low, an input out of range and a lost clock shut the module down with their cause. -/
def Obligations.ModulePowersUpAndDown : Prop :=
  (∀ s mv low, s.mod.enable = false → Machine.exec (.enableRise mv low true) s = .next { s with mod := { s.mod with
    enable := true, inputMv := mv, conv := if 46000 ≤ mv ∧ mv ≤ 56000 ∧ 100 ≤ low then .starting else .blocked } }) ∧
  (∀ s mv low, s.mod.enable = false → ∃ t, Machine.exec (.enableRise mv low false) s = .next t ∧ ShutDown s t 0xE11FF139 ∧ t.mod.conv = .blocked) ∧
  (∀ s, s.mod.conv = .starting → Machine.exec .converterRegulationTimeout s = .next { s with mod := { s.mod with conv := .blocked } }) ∧
  (∀ s mode addr, s.mod.conv = .starting → s.mod.enable = true →
    ∃ t, Machine.exec (.powerGood mode addr) s = .next t ∧ t = { s with mod := t.mod, start := { s.start with step := 1 } } ∧ t.mod.conv = .on ∧
      t.mod.pwrgd = true ∧ t.mod.shdnHigh = true ∧ t.mod.mgmtMode = mode ∧ t.mod.mgmtAddr = addr ∧ t.mod.crs = true) ∧
  (∀ s, s.mod.enable = true → ∃ t, Machine.exec .enableFall s = .next t ∧ t.mod.enable = false ∧ t.mod.conv = .off ∧
    (s.mod.conv = .on → ShutDown s t 0) ∧ (s.mod.conv ≠ .on → t = { s with mod := { s.mod with enable := false, conv := .off } })) ∧
  (∀ s mv us fall, s.mod.powered = true →
    if (¬ (46000 ≤ mv ∧ mv ≤ 56000) ∧ 1000 ≤ us) ∨ mv < 42000 ∨ 60000 < mv then
      ∃ t, Machine.exec (.inputOutOfRange mv us fall) s = .next t ∧ ShutDown s t (if mv < 20000 ∧ fall < 1000 then 0 else 0xE11FF138)
    else Machine.exec (.inputOutOfRange mv us fall) s = .next { s with mod := { s.mod with inputMv := mv } }) ∧
  ∀ s ns, s.mod.powered = true → 1000 ≤ ns → ∃ t, Machine.exec (.sysclkLoss ns) s = .next t ∧ ShutDown s t 0xE11FF139

/-- R16-R37, R517-R521, R583, R584, Table 01-5: the boot takes the active bank, else the other, else start-up fails; a headland image or class that does not match fails it; a die's record takes the
STATUS of the first check that fails, a silent die STATUS 6; the fallow set has four members, admissible, all failed dies among them; the
remaining dies take their ranks; the last steps open the ports, start the device time and bring the panel into service. -/
def Obligations.StartupFollowsItsSteps : Prop :=
  (∀ s r, InStep s 1 ∨ InStep s 5 ∨ InStep s 6 ∨ (InStep s 4 ∧ 28 ≤ s.start.chain) →
    ∃ t, Machine.exec (.startupStepComplete r) s = .next t ∧ ToNext s t s.start.step) ∧
  (∀ s r b, InStep s 2 → (s.nv.bundleOk (s.nv.bank b) = true ∧ s.nv.svnOk (s.nv.bank b) = true) →
    (b = s.nv.activeBank ∨ ¬ (s.nv.bundleOk (s.nv.bank (!b)) = true ∧ s.nv.svnOk (s.nv.bank (!b)) = true)) →
    ∃ t, Machine.exec (.startupStepComplete r) s = .next t ∧ ToNext s t 2 ∧ t.sec.booted = some (bundleOf (s.nv.bank b)) ∧ t.sec.bootBank = b ∧
      t.sec.udsLocked = true) ∧
  (∀ s r, InStep s 2 → (∀ b, ¬ (s.nv.bundleOk (s.nv.bank b) = true ∧ s.nv.svnOk (s.nv.bank b) = true)) →
    ∃ t, Machine.exec (.startupStepComplete r) s = .next t ∧ StartFails s t 0xE13FF190) ∧
  (∀ s r, InStep s 3 → ∃ t, Machine.exec (.startupStepComplete r) s = .next t ∧
    if r.hlbImageOk = false then StartFails s t 0xE13FB191
    else if s.nv.hlbClass ≠ s.nv.hlaClass then StartFails s t 0xE01FB022
    else ToNext s t 3 ∧ (∀ p, p < 28 → 2 ≤ s.fuse p → recStatus (getD 0 t.start.recs p) = 5) ∧
      ∀ p, p < t.start.chain → p < 28 → 2 ≤ s.fuse p) ∧
  (∀ s pos rec, InStep s 4 → pos = s.start.chain → pos < 28 →
    ∃ t, Machine.exec (.dieRecordAppend pos rec) s = .next t ∧ t.mem = s.mem ∧ t.start.step = 4 ∧ pos < t.start.chain ∧
      let known := (s.sec.booted.map (·.steppings)).getD []
      recStatus (getD 0 t.start.recs pos) = if 2 ≤ max (recFuse rec) (s.fuse pos) then 5 else if recStatus rec = 4 then 4
        else if recClass rec ≠ s.nv.hlaClass.toNat then 7 else if !known.contains (BitVec.ofNat 8 (recStepping rec)) then 8 else 0) ∧
  (∀ s pos, InStep s 4 → pos = s.start.chain → pos < 28 →
    ∃ t, Machine.exec (.enumResponseTimeout pos) s = .next t ∧ t.mem = s.mem ∧ t.start.step = 4 ∧ pos < t.start.chain ∧
      recStatus (getD 0 t.start.recs pos) = 6) ∧
  (∀ s r, InStep s 7 → ∃ t, Machine.exec (.startupStepComplete r) s = .next t ∧
    match s.chooseFallow with
    | .inr c => StartFails s t c
    | .inl f => ToNext s t 7 ∧ f.length = 4 ∧ admissible f = true ∧ t.start.fallow = BitVec.ofNat 28 (dieMask f) ∧
      (∀ p, p < 28 → recStatus (getD 0 s.start.recs p) ≠ 0 → p ∈ f) ∧
      ∀ n p, ((upto 28).filter fun p => !f.contains p)[n]? = some p → (t.die n).pos = p) ∧
  (∀ s r, InStep s 8 → ∃ t, Machine.exec (.startupStepComplete r) s = .next t ∧ (ToNext s t 8 ∨ (t.start.failed = true ∧ t.mod.crs = false)) ∧
    ∀ p q, p < 28 → q < 4 → getD 0 t.start.roles (4 * p + q) = s.rolesAt p q) ∧
  (∀ s r b, InStep s 9 → s.sec.booted = some b → (∀ p, p < 28 → s.fallowAt p = false → r.imageFail.contains p = false) →
    ∃ t, Machine.exec (.startupStepComplete r) s = .next t ∧ ToNext s t 9 ∧ ∀ d, d < 24 → (t.die d).image = b.cdDigest) ∧
  (∀ s r p, InStep s 9 → p < 28 → s.fallowAt p = false → r.imageFail.contains p = true →
    (∀ q, q < p → s.fallowAt q = true ∨ r.imageFail.contains q = false) →
    ∃ t, Machine.exec (.startupStepComplete r) s = .next t ∧ StartFails s t (mkCode 0xE1300192 p)) ∧
  (∀ s r, InStep s 10 → ∃ t, Machine.exec (.startupStepComplete r) s = .next t ∧ t.start.step = 11 ∧ t.start.portMap = s.nv.portMap ∧
    ∀ p, p < 16 → bit t.link.up p = (decide (bits s.nv.portMap (2 * p + 1) (2 * p) ≠ 0) && bit r.xltUp p)) ∧
  (∀ s r, InStep s 11 → ∃ t, Machine.exec (.startupStepComplete r) s = .next t ∧ ToNext s t 11 ∧ t.time.running = true ∧ t.time.now = s.time.now) ∧
  ∀ s r, InStep s 12 → ∃ t, Machine.exec (.startupStepComplete r) s = .next t ∧ t.inService = true ∧ t.mod.crs = false ∧
    t.host.outs = s.host.outs ++ [.drs] ∧ Aside s t

/-- R33-R35, R376, Tables 13-1, 13-2: over a link that trains with its partner a configuration request is answered with CRS until the panel is in service, whatever function it names,
brings the link up, and sets a function's power state or the BAR4 window; one to an absent function is Unsupported Request; PERST# deasserted trains the link; PERST#, a hot reset or 10 ms without link resets the PF, and
during start-up leaves all but the link alone. -/
def Obligations.HostPortAnswersAndResets : Prop :=
  (∀ s f r, s.mod.pwrgd = true → s.mod.perst = false → linkTrains s.mod.partner = false → Machine.exec (.configRequest f r) s = .next s) ∧
  (∀ s f r, s.mod.pwrgd = true → s.mod.perst = false → linkTrains s.mod.partner = true →
    ∃ t, Machine.exec (.configRequest f r) s = .next t ∧ Aside s t ∧ t.mod.linkUp = true ∧
      t.host.outs = s.host.outs ++ [if s.mod.crs then .config f true else if s.fnExists f then .config f (s.fn f).resetting else .unsupported] ∧
      (s.mod.crs = false → s.fnExists f = true → (s.fn f).resetting = false → (r = .toD3hot → (t.fn f).d3hot = true) ∧
        ∀ g, r = .bar4Window g → f = 0 → g ≤ 6 → t.host.bar4Window = g)) ∧
  (∀ s, s.mod.pwrgd = true → s.mod.perst = false → ∃ t, Machine.exec .perstAssert s = .next t ∧ t.mod.perst = true ∧ t.mod.linkUp = false ∧
    (s.start.done = false → t = { s with mod := { s.mod with perst := true, linkUp := false } }) ∧ (s.start.done = true → s.host.vfs ≤ 24 → PfReset s t)) ∧
  (∀ s p, s.mod.pwrgd = true → Machine.exec (.perstDeassert p) s = .next { s with mod := { s.mod with
    perst := false, partner := p, linkUp := p.flit && decide (1 ≤ p.rate) && decide (8 ≤ p.lanes) } }) ∧
  (∀ s, s.mod.pwrgd = true → s.mod.perst = false → ∃ t, Machine.exec .hotReset s = .next t ∧ (s.start.done = false → t = s) ∧
    (s.start.done = true → s.host.vfs ≤ 24 → PfReset s t)) ∧
  ∀ s, s.mod.pwrgd = true → s.mod.perst = false → s.mod.linkUp = true → s.start.done = true → s.host.vfs ≤ 24 →
    ∃ t, Machine.exec .hostLinkLossTimeout s = .next t ∧ t.mod.linkUp = false ∧ PfReset s t

/-- R574-R576: the management endpoint answers telemetry, up to sixteen severe log entries, a new cap and the panel's identity; it takes a dynamic address on an I3C bus
and an endpoint ID. -/
def Obligations.BoardManagementAnswers : Prop :=
  let words (l : List Nat) : List DWord := l.map fun n => BitVec.ofNat 64 n
  (∀ s, s.mctpOn = true → Machine.exec .getTelemetry s = .next (s.out (.mctp (words [s.regValue .pwrInput 0 0, s.regValue .pwrHlTemp 0 0,
    s.highest (·.td), s.highest (·.ts), s.regValue .pwrCapEff 0 0, s.regValue .glbStartupStatus 0 0]) 0))) ∧
  (∀ s i, s.mctpOn = true → ∃ (t : State) (es : List LogEntry), Machine.exec (.getErrors i) s = .next t ∧ Aside s t ∧
    t.host.outs = s.host.outs ++ [.mctp (words ([s.regValue .glbStartupCode 0 0, s.regValue .pwrLastShutdown 0 0, s.regValue .rlyLogHead 0 0] ++
      es.flatMap fun e => [e.code.toNat, e.time])) 0] ∧ es.length ≤ 16 ∧
    (∀ e ∈ es, ∃ k, i.toNat ≤ k ∧ k < 256 ∧ find? s.rel.log k = some e ∧ (severity e.code = 8 ∨ severity e.code = 14)) ∧
    ∀ k e, i.toNat ≤ k → k < 256 → find? s.rel.log k = some e → (severity e.code = 8 ∨ severity e.code = 14) → es.length < 16 → e ∈ es) ∧
  (∀ s w, s.mctpOn = true → if 600 ≤ w.toNat ∧ w.toNat ≤ 1500 then
      ∃ t, Machine.exec (.setCap w) s = .next t ∧ Aside s t ∧ t.reg .pwrCapBmc 0 0 = w.toNat ∧ t.host.outs = s.host.outs ++ [.mctp (words [w.toNat]) 0]
    else Machine.exec (.setCap w) s = .next (s.out (.mctp [] 2))) ∧
  (∀ s, s.mctpOn = true → ∃ ws, Machine.exec .getIdentity s = .next (s.out (.mctp ws 0)) ∧
    ws = words [s.regValue .glbId 0 0, s.regValue .glbSerial 0 0, bits s.sec.panelId 63 0, bits s.sec.panelId 127 64, bits s.sec.panelId 191 128,
      bits s.sec.panelId 255 192, s.regValue .glbFwVersion 0 0, s.regValue .glbHlStep 0 0]) ∧
  (∀ s a, s.mctpOn = true → s.mod.mgmtMode = false → Machine.exec (.i3cDynamicAddress a) s = .next { s with mod := { s.mod with dynAddr := some a } }) ∧
  (∀ s e, s.mctpOn = true → e ≠ 0 → e ≠ 0xFF → ∃ t, Machine.exec (.mctpControlMessage 1 e) s = .next t ∧ t.mod = { s.mod with eid := e } ∧
    t.host.outs = s.host.outs ++ [.mctp (words [e.toNat]) 0]) ∧
  ∀ s e, s.mctpOn = true → Machine.exec (.mctpControlMessage 2 e) s = .next (s.out (.mctp (words [s.mod.eid.toNat]) 0))

/-! ## The whole block -/

namespace Sys2Proof.Claim

/-- The sector that a coherence message or a non-caching access names. -/
def sectorNamed : Instr → Option Nat
  | .getS n _ _ | .getM n _ _ _ | .putM n _ _ _ | .atomReq n _ _ | .raddReq n _ _ | .invAck n _ | .recallData n _ _ _ | .homeFillDone n
  | .nonCachingRead n _ _ _ _ | .nonCachingWrite n _ _ _ _ _ _ _ _ | .inv n _ | .recall n _ _ | .dataS n _ _ _ | .dataM n _ _ _ | .grantM n _
  | .wback n _ | .atomResp n _ _ _ _ | .raddAck n _ _ _ => some n
  | _ => none

/-- Device and host memory are in canonical form: addresses strictly rising, no listed byte 0. -/
def MemoryCanonical (s : State) : Prop := Memory.wf s.mem.dram = true ∧ Memory.wf s.mem.host = true

/-- Nothing waits at a home for its turn: no BAR4 request, no PIN, no received frame, no pin of a moved region; and no channel has failed. -/
abbrev NothingWaits (s : State) : Prop :=
  s.host.barQ = [] ∧ (∀ f ∈ s.host.fns, ∀ y ∈ f.2.entries, ¬ (y.opcode = 0x18 ∧ y.started = true)) ∧ s.link.waiting = [] ∧
    (∀ c ∈ s.yoke.comps, c.2.pinMoves = []) ∧ ∀ d ∈ s.dies, d.2.ifFault = false

/-- What manufacture fused, and the minima that only rise (R514, R520, R526). -/
def FusesKept (s t : State) : Prop :=
  t.nv.fuses = s.nv.fuses ∧ t.nv.hlaClass = s.nv.hlaClass ∧ t.nv.hlaStep = s.nv.hlaStep ∧ t.nv.hlbClass = s.nv.hlbClass ∧
    t.nv.hlbStep = s.nv.hlbStep ∧ t.nv.serial = s.nv.serial ∧ t.nv.mac = s.nv.mac ∧ t.nv.uds = s.nv.uds ∧ t.nv.rootDig = s.nv.rootDig ∧
    t.nv.fwRevoke = s.nv.fwRevoke ∧ t.nv.dbgRevoke = s.nv.dbgRevoke ∧ t.nv.debugDisable = s.nv.debugDisable ∧ t.nv.rootKey = s.nv.rootKey ∧
    t.nv.idCert = s.nv.idCert ∧ s.nv.hlSvnMin ≤ t.nv.hlSvnMin ∧ s.nv.cdSvnMin ≤ t.nv.cdSvnMin

end Sys2Proof.Claim

/-- A step takes the command at the front of the queue and performs it with the queue's rest; with no command waiting a nanosecond passes (the model's choice, log entry
5). -/
def Obligations.EachStepPerformsTheFrontCommand : Prop :=
  (∀ (s : State) (c : Instr), Machine.step { s with pending := c :: s.pending } = Machine.exec c s) ∧
  ∀ s : State, s.pending = [] → Machine.step s = .next s.tick

/-- R310, R346, R347, R349, R469: with no command waiting the device time moves: it keeps the disciplined rate, 100 ppm more or less while an offset is slewed, counting whole
nanoseconds and keeping the rest, and runs at half rate while a backward offset is run off; where nothing waits at a home, of all else only the dies' FC counters
move, and the active ports that owe an ACKSEQ or credits send an idle flit (that idle time passes at all, and what it does, is the model's choice, log entry 5). -/
def Obligations.IdleTimePasses : Prop :=
  ∀ s : State, s.pending = [] → ∃ t, Machine.step s = .next t ∧
    (s.time.running = false → t.time = s.time) ∧
    (s.time.running = true →
      (s.time.back = 0 → t.time.rate = s.time.rate ∧ s.time.now ≤ t.time.now ∧ t.time.now ≤ s.time.now + 2 ∧
        1000000000 * (t.time.now : Int) + t.time.acc = 1000000000 * (s.time.now + 1) + s.time.acc + s.time.rate + 100000 * s.time.slew.sign ∧
        t.time.slew = s.time.slew - s.time.slew.sign) ∧
      (0 < s.time.back → s.time.half = false → t.time.now = s.time.now ∧ t.time.back = s.time.back ∧ t.time.half = true) ∧
      (0 < s.time.back → s.time.half = true → t.time.now = s.time.now + 1 ∧ t.time.back = s.time.back - 1 ∧ t.time.half = false)) ∧
    (s.inService = false → t = { s with time := t.time }) ∧
    (s.inService = true → NothingWaits s → t = { s with time := t.time, dies := t.dies, hlPorts := t.hlPorts } ∧
      (∀ d, d < 24 → t.die d = if (s.die d).part = .inService then
        { s.die d with fcTenths := (s.die d).fcTenths + 8 + (s.die d).step, ports := (t.die d).ports } else s.die d) ∧
      ∀ p, portExists p = true → s.nodeUp p.node = true → let x := s.hport p
        if x.st = .active ∧ (x.ackDue = true ∨ x.owed ≠ []) then (t.hport p).ackDue = false ∧ (t.hport p).owed.length ≤ x.owed.length else t.hport p = x)

/-- After reset no command waits, the module has no power, every compute die stands at clock step 8 and duty 16/16 with nothing cached, the loop and the table of compositions
are empty, and the registers read as their tables say. -/
def Sys2Proof.Claim.ResetLeavesTheStatedValues : Prop :=
  State.reset.pending = [] ∧ State.reset.mod.pwrgd = false ∧ State.reset.start.done = false ∧ State.reset.start.step = 0 ∧
    State.reset.yoke.comps = [] ∧ State.reset.mem.dram = [] ∧ State.reset.time.now = 0 ∧ State.reset.time.running = false ∧
    (∀ d, (State.reset.die d).step = 8 ∧ (State.reset.die d).duty = 16 ∧ (State.reset.die d).gran = [] ∧ (State.reset.die d).eccThr = 0x400) ∧
    (∀ k, (State.reset.core k).drills = [] ∧ (State.reset.core k).arrayNext = 0 ∧ (State.reset.core k).xferNext = 0) ∧
    ∀ e ∈ [(Reg.glbId, 0x24180100), (.xltPortMapNext, 0x22222222), (.xltEthertype, 0x88B5), (.xltRetxCfg, 0x1028), (.timPtpCfg, 0x100),
      (.timStepThr, 10000), (.timHoldLimit, 60), (.yokSchedCfg, 1), (.pwrCapHost, 1500), (.pwrCapBmc, 1500), (.pwrMargin, 20), (.rlyHayCfg, 1),
      (.hstFnCtrl, 0)], State.reset.reg e.1 0 0 = e.2

/-- Every command has its meaning: it answers a next state, but for a coherence message or an access that names a sector beyond the panel's DRAM (R9), which
is the one fault. -/
def Obligations.OnlyAbsentSectorsStop : Prop :=
  ∀ (i : Instr) (s : State),
    (Machine.exec i s = .fault .absentSector ↔ ∃ n, sectorNamed i = some n ∧ 0xD800000000 ≤ n * 256) ∧
    ((∀ n, sectorNamed i = some n → n * 256 < 0xD800000000) → ∃ t, Machine.exec i s = .next t)

/-- A command leaves the queue of waiting commands as it is; a nanosecond of idle time too. -/
def Obligations.CommandsLeaveTheQueueAlone : Prop :=
  (∀ (i : Instr) (s t : State), Machine.exec i s = .next t → t.pending = s.pending) ∧
  ∀ (s t : State), Machine.step s = .next t → t.pending = s.pending.tail

/-- Every step keeps the canonical form of device memory and of host memory. -/
def Obligations.StepsKeepMemoryCanonical : Prop := ∀ (s t : State), MemoryCanonical s → Machine.step s = .next t → MemoryCanonical t

/-- R514, R515, R520, R526: no step changes the fuses and keys of manufacture; the fused minima of the security versions change by SVN_COMMIT alone, and no step lowers them. -/
def Obligations.StepsKeepFusesAndNeverLowerMinima : Prop :=
  ∀ (s t : State), Machine.step s = .next t → FusesKept s t ∧
    ((∀ e rest, s.pending ≠ .svnCommit e :: rest) → t.nv.hlSvnMin = s.nv.hlSvnMin ∧ t.nv.cdSvnMin = s.nv.cdSvnMin)

/-- The memories after reset are in canonical form. -/
def Sys2Proof.Claim.ResetMemoryIsCanonical : Prop := MemoryCanonical State.reset

/-- The state after reset, whose memories are in canonical form (the empty tables and the unpowered module are the model's choice: log entries 51 and 52). -/
def Obligations.ResetLeavesTheStatedState : Prop :=
  Claim.ResetLeavesTheStatedValues ∧ Claim.ResetMemoryIsCanonical
end

