-- ==== Sys2Proof/Laws/Sparse.lean ====
section
/-! SUPPORT. Laws of the sparse tables: read after write, other keys untouched, the canonical form kept by every memory operation. -/

namespace Sys2Proof.Machine

open Sys2Proof

/-! ## Reading after writing -/

theorem find?_insert_same {α : Type} (m : List (Nat × α)) (k : Nat) (a : α) : find? (insert m k a) k = some a := by
  induction m with
  | nil => simp [insert, find?]
  | cons e m ih =>
    obtain ⟨i, b⟩ := e
    simp only [insert]
    split
    · simp [find?]
    · split
      · simp [find?]
      · simp [find?, *]

theorem find?_insert_other {α : Type} (m : List (Nat × α)) {k j : Nat} (a : α) (h : j ≠ k) :
    find? (insert m k a) j = find? m j := by
  induction m with
  | nil => simp [insert, find?, Ne.symm h]
  | cons e m ih =>
    obtain ⟨i, b⟩ := e
    simp only [insert]
    split
    · simp [find?, Ne.symm h]
    · split
      · subst i; simp [find?, Ne.symm h]
      · simp [find?, ih]

theorem find?_erase_same {α : Type} (m : List (Nat × α)) (k : Nat) : find? (erase m k) k = none := by
  induction m with
  | nil => rfl
  | cons e m ih =>
    obtain ⟨i, b⟩ := e
    simp only [erase]
    split
    · exact ih
    · simp [find?, *]

theorem find?_erase_other {α : Type} (m : List (Nat × α)) {k j : Nat} (h : j ≠ k) : find? (erase m k) j = find? m j := by
  induction m with
  | nil => rfl
  | cons e m ih =>
    obtain ⟨i, b⟩ := e
    simp only [erase]
    split
    · subst i; simp [find?, Ne.symm h, ih]
    · simp [find?, ih]

@[simp] theorem getD_setD_same {α : Type} [DecidableEq α] (d : α) (m : List (Nat × α)) (k : Nat) (a : α) :
    getD d (setD d m k a) k = a := by
  unfold getD setD
  split
  · simp [find?_erase_same, *]
  · simp [find?_insert_same]

theorem getD_setD_other {α : Type} [DecidableEq α] (d : α) (m : List (Nat × α)) {k j : Nat} (a : α) (h : j ≠ k) :
    getD d (setD d m k a) j = getD d m j := by
  unfold getD setD
  split
  · rw [find?_erase_other _ h]
  · rw [find?_insert_other _ _ h]

theorem getD_setD {α : Type} [DecidableEq α] (d : α) (m : List (Nat × α)) (k j : Nat) (a : α) :
    getD d (setD d m k a) j = if j = k then a else getD d m j := by
  split
  · subst j; simp
  · exact getD_setD_other d m a ‹_›

/-! ## The canonical form -/

theorem rising_mono {α : Type} {m : List (Nat × α)} {lo lo' : Nat} (h : rising lo m = true) (hl : lo' ≤ lo) : rising lo' m = true := by
  cases m with
  | nil => rfl
  | cons e m => simp only [rising, Bool.and_eq_true, decide_eq_true_eq] at h ⊢; exact ⟨by omega, h.2⟩

theorem rising_insert {α : Type} (m : List (Nat × α)) (lo k : Nat) (a : α) (h : rising lo m = true) (hk : lo ≤ k) :
    rising lo (insert m k a) = true := by
  induction m generalizing lo with
  | nil => simp [insert, rising, hk]
  | cons e m ih =>
    obtain ⟨i, b⟩ := e
    simp only [rising, Bool.and_eq_true, decide_eq_true_eq] at h
    simp only [insert]
    split
    · simp only [rising, Bool.and_eq_true, decide_eq_true_eq]; exact ⟨hk, by omega, h.2⟩
    · split
      · subst i; simp only [rising, Bool.and_eq_true, decide_eq_true_eq]; exact h
      · simp only [rising, Bool.and_eq_true, decide_eq_true_eq]; exact ⟨h.1, ih _ h.2 (by omega)⟩

theorem rising_erase {α : Type} (m : List (Nat × α)) (lo k : Nat) (h : rising lo m = true) : rising lo (erase m k) = true := by
  induction m generalizing lo with
  | nil => rfl
  | cons e m ih =>
    obtain ⟨i, b⟩ := e
    simp only [rising, Bool.and_eq_true, decide_eq_true_eq] at h
    simp only [erase]
    split
    · exact rising_mono (ih _ h.2) (by omega)
    · simp only [rising, Bool.and_eq_true, decide_eq_true_eq]; exact ⟨h.1, ih _ h.2⟩

theorem mem_insert {α : Type} {m : List (Nat × α)} {k : Nat} {a : α} {e : Nat × α} (h : e ∈ insert m k a) : e = (k, a) ∨ e ∈ m := by
  induction m with
  | nil => simpa [insert] using h
  | cons f m ih =>
    obtain ⟨i, b⟩ := f
    simp only [insert] at h
    split at h
    · simpa using h
    · split at h
      · rcases List.mem_cons.1 h with h | h
        · exact .inl h
        · exact .inr (List.mem_cons_of_mem _ h)
      · rcases List.mem_cons.1 h with h | h
        · exact .inr (h ▸ List.mem_cons_self)
        · exact (ih h).imp_right (List.mem_cons_of_mem _)

theorem mem_erase {α : Type} {m : List (Nat × α)} {k : Nat} {e : Nat × α} (h : e ∈ erase m k) : e ∈ m := by
  induction m with
  | nil => exact h
  | cons f m ih =>
    obtain ⟨i, b⟩ := f
    simp only [erase] at h
    split at h
    · exact List.mem_cons_of_mem _ (ih h)
    · rcases List.mem_cons.1 h with h | h
      · exact h ▸ List.mem_cons_self
      · exact List.mem_cons_of_mem _ (ih h)

theorem canonical_setD {α : Type} [DecidableEq α] {d : α} {m : List (Nat × α)} (k : Nat) (a : α) (h : canonical d m = true) :
    canonical d (setD d m k a) = true := by
  simp only [canonical, Bool.and_eq_true, List.all_eq_true, decide_eq_true_eq] at h ⊢
  unfold setD
  split
  · exact ⟨rising_erase _ _ _ h.1, fun e he => h.2 e (mem_erase he)⟩
  · refine ⟨rising_insert _ _ _ _ h.1 (by omega), fun e he => ?_⟩
    rcases mem_insert he with rfl | he
    · assumption
    · exact h.2 e he

theorem rising_filter {α : Type} (p : Nat × α → Bool) (m : List (Nat × α)) (lo : Nat) (h : rising lo m = true) :
    rising lo (m.filter p) = true := by
  induction m generalizing lo with
  | nil => rfl
  | cons e m ih =>
    obtain ⟨i, b⟩ := e
    simp only [rising, Bool.and_eq_true, decide_eq_true_eq] at h
    simp only [List.filter]
    split
    · simp only [rising, Bool.and_eq_true, decide_eq_true_eq]; exact ⟨h.1, ih _ h.2⟩
    · exact rising_mono (ih _ h.2) (by omega)

/-! ## Memory -/

@[simp] theorem readByte_writeByte_same (m : Memory) (a : Nat) (b : Byte) : readByte (writeByte m a b) a = b := getD_setD_same ..

theorem readByte_writeByte_other (m : Memory) {a c : Nat} (b : Byte) (h : c ≠ a) : readByte (writeByte m a b) c = readByte m c :=
  getD_setD_other _ _ _ h

theorem readByte_writeBytes_below (m : Memory) (a c : Nat) (bs : List Byte) (h : c < a) :
    readByte (writeBytes m a bs) c = readByte m c := by
  induction bs generalizing m a with
  | nil => rfl
  | cons b bs ih => rw [writeBytes, ih _ _ (by omega), readByte_writeByte_other _ _ (by omega)]

/-- Everything that a write of bytes does: each written byte reads back, every other byte reads as before. -/
theorem readByte_writeBytes (m : Memory) (a c : Nat) (bs : List Byte) :
    readByte (writeBytes m a bs) c = if a ≤ c ∧ c < a + bs.length then bs.getD (c - a) 0 else readByte m c := by
  induction bs generalizing m a with
  | nil => simp [writeBytes]
  | cons b bs ih =>
    rw [writeBytes, ih]
    by_cases h : c = a
    · subst c; simp
    · rw [readByte_writeByte_other _ _ h]
      by_cases h1 : a + 1 ≤ c ∧ c < a + 1 + bs.length
      · have h2 : a ≤ c ∧ c < a + (b :: bs).length := by simp; omega
        have h3 : c - a = (c - (a + 1)) + 1 := by omega
        rw [if_pos h1, if_pos h2, h3]; simp
      · have h2 : ¬ (a ≤ c ∧ c < a + (b :: bs).length) := by simp; omega
        rw [if_neg h1, if_neg h2]

theorem wf_writeByte {m : Memory} (a : Nat) (b : Byte) (h : Memory.wf m = true) : Memory.wf (writeByte m a b) = true :=
  canonical_setD a b h

theorem wf_writeBytes {m : Memory} (a : Nat) (bs : List Byte) (h : Memory.wf m = true) : Memory.wf (writeBytes m a bs) = true := by
  induction bs generalizing m a with
  | nil => exact h
  | cons b bs ih => exact ih _ (wf_writeByte a b h)

theorem wf_clearRange {m : Memory} (lo hi : Nat) (h : Memory.wf m = true) : Memory.wf (clearRange m lo hi) = true := by
  simp only [Memory.wf, canonical, Bool.and_eq_true, List.all_eq_true] at h ⊢
  exact ⟨rising_filter _ _ _ h.1, fun e he => h.2 e (List.mem_filter.1 he).1⟩

theorem length_readBytes (m : Memory) (a n : Nat) : (readBytes m a n).length = n := by
  induction n generalizing a with
  | zero => rfl
  | succ n ih => simp [readBytes, ih]

end Sys2Proof.Machine
end

