-- ==== Sys2Proof/Laws/State.lean ====
section
/-! SUPPORT. The state's accessors and updates: each update's fields, one by one, and reading a part after writing it. -/

namespace Sys2Proof.Machine

open Sys2Proof

@[simp] theorem State.setCore_pending (s : State) (k : Nat) (c : Core) : (s.setCore k c).pending = s.pending := rfl
@[simp] theorem State.setCore_mod (s : State) (k : Nat) (c : Core) : (s.setCore k c).mod = s.mod := rfl
@[simp] theorem State.setCore_nv (s : State) (k : Nat) (c : Core) : (s.setCore k c).nv = s.nv := rfl
@[simp] theorem State.setCore_start (s : State) (k : Nat) (c : Core) : (s.setCore k c).start = s.start := rfl
@[simp] theorem State.setCore_regs (s : State) (k : Nat) (c : Core) : (s.setCore k c).regs = s.regs := rfl
@[simp] theorem State.setCore_mem (s : State) (k : Nat) (c : Core) : (s.setCore k c).mem = s.mem := rfl
@[simp] theorem State.setCore_dies (s : State) (k : Nat) (c : Core) : (s.setCore k c).dies = s.dies := rfl
@[simp] theorem State.setCore_hlPorts (s : State) (k : Nat) (c : Core) : (s.setCore k c).hlPorts = s.hlPorts := rfl
@[simp] theorem State.setCore_hlSw (s : State) (k : Nat) (c : Core) : (s.setCore k c).hlSw = s.hlSw := rfl
@[simp] theorem State.setCore_net (s : State) (k : Nat) (c : Core) : (s.setCore k c).net = s.net := rfl
@[simp] theorem State.setCore_yoke (s : State) (k : Nat) (c : Core) : (s.setCore k c).yoke = s.yoke := rfl
@[simp] theorem State.setCore_host (s : State) (k : Nat) (c : Core) : (s.setCore k c).host = s.host := rfl
@[simp] theorem State.setCore_link (s : State) (k : Nat) (c : Core) : (s.setCore k c).link = s.link := rfl
@[simp] theorem State.setCore_time (s : State) (k : Nat) (c : Core) : (s.setCore k c).time = s.time := rfl
@[simp] theorem State.setCore_pwr (s : State) (k : Nat) (c : Core) : (s.setCore k c).pwr = s.pwr := rfl
@[simp] theorem State.setCore_rel (s : State) (k : Nat) (c : Core) : (s.setCore k c).rel = s.rel := rfl
@[simp] theorem State.setCore_sec (s : State) (k : Nat) (c : Core) : (s.setCore k c).sec = s.sec := rfl
@[simp] theorem State.setCore_tst (s : State) (k : Nat) (c : Core) : (s.setCore k c).tst = s.tst := rfl
@[simp] theorem State.setCore_fresh (s : State) (k : Nat) (c : Core) : (s.setCore k c).fresh = s.fresh := rfl

@[simp] theorem State.setDie_pending (s : State) (d : Nat) (x : Die) : (s.setDie d x).pending = s.pending := rfl
@[simp] theorem State.setDie_mod (s : State) (d : Nat) (x : Die) : (s.setDie d x).mod = s.mod := rfl
@[simp] theorem State.setDie_nv (s : State) (d : Nat) (x : Die) : (s.setDie d x).nv = s.nv := rfl
@[simp] theorem State.setDie_start (s : State) (d : Nat) (x : Die) : (s.setDie d x).start = s.start := rfl
@[simp] theorem State.setDie_regs (s : State) (d : Nat) (x : Die) : (s.setDie d x).regs = s.regs := rfl
@[simp] theorem State.setDie_mem (s : State) (d : Nat) (x : Die) : (s.setDie d x).mem = s.mem := rfl
@[simp] theorem State.setDie_cores (s : State) (d : Nat) (x : Die) : (s.setDie d x).cores = s.cores := rfl
@[simp] theorem State.setDie_hlPorts (s : State) (d : Nat) (x : Die) : (s.setDie d x).hlPorts = s.hlPorts := rfl
@[simp] theorem State.setDie_hlSw (s : State) (d : Nat) (x : Die) : (s.setDie d x).hlSw = s.hlSw := rfl
@[simp] theorem State.setDie_net (s : State) (d : Nat) (x : Die) : (s.setDie d x).net = s.net := rfl
@[simp] theorem State.setDie_yoke (s : State) (d : Nat) (x : Die) : (s.setDie d x).yoke = s.yoke := rfl
@[simp] theorem State.setDie_host (s : State) (d : Nat) (x : Die) : (s.setDie d x).host = s.host := rfl
@[simp] theorem State.setDie_link (s : State) (d : Nat) (x : Die) : (s.setDie d x).link = s.link := rfl
@[simp] theorem State.setDie_time (s : State) (d : Nat) (x : Die) : (s.setDie d x).time = s.time := rfl
@[simp] theorem State.setDie_pwr (s : State) (d : Nat) (x : Die) : (s.setDie d x).pwr = s.pwr := rfl
@[simp] theorem State.setDie_rel (s : State) (d : Nat) (x : Die) : (s.setDie d x).rel = s.rel := rfl
@[simp] theorem State.setDie_sec (s : State) (d : Nat) (x : Die) : (s.setDie d x).sec = s.sec := rfl
@[simp] theorem State.setDie_tst (s : State) (d : Nat) (x : Die) : (s.setDie d x).tst = s.tst := rfl
@[simp] theorem State.setDie_fresh (s : State) (d : Nat) (x : Die) : (s.setDie d x).fresh = s.fresh := rfl

@[simp] theorem State.setComp_pending (s : State) (c : Nat) (x : Comp) : (s.setComp c x).pending = s.pending := rfl
@[simp] theorem State.setComp_mod (s : State) (c : Nat) (x : Comp) : (s.setComp c x).mod = s.mod := rfl
@[simp] theorem State.setComp_nv (s : State) (c : Nat) (x : Comp) : (s.setComp c x).nv = s.nv := rfl
@[simp] theorem State.setComp_start (s : State) (c : Nat) (x : Comp) : (s.setComp c x).start = s.start := rfl
@[simp] theorem State.setComp_regs (s : State) (c : Nat) (x : Comp) : (s.setComp c x).regs = s.regs := rfl
@[simp] theorem State.setComp_mem (s : State) (c : Nat) (x : Comp) : (s.setComp c x).mem = s.mem := rfl
@[simp] theorem State.setComp_cores (s : State) (c : Nat) (x : Comp) : (s.setComp c x).cores = s.cores := rfl
@[simp] theorem State.setComp_dies (s : State) (c : Nat) (x : Comp) : (s.setComp c x).dies = s.dies := rfl
@[simp] theorem State.setComp_hlPorts (s : State) (c : Nat) (x : Comp) : (s.setComp c x).hlPorts = s.hlPorts := rfl
@[simp] theorem State.setComp_hlSw (s : State) (c : Nat) (x : Comp) : (s.setComp c x).hlSw = s.hlSw := rfl
@[simp] theorem State.setComp_net (s : State) (c : Nat) (x : Comp) : (s.setComp c x).net = s.net := rfl
@[simp] theorem State.setComp_host (s : State) (c : Nat) (x : Comp) : (s.setComp c x).host = s.host := rfl
@[simp] theorem State.setComp_link (s : State) (c : Nat) (x : Comp) : (s.setComp c x).link = s.link := rfl
@[simp] theorem State.setComp_time (s : State) (c : Nat) (x : Comp) : (s.setComp c x).time = s.time := rfl
@[simp] theorem State.setComp_pwr (s : State) (c : Nat) (x : Comp) : (s.setComp c x).pwr = s.pwr := rfl
@[simp] theorem State.setComp_rel (s : State) (c : Nat) (x : Comp) : (s.setComp c x).rel = s.rel := rfl
@[simp] theorem State.setComp_sec (s : State) (c : Nat) (x : Comp) : (s.setComp c x).sec = s.sec := rfl
@[simp] theorem State.setComp_tst (s : State) (c : Nat) (x : Comp) : (s.setComp c x).tst = s.tst := rfl
@[simp] theorem State.setComp_fresh (s : State) (c : Nat) (x : Comp) : (s.setComp c x).fresh = s.fresh := rfl

@[simp] theorem State.dropComp_pending (s : State) (c : Nat) : (s.dropComp c).pending = s.pending := rfl
@[simp] theorem State.dropComp_mod (s : State) (c : Nat) : (s.dropComp c).mod = s.mod := rfl
@[simp] theorem State.dropComp_nv (s : State) (c : Nat) : (s.dropComp c).nv = s.nv := rfl
@[simp] theorem State.dropComp_start (s : State) (c : Nat) : (s.dropComp c).start = s.start := rfl
@[simp] theorem State.dropComp_regs (s : State) (c : Nat) : (s.dropComp c).regs = s.regs := rfl
@[simp] theorem State.dropComp_mem (s : State) (c : Nat) : (s.dropComp c).mem = s.mem := rfl
@[simp] theorem State.dropComp_cores (s : State) (c : Nat) : (s.dropComp c).cores = s.cores := rfl
@[simp] theorem State.dropComp_dies (s : State) (c : Nat) : (s.dropComp c).dies = s.dies := rfl
@[simp] theorem State.dropComp_hlPorts (s : State) (c : Nat) : (s.dropComp c).hlPorts = s.hlPorts := rfl
@[simp] theorem State.dropComp_hlSw (s : State) (c : Nat) : (s.dropComp c).hlSw = s.hlSw := rfl
@[simp] theorem State.dropComp_net (s : State) (c : Nat) : (s.dropComp c).net = s.net := rfl
@[simp] theorem State.dropComp_host (s : State) (c : Nat) : (s.dropComp c).host = s.host := rfl
@[simp] theorem State.dropComp_link (s : State) (c : Nat) : (s.dropComp c).link = s.link := rfl
@[simp] theorem State.dropComp_time (s : State) (c : Nat) : (s.dropComp c).time = s.time := rfl
@[simp] theorem State.dropComp_pwr (s : State) (c : Nat) : (s.dropComp c).pwr = s.pwr := rfl
@[simp] theorem State.dropComp_rel (s : State) (c : Nat) : (s.dropComp c).rel = s.rel := rfl
@[simp] theorem State.dropComp_sec (s : State) (c : Nat) : (s.dropComp c).sec = s.sec := rfl
@[simp] theorem State.dropComp_tst (s : State) (c : Nat) : (s.dropComp c).tst = s.tst := rfl
@[simp] theorem State.dropComp_fresh (s : State) (c : Nat) : (s.dropComp c).fresh = s.fresh := rfl

@[simp] theorem State.setFn_pending (s : State) (f : Nat) (x : Fn) : (s.setFn f x).pending = s.pending := rfl
@[simp] theorem State.setFn_mod (s : State) (f : Nat) (x : Fn) : (s.setFn f x).mod = s.mod := rfl
@[simp] theorem State.setFn_nv (s : State) (f : Nat) (x : Fn) : (s.setFn f x).nv = s.nv := rfl
@[simp] theorem State.setFn_start (s : State) (f : Nat) (x : Fn) : (s.setFn f x).start = s.start := rfl
@[simp] theorem State.setFn_regs (s : State) (f : Nat) (x : Fn) : (s.setFn f x).regs = s.regs := rfl
@[simp] theorem State.setFn_mem (s : State) (f : Nat) (x : Fn) : (s.setFn f x).mem = s.mem := rfl
@[simp] theorem State.setFn_cores (s : State) (f : Nat) (x : Fn) : (s.setFn f x).cores = s.cores := rfl
@[simp] theorem State.setFn_dies (s : State) (f : Nat) (x : Fn) : (s.setFn f x).dies = s.dies := rfl
@[simp] theorem State.setFn_hlPorts (s : State) (f : Nat) (x : Fn) : (s.setFn f x).hlPorts = s.hlPorts := rfl
@[simp] theorem State.setFn_hlSw (s : State) (f : Nat) (x : Fn) : (s.setFn f x).hlSw = s.hlSw := rfl
@[simp] theorem State.setFn_net (s : State) (f : Nat) (x : Fn) : (s.setFn f x).net = s.net := rfl
@[simp] theorem State.setFn_yoke (s : State) (f : Nat) (x : Fn) : (s.setFn f x).yoke = s.yoke := rfl
@[simp] theorem State.setFn_link (s : State) (f : Nat) (x : Fn) : (s.setFn f x).link = s.link := rfl
@[simp] theorem State.setFn_time (s : State) (f : Nat) (x : Fn) : (s.setFn f x).time = s.time := rfl
@[simp] theorem State.setFn_pwr (s : State) (f : Nat) (x : Fn) : (s.setFn f x).pwr = s.pwr := rfl
@[simp] theorem State.setFn_rel (s : State) (f : Nat) (x : Fn) : (s.setFn f x).rel = s.rel := rfl
@[simp] theorem State.setFn_sec (s : State) (f : Nat) (x : Fn) : (s.setFn f x).sec = s.sec := rfl
@[simp] theorem State.setFn_tst (s : State) (f : Nat) (x : Fn) : (s.setFn f x).tst = s.tst := rfl
@[simp] theorem State.setFn_fresh (s : State) (f : Nat) (x : Fn) : (s.setFn f x).fresh = s.fresh := rfl

@[simp] theorem State.out_pending (s : State) (o : Out) : (s.out o).pending = s.pending := rfl
@[simp] theorem State.out_mod (s : State) (o : Out) : (s.out o).mod = s.mod := rfl
@[simp] theorem State.out_nv (s : State) (o : Out) : (s.out o).nv = s.nv := rfl
@[simp] theorem State.out_start (s : State) (o : Out) : (s.out o).start = s.start := rfl
@[simp] theorem State.out_regs (s : State) (o : Out) : (s.out o).regs = s.regs := rfl
@[simp] theorem State.out_mem (s : State) (o : Out) : (s.out o).mem = s.mem := rfl
@[simp] theorem State.out_cores (s : State) (o : Out) : (s.out o).cores = s.cores := rfl
@[simp] theorem State.out_dies (s : State) (o : Out) : (s.out o).dies = s.dies := rfl
@[simp] theorem State.out_hlPorts (s : State) (o : Out) : (s.out o).hlPorts = s.hlPorts := rfl
@[simp] theorem State.out_hlSw (s : State) (o : Out) : (s.out o).hlSw = s.hlSw := rfl
@[simp] theorem State.out_net (s : State) (o : Out) : (s.out o).net = s.net := rfl
@[simp] theorem State.out_yoke (s : State) (o : Out) : (s.out o).yoke = s.yoke := rfl
@[simp] theorem State.out_link (s : State) (o : Out) : (s.out o).link = s.link := rfl
@[simp] theorem State.out_time (s : State) (o : Out) : (s.out o).time = s.time := rfl
@[simp] theorem State.out_pwr (s : State) (o : Out) : (s.out o).pwr = s.pwr := rfl
@[simp] theorem State.out_rel (s : State) (o : Out) : (s.out o).rel = s.rel := rfl
@[simp] theorem State.out_sec (s : State) (o : Out) : (s.out o).sec = s.sec := rfl
@[simp] theorem State.out_tst (s : State) (o : Out) : (s.out o).tst = s.tst := rfl
@[simp] theorem State.out_fresh (s : State) (o : Out) : (s.out o).fresh = s.fresh := rfl

@[simp] theorem State.setReg_pending (s : State) (r : Reg) (b i v : Nat) : (s.setReg r b i v).pending = s.pending := rfl
@[simp] theorem State.setReg_mod (s : State) (r : Reg) (b i v : Nat) : (s.setReg r b i v).mod = s.mod := rfl
@[simp] theorem State.setReg_nv (s : State) (r : Reg) (b i v : Nat) : (s.setReg r b i v).nv = s.nv := rfl
@[simp] theorem State.setReg_start (s : State) (r : Reg) (b i v : Nat) : (s.setReg r b i v).start = s.start := rfl
@[simp] theorem State.setReg_mem (s : State) (r : Reg) (b i v : Nat) : (s.setReg r b i v).mem = s.mem := rfl
@[simp] theorem State.setReg_cores (s : State) (r : Reg) (b i v : Nat) : (s.setReg r b i v).cores = s.cores := rfl
@[simp] theorem State.setReg_dies (s : State) (r : Reg) (b i v : Nat) : (s.setReg r b i v).dies = s.dies := rfl
@[simp] theorem State.setReg_hlPorts (s : State) (r : Reg) (b i v : Nat) : (s.setReg r b i v).hlPorts = s.hlPorts := rfl
@[simp] theorem State.setReg_hlSw (s : State) (r : Reg) (b i v : Nat) : (s.setReg r b i v).hlSw = s.hlSw := rfl
@[simp] theorem State.setReg_net (s : State) (r : Reg) (b i v : Nat) : (s.setReg r b i v).net = s.net := rfl
@[simp] theorem State.setReg_yoke (s : State) (r : Reg) (b i v : Nat) : (s.setReg r b i v).yoke = s.yoke := rfl
@[simp] theorem State.setReg_host (s : State) (r : Reg) (b i v : Nat) : (s.setReg r b i v).host = s.host := rfl
@[simp] theorem State.setReg_link (s : State) (r : Reg) (b i v : Nat) : (s.setReg r b i v).link = s.link := rfl
@[simp] theorem State.setReg_time (s : State) (r : Reg) (b i v : Nat) : (s.setReg r b i v).time = s.time := rfl
@[simp] theorem State.setReg_pwr (s : State) (r : Reg) (b i v : Nat) : (s.setReg r b i v).pwr = s.pwr := rfl
@[simp] theorem State.setReg_rel (s : State) (r : Reg) (b i v : Nat) : (s.setReg r b i v).rel = s.rel := rfl
@[simp] theorem State.setReg_sec (s : State) (r : Reg) (b i v : Nat) : (s.setReg r b i v).sec = s.sec := rfl
@[simp] theorem State.setReg_tst (s : State) (r : Reg) (b i v : Nat) : (s.setReg r b i v).tst = s.tst := rfl
@[simp] theorem State.setReg_fresh (s : State) (r : Reg) (b i v : Nat) : (s.setReg r b i v).fresh = s.fresh := rfl

@[simp] theorem State.modCore_pending (s : State) (k : Nat) (f : Core → Core) : (s.modCore k f).pending = s.pending := rfl
@[simp] theorem State.modCore_mod (s : State) (k : Nat) (f : Core → Core) : (s.modCore k f).mod = s.mod := rfl
@[simp] theorem State.modCore_nv (s : State) (k : Nat) (f : Core → Core) : (s.modCore k f).nv = s.nv := rfl
@[simp] theorem State.modCore_start (s : State) (k : Nat) (f : Core → Core) : (s.modCore k f).start = s.start := rfl
@[simp] theorem State.modCore_regs (s : State) (k : Nat) (f : Core → Core) : (s.modCore k f).regs = s.regs := rfl
@[simp] theorem State.modCore_mem (s : State) (k : Nat) (f : Core → Core) : (s.modCore k f).mem = s.mem := rfl
@[simp] theorem State.modCore_dies (s : State) (k : Nat) (f : Core → Core) : (s.modCore k f).dies = s.dies := rfl
@[simp] theorem State.modCore_hlPorts (s : State) (k : Nat) (f : Core → Core) : (s.modCore k f).hlPorts = s.hlPorts := rfl
@[simp] theorem State.modCore_hlSw (s : State) (k : Nat) (f : Core → Core) : (s.modCore k f).hlSw = s.hlSw := rfl
@[simp] theorem State.modCore_net (s : State) (k : Nat) (f : Core → Core) : (s.modCore k f).net = s.net := rfl
@[simp] theorem State.modCore_yoke (s : State) (k : Nat) (f : Core → Core) : (s.modCore k f).yoke = s.yoke := rfl
@[simp] theorem State.modCore_host (s : State) (k : Nat) (f : Core → Core) : (s.modCore k f).host = s.host := rfl
@[simp] theorem State.modCore_link (s : State) (k : Nat) (f : Core → Core) : (s.modCore k f).link = s.link := rfl
@[simp] theorem State.modCore_time (s : State) (k : Nat) (f : Core → Core) : (s.modCore k f).time = s.time := rfl
@[simp] theorem State.modCore_pwr (s : State) (k : Nat) (f : Core → Core) : (s.modCore k f).pwr = s.pwr := rfl
@[simp] theorem State.modCore_rel (s : State) (k : Nat) (f : Core → Core) : (s.modCore k f).rel = s.rel := rfl
@[simp] theorem State.modCore_sec (s : State) (k : Nat) (f : Core → Core) : (s.modCore k f).sec = s.sec := rfl
@[simp] theorem State.modCore_tst (s : State) (k : Nat) (f : Core → Core) : (s.modCore k f).tst = s.tst := rfl
@[simp] theorem State.modCore_fresh (s : State) (k : Nat) (f : Core → Core) : (s.modCore k f).fresh = s.fresh := rfl

@[simp] theorem State.modDie_pending (s : State) (d : Nat) (f : Die → Die) : (s.modDie d f).pending = s.pending := rfl
@[simp] theorem State.modDie_mod (s : State) (d : Nat) (f : Die → Die) : (s.modDie d f).mod = s.mod := rfl
@[simp] theorem State.modDie_nv (s : State) (d : Nat) (f : Die → Die) : (s.modDie d f).nv = s.nv := rfl
@[simp] theorem State.modDie_start (s : State) (d : Nat) (f : Die → Die) : (s.modDie d f).start = s.start := rfl
@[simp] theorem State.modDie_regs (s : State) (d : Nat) (f : Die → Die) : (s.modDie d f).regs = s.regs := rfl
@[simp] theorem State.modDie_mem (s : State) (d : Nat) (f : Die → Die) : (s.modDie d f).mem = s.mem := rfl
@[simp] theorem State.modDie_cores (s : State) (d : Nat) (f : Die → Die) : (s.modDie d f).cores = s.cores := rfl
@[simp] theorem State.modDie_hlPorts (s : State) (d : Nat) (f : Die → Die) : (s.modDie d f).hlPorts = s.hlPorts := rfl
@[simp] theorem State.modDie_hlSw (s : State) (d : Nat) (f : Die → Die) : (s.modDie d f).hlSw = s.hlSw := rfl
@[simp] theorem State.modDie_net (s : State) (d : Nat) (f : Die → Die) : (s.modDie d f).net = s.net := rfl
@[simp] theorem State.modDie_yoke (s : State) (d : Nat) (f : Die → Die) : (s.modDie d f).yoke = s.yoke := rfl
@[simp] theorem State.modDie_host (s : State) (d : Nat) (f : Die → Die) : (s.modDie d f).host = s.host := rfl
@[simp] theorem State.modDie_link (s : State) (d : Nat) (f : Die → Die) : (s.modDie d f).link = s.link := rfl
@[simp] theorem State.modDie_time (s : State) (d : Nat) (f : Die → Die) : (s.modDie d f).time = s.time := rfl
@[simp] theorem State.modDie_pwr (s : State) (d : Nat) (f : Die → Die) : (s.modDie d f).pwr = s.pwr := rfl
@[simp] theorem State.modDie_rel (s : State) (d : Nat) (f : Die → Die) : (s.modDie d f).rel = s.rel := rfl
@[simp] theorem State.modDie_sec (s : State) (d : Nat) (f : Die → Die) : (s.modDie d f).sec = s.sec := rfl
@[simp] theorem State.modDie_tst (s : State) (d : Nat) (f : Die → Die) : (s.modDie d f).tst = s.tst := rfl
@[simp] theorem State.modDie_fresh (s : State) (d : Nat) (f : Die → Die) : (s.modDie d f).fresh = s.fresh := rfl

@[simp] theorem State.modFn_pending (s : State) (f : Nat) (g : Fn → Fn) : (s.modFn f g).pending = s.pending := rfl
@[simp] theorem State.modFn_mod (s : State) (f : Nat) (g : Fn → Fn) : (s.modFn f g).mod = s.mod := rfl
@[simp] theorem State.modFn_nv (s : State) (f : Nat) (g : Fn → Fn) : (s.modFn f g).nv = s.nv := rfl
@[simp] theorem State.modFn_start (s : State) (f : Nat) (g : Fn → Fn) : (s.modFn f g).start = s.start := rfl
@[simp] theorem State.modFn_regs (s : State) (f : Nat) (g : Fn → Fn) : (s.modFn f g).regs = s.regs := rfl
@[simp] theorem State.modFn_mem (s : State) (f : Nat) (g : Fn → Fn) : (s.modFn f g).mem = s.mem := rfl
@[simp] theorem State.modFn_cores (s : State) (f : Nat) (g : Fn → Fn) : (s.modFn f g).cores = s.cores := rfl
@[simp] theorem State.modFn_dies (s : State) (f : Nat) (g : Fn → Fn) : (s.modFn f g).dies = s.dies := rfl
@[simp] theorem State.modFn_hlPorts (s : State) (f : Nat) (g : Fn → Fn) : (s.modFn f g).hlPorts = s.hlPorts := rfl
@[simp] theorem State.modFn_hlSw (s : State) (f : Nat) (g : Fn → Fn) : (s.modFn f g).hlSw = s.hlSw := rfl
@[simp] theorem State.modFn_net (s : State) (f : Nat) (g : Fn → Fn) : (s.modFn f g).net = s.net := rfl
@[simp] theorem State.modFn_yoke (s : State) (f : Nat) (g : Fn → Fn) : (s.modFn f g).yoke = s.yoke := rfl
@[simp] theorem State.modFn_link (s : State) (f : Nat) (g : Fn → Fn) : (s.modFn f g).link = s.link := rfl
@[simp] theorem State.modFn_time (s : State) (f : Nat) (g : Fn → Fn) : (s.modFn f g).time = s.time := rfl
@[simp] theorem State.modFn_pwr (s : State) (f : Nat) (g : Fn → Fn) : (s.modFn f g).pwr = s.pwr := rfl
@[simp] theorem State.modFn_rel (s : State) (f : Nat) (g : Fn → Fn) : (s.modFn f g).rel = s.rel := rfl
@[simp] theorem State.modFn_sec (s : State) (f : Nat) (g : Fn → Fn) : (s.modFn f g).sec = s.sec := rfl
@[simp] theorem State.modFn_tst (s : State) (f : Nat) (g : Fn → Fn) : (s.modFn f g).tst = s.tst := rfl
@[simp] theorem State.modFn_fresh (s : State) (f : Nat) (g : Fn → Fn) : (s.modFn f g).fresh = s.fresh := rfl

@[simp] theorem State.count_pending (s : State) (r : Reg) (b i n : Nat) : (s.count r b i n).pending = s.pending := rfl
@[simp] theorem State.count_mod (s : State) (r : Reg) (b i n : Nat) : (s.count r b i n).mod = s.mod := rfl
@[simp] theorem State.count_nv (s : State) (r : Reg) (b i n : Nat) : (s.count r b i n).nv = s.nv := rfl
@[simp] theorem State.count_start (s : State) (r : Reg) (b i n : Nat) : (s.count r b i n).start = s.start := rfl
@[simp] theorem State.count_mem (s : State) (r : Reg) (b i n : Nat) : (s.count r b i n).mem = s.mem := rfl
@[simp] theorem State.count_cores (s : State) (r : Reg) (b i n : Nat) : (s.count r b i n).cores = s.cores := rfl
@[simp] theorem State.count_dies (s : State) (r : Reg) (b i n : Nat) : (s.count r b i n).dies = s.dies := rfl
@[simp] theorem State.count_hlPorts (s : State) (r : Reg) (b i n : Nat) : (s.count r b i n).hlPorts = s.hlPorts := rfl
@[simp] theorem State.count_hlSw (s : State) (r : Reg) (b i n : Nat) : (s.count r b i n).hlSw = s.hlSw := rfl
@[simp] theorem State.count_net (s : State) (r : Reg) (b i n : Nat) : (s.count r b i n).net = s.net := rfl
@[simp] theorem State.count_yoke (s : State) (r : Reg) (b i n : Nat) : (s.count r b i n).yoke = s.yoke := rfl
@[simp] theorem State.count_host (s : State) (r : Reg) (b i n : Nat) : (s.count r b i n).host = s.host := rfl
@[simp] theorem State.count_link (s : State) (r : Reg) (b i n : Nat) : (s.count r b i n).link = s.link := rfl
@[simp] theorem State.count_time (s : State) (r : Reg) (b i n : Nat) : (s.count r b i n).time = s.time := rfl
@[simp] theorem State.count_pwr (s : State) (r : Reg) (b i n : Nat) : (s.count r b i n).pwr = s.pwr := rfl
@[simp] theorem State.count_rel (s : State) (r : Reg) (b i n : Nat) : (s.count r b i n).rel = s.rel := rfl
@[simp] theorem State.count_sec (s : State) (r : Reg) (b i n : Nat) : (s.count r b i n).sec = s.sec := rfl
@[simp] theorem State.count_tst (s : State) (r : Reg) (b i n : Nat) : (s.count r b i n).tst = s.tst := rfl
@[simp] theorem State.count_fresh (s : State) (r : Reg) (b i n : Nat) : (s.count r b i n).fresh = s.fresh := rfl

@[simp] theorem State.setDrill_pending (s : State) (d : DrillRef) (x : Drill) : (s.setDrill d x).pending = s.pending := rfl
@[simp] theorem State.setDrill_mod (s : State) (d : DrillRef) (x : Drill) : (s.setDrill d x).mod = s.mod := rfl
@[simp] theorem State.setDrill_nv (s : State) (d : DrillRef) (x : Drill) : (s.setDrill d x).nv = s.nv := rfl
@[simp] theorem State.setDrill_start (s : State) (d : DrillRef) (x : Drill) : (s.setDrill d x).start = s.start := rfl
@[simp] theorem State.setDrill_regs (s : State) (d : DrillRef) (x : Drill) : (s.setDrill d x).regs = s.regs := rfl
@[simp] theorem State.setDrill_mem (s : State) (d : DrillRef) (x : Drill) : (s.setDrill d x).mem = s.mem := rfl
@[simp] theorem State.setDrill_dies (s : State) (d : DrillRef) (x : Drill) : (s.setDrill d x).dies = s.dies := rfl
@[simp] theorem State.setDrill_hlPorts (s : State) (d : DrillRef) (x : Drill) : (s.setDrill d x).hlPorts = s.hlPorts := rfl
@[simp] theorem State.setDrill_hlSw (s : State) (d : DrillRef) (x : Drill) : (s.setDrill d x).hlSw = s.hlSw := rfl
@[simp] theorem State.setDrill_net (s : State) (d : DrillRef) (x : Drill) : (s.setDrill d x).net = s.net := rfl
@[simp] theorem State.setDrill_yoke (s : State) (d : DrillRef) (x : Drill) : (s.setDrill d x).yoke = s.yoke := rfl
@[simp] theorem State.setDrill_host (s : State) (d : DrillRef) (x : Drill) : (s.setDrill d x).host = s.host := rfl
@[simp] theorem State.setDrill_link (s : State) (d : DrillRef) (x : Drill) : (s.setDrill d x).link = s.link := rfl
@[simp] theorem State.setDrill_time (s : State) (d : DrillRef) (x : Drill) : (s.setDrill d x).time = s.time := rfl
@[simp] theorem State.setDrill_pwr (s : State) (d : DrillRef) (x : Drill) : (s.setDrill d x).pwr = s.pwr := rfl
@[simp] theorem State.setDrill_rel (s : State) (d : DrillRef) (x : Drill) : (s.setDrill d x).rel = s.rel := rfl
@[simp] theorem State.setDrill_sec (s : State) (d : DrillRef) (x : Drill) : (s.setDrill d x).sec = s.sec := rfl
@[simp] theorem State.setDrill_tst (s : State) (d : DrillRef) (x : Drill) : (s.setDrill d x).tst = s.tst := rfl
@[simp] theorem State.setDrill_fresh (s : State) (d : DrillRef) (x : Drill) : (s.setDrill d x).fresh = s.fresh := rfl

@[simp] theorem State.freeDrill_pending (s : State) (d : DrillRef) : (s.freeDrill d).pending = s.pending := rfl
@[simp] theorem State.freeDrill_mod (s : State) (d : DrillRef) : (s.freeDrill d).mod = s.mod := rfl
@[simp] theorem State.freeDrill_nv (s : State) (d : DrillRef) : (s.freeDrill d).nv = s.nv := rfl
@[simp] theorem State.freeDrill_start (s : State) (d : DrillRef) : (s.freeDrill d).start = s.start := rfl
@[simp] theorem State.freeDrill_regs (s : State) (d : DrillRef) : (s.freeDrill d).regs = s.regs := rfl
@[simp] theorem State.freeDrill_mem (s : State) (d : DrillRef) : (s.freeDrill d).mem = s.mem := rfl
@[simp] theorem State.freeDrill_dies (s : State) (d : DrillRef) : (s.freeDrill d).dies = s.dies := rfl
@[simp] theorem State.freeDrill_hlPorts (s : State) (d : DrillRef) : (s.freeDrill d).hlPorts = s.hlPorts := rfl
@[simp] theorem State.freeDrill_hlSw (s : State) (d : DrillRef) : (s.freeDrill d).hlSw = s.hlSw := rfl
@[simp] theorem State.freeDrill_net (s : State) (d : DrillRef) : (s.freeDrill d).net = s.net := rfl
@[simp] theorem State.freeDrill_yoke (s : State) (d : DrillRef) : (s.freeDrill d).yoke = s.yoke := rfl
@[simp] theorem State.freeDrill_host (s : State) (d : DrillRef) : (s.freeDrill d).host = s.host := rfl
@[simp] theorem State.freeDrill_link (s : State) (d : DrillRef) : (s.freeDrill d).link = s.link := rfl
@[simp] theorem State.freeDrill_time (s : State) (d : DrillRef) : (s.freeDrill d).time = s.time := rfl
@[simp] theorem State.freeDrill_pwr (s : State) (d : DrillRef) : (s.freeDrill d).pwr = s.pwr := rfl
@[simp] theorem State.freeDrill_rel (s : State) (d : DrillRef) : (s.freeDrill d).rel = s.rel := rfl
@[simp] theorem State.freeDrill_sec (s : State) (d : DrillRef) : (s.freeDrill d).sec = s.sec := rfl
@[simp] theorem State.freeDrill_tst (s : State) (d : DrillRef) : (s.freeDrill d).tst = s.tst := rfl
@[simp] theorem State.freeDrill_fresh (s : State) (d : DrillRef) : (s.freeDrill d).fresh = s.fresh := rfl

@[simp] theorem State.meterKey_pending (s : State) (k i n : Nat) : (s.meterKey k i n).pending = s.pending := rfl
@[simp] theorem State.meterKey_mod (s : State) (k i n : Nat) : (s.meterKey k i n).mod = s.mod := rfl
@[simp] theorem State.meterKey_nv (s : State) (k i n : Nat) : (s.meterKey k i n).nv = s.nv := rfl
@[simp] theorem State.meterKey_start (s : State) (k i n : Nat) : (s.meterKey k i n).start = s.start := rfl
@[simp] theorem State.meterKey_regs (s : State) (k i n : Nat) : (s.meterKey k i n).regs = s.regs := rfl
@[simp] theorem State.meterKey_mem (s : State) (k i n : Nat) : (s.meterKey k i n).mem = s.mem := rfl
@[simp] theorem State.meterKey_dies (s : State) (k i n : Nat) : (s.meterKey k i n).dies = s.dies := rfl
@[simp] theorem State.meterKey_hlPorts (s : State) (k i n : Nat) : (s.meterKey k i n).hlPorts = s.hlPorts := rfl
@[simp] theorem State.meterKey_hlSw (s : State) (k i n : Nat) : (s.meterKey k i n).hlSw = s.hlSw := rfl
@[simp] theorem State.meterKey_net (s : State) (k i n : Nat) : (s.meterKey k i n).net = s.net := rfl
@[simp] theorem State.meterKey_yoke (s : State) (k i n : Nat) : (s.meterKey k i n).yoke = s.yoke := rfl
@[simp] theorem State.meterKey_host (s : State) (k i n : Nat) : (s.meterKey k i n).host = s.host := rfl
@[simp] theorem State.meterKey_link (s : State) (k i n : Nat) : (s.meterKey k i n).link = s.link := rfl
@[simp] theorem State.meterKey_time (s : State) (k i n : Nat) : (s.meterKey k i n).time = s.time := rfl
@[simp] theorem State.meterKey_pwr (s : State) (k i n : Nat) : (s.meterKey k i n).pwr = s.pwr := rfl
@[simp] theorem State.meterKey_rel (s : State) (k i n : Nat) : (s.meterKey k i n).rel = s.rel := rfl
@[simp] theorem State.meterKey_sec (s : State) (k i n : Nat) : (s.meterKey k i n).sec = s.sec := rfl
@[simp] theorem State.meterKey_tst (s : State) (k i n : Nat) : (s.meterKey k i n).tst = s.tst := rfl
@[simp] theorem State.meterKey_fresh (s : State) (k i n : Nat) : (s.meterKey k i n).fresh = s.fresh := rfl

@[simp] theorem State.modComp_pending (s : State) (c : Nat) (f : Comp → Comp) : (s.modComp c f).pending = s.pending := by
  unfold State.modComp; split <;> rfl
@[simp] theorem State.modComp_mod (s : State) (c : Nat) (f : Comp → Comp) : (s.modComp c f).mod = s.mod := by
  unfold State.modComp; split <;> rfl
@[simp] theorem State.modComp_nv (s : State) (c : Nat) (f : Comp → Comp) : (s.modComp c f).nv = s.nv := by
  unfold State.modComp; split <;> rfl
@[simp] theorem State.modComp_start (s : State) (c : Nat) (f : Comp → Comp) : (s.modComp c f).start = s.start := by
  unfold State.modComp; split <;> rfl
@[simp] theorem State.modComp_regs (s : State) (c : Nat) (f : Comp → Comp) : (s.modComp c f).regs = s.regs := by
  unfold State.modComp; split <;> rfl
@[simp] theorem State.modComp_mem (s : State) (c : Nat) (f : Comp → Comp) : (s.modComp c f).mem = s.mem := by
  unfold State.modComp; split <;> rfl
@[simp] theorem State.modComp_cores (s : State) (c : Nat) (f : Comp → Comp) : (s.modComp c f).cores = s.cores := by
  unfold State.modComp; split <;> rfl
@[simp] theorem State.modComp_dies (s : State) (c : Nat) (f : Comp → Comp) : (s.modComp c f).dies = s.dies := by
  unfold State.modComp; split <;> rfl
@[simp] theorem State.modComp_hlPorts (s : State) (c : Nat) (f : Comp → Comp) : (s.modComp c f).hlPorts = s.hlPorts := by
  unfold State.modComp; split <;> rfl
@[simp] theorem State.modComp_hlSw (s : State) (c : Nat) (f : Comp → Comp) : (s.modComp c f).hlSw = s.hlSw := by
  unfold State.modComp; split <;> rfl
@[simp] theorem State.modComp_net (s : State) (c : Nat) (f : Comp → Comp) : (s.modComp c f).net = s.net := by
  unfold State.modComp; split <;> rfl
@[simp] theorem State.modComp_host (s : State) (c : Nat) (f : Comp → Comp) : (s.modComp c f).host = s.host := by
  unfold State.modComp; split <;> rfl
@[simp] theorem State.modComp_link (s : State) (c : Nat) (f : Comp → Comp) : (s.modComp c f).link = s.link := by
  unfold State.modComp; split <;> rfl
@[simp] theorem State.modComp_time (s : State) (c : Nat) (f : Comp → Comp) : (s.modComp c f).time = s.time := by
  unfold State.modComp; split <;> rfl
@[simp] theorem State.modComp_pwr (s : State) (c : Nat) (f : Comp → Comp) : (s.modComp c f).pwr = s.pwr := by
  unfold State.modComp; split <;> rfl
@[simp] theorem State.modComp_rel (s : State) (c : Nat) (f : Comp → Comp) : (s.modComp c f).rel = s.rel := by
  unfold State.modComp; split <;> rfl
@[simp] theorem State.modComp_sec (s : State) (c : Nat) (f : Comp → Comp) : (s.modComp c f).sec = s.sec := by
  unfold State.modComp; split <;> rfl
@[simp] theorem State.modComp_tst (s : State) (c : Nat) (f : Comp → Comp) : (s.modComp c f).tst = s.tst := by
  unfold State.modComp; split <;> rfl
@[simp] theorem State.modComp_fresh (s : State) (c : Nat) (f : Comp → Comp) : (s.modComp c f).fresh = s.fresh := by
  unfold State.modComp; split <;> rfl

@[simp] theorem State.modDrill_pending (s : State) (d : DrillRef) (f : Drill → Drill) : (s.modDrill d f).pending = s.pending := by
  unfold State.modDrill; split <;> rfl
@[simp] theorem State.modDrill_mod (s : State) (d : DrillRef) (f : Drill → Drill) : (s.modDrill d f).mod = s.mod := by
  unfold State.modDrill; split <;> rfl
@[simp] theorem State.modDrill_nv (s : State) (d : DrillRef) (f : Drill → Drill) : (s.modDrill d f).nv = s.nv := by
  unfold State.modDrill; split <;> rfl
@[simp] theorem State.modDrill_start (s : State) (d : DrillRef) (f : Drill → Drill) : (s.modDrill d f).start = s.start := by
  unfold State.modDrill; split <;> rfl
@[simp] theorem State.modDrill_regs (s : State) (d : DrillRef) (f : Drill → Drill) : (s.modDrill d f).regs = s.regs := by
  unfold State.modDrill; split <;> rfl
@[simp] theorem State.modDrill_mem (s : State) (d : DrillRef) (f : Drill → Drill) : (s.modDrill d f).mem = s.mem := by
  unfold State.modDrill; split <;> rfl
@[simp] theorem State.modDrill_dies (s : State) (d : DrillRef) (f : Drill → Drill) : (s.modDrill d f).dies = s.dies := by
  unfold State.modDrill; split <;> rfl
@[simp] theorem State.modDrill_hlPorts (s : State) (d : DrillRef) (f : Drill → Drill) : (s.modDrill d f).hlPorts = s.hlPorts := by
  unfold State.modDrill; split <;> rfl
@[simp] theorem State.modDrill_hlSw (s : State) (d : DrillRef) (f : Drill → Drill) : (s.modDrill d f).hlSw = s.hlSw := by
  unfold State.modDrill; split <;> rfl
@[simp] theorem State.modDrill_net (s : State) (d : DrillRef) (f : Drill → Drill) : (s.modDrill d f).net = s.net := by
  unfold State.modDrill; split <;> rfl
@[simp] theorem State.modDrill_yoke (s : State) (d : DrillRef) (f : Drill → Drill) : (s.modDrill d f).yoke = s.yoke := by
  unfold State.modDrill; split <;> rfl
@[simp] theorem State.modDrill_host (s : State) (d : DrillRef) (f : Drill → Drill) : (s.modDrill d f).host = s.host := by
  unfold State.modDrill; split <;> rfl
@[simp] theorem State.modDrill_link (s : State) (d : DrillRef) (f : Drill → Drill) : (s.modDrill d f).link = s.link := by
  unfold State.modDrill; split <;> rfl
@[simp] theorem State.modDrill_time (s : State) (d : DrillRef) (f : Drill → Drill) : (s.modDrill d f).time = s.time := by
  unfold State.modDrill; split <;> rfl
@[simp] theorem State.modDrill_pwr (s : State) (d : DrillRef) (f : Drill → Drill) : (s.modDrill d f).pwr = s.pwr := by
  unfold State.modDrill; split <;> rfl
@[simp] theorem State.modDrill_rel (s : State) (d : DrillRef) (f : Drill → Drill) : (s.modDrill d f).rel = s.rel := by
  unfold State.modDrill; split <;> rfl
@[simp] theorem State.modDrill_sec (s : State) (d : DrillRef) (f : Drill → Drill) : (s.modDrill d f).sec = s.sec := by
  unfold State.modDrill; split <;> rfl
@[simp] theorem State.modDrill_tst (s : State) (d : DrillRef) (f : Drill → Drill) : (s.modDrill d f).tst = s.tst := by
  unfold State.modDrill; split <;> rfl
@[simp] theorem State.modDrill_fresh (s : State) (d : DrillRef) (f : Drill → Drill) : (s.modDrill d f).fresh = s.fresh := by
  unfold State.modDrill; split <;> rfl

@[simp] theorem State.meter_pending (s : State) (k i n : Nat) : (s.meter k i n).pending = s.pending := by
  unfold State.meter; split <;> rfl
@[simp] theorem State.meter_mod (s : State) (k i n : Nat) : (s.meter k i n).mod = s.mod := by
  unfold State.meter; split <;> rfl
@[simp] theorem State.meter_nv (s : State) (k i n : Nat) : (s.meter k i n).nv = s.nv := by
  unfold State.meter; split <;> rfl
@[simp] theorem State.meter_start (s : State) (k i n : Nat) : (s.meter k i n).start = s.start := by
  unfold State.meter; split <;> rfl
@[simp] theorem State.meter_regs (s : State) (k i n : Nat) : (s.meter k i n).regs = s.regs := by
  unfold State.meter; split <;> rfl
@[simp] theorem State.meter_mem (s : State) (k i n : Nat) : (s.meter k i n).mem = s.mem := by
  unfold State.meter; split <;> rfl
@[simp] theorem State.meter_dies (s : State) (k i n : Nat) : (s.meter k i n).dies = s.dies := by
  unfold State.meter; split <;> rfl
@[simp] theorem State.meter_hlPorts (s : State) (k i n : Nat) : (s.meter k i n).hlPorts = s.hlPorts := by
  unfold State.meter; split <;> rfl
@[simp] theorem State.meter_hlSw (s : State) (k i n : Nat) : (s.meter k i n).hlSw = s.hlSw := by
  unfold State.meter; split <;> rfl
@[simp] theorem State.meter_net (s : State) (k i n : Nat) : (s.meter k i n).net = s.net := by
  unfold State.meter; split <;> rfl
@[simp] theorem State.meter_yoke (s : State) (k i n : Nat) : (s.meter k i n).yoke = s.yoke := by
  unfold State.meter; split <;> rfl
@[simp] theorem State.meter_host (s : State) (k i n : Nat) : (s.meter k i n).host = s.host := by
  unfold State.meter; split <;> rfl
@[simp] theorem State.meter_link (s : State) (k i n : Nat) : (s.meter k i n).link = s.link := by
  unfold State.meter; split <;> rfl
@[simp] theorem State.meter_time (s : State) (k i n : Nat) : (s.meter k i n).time = s.time := by
  unfold State.meter; split <;> rfl
@[simp] theorem State.meter_pwr (s : State) (k i n : Nat) : (s.meter k i n).pwr = s.pwr := by
  unfold State.meter; split <;> rfl
@[simp] theorem State.meter_rel (s : State) (k i n : Nat) : (s.meter k i n).rel = s.rel := by
  unfold State.meter; split <;> rfl
@[simp] theorem State.meter_sec (s : State) (k i n : Nat) : (s.meter k i n).sec = s.sec := by
  unfold State.meter; split <;> rfl
@[simp] theorem State.meter_tst (s : State) (k i n : Nat) : (s.meter k i n).tst = s.tst := by
  unfold State.meter; split <;> rfl
@[simp] theorem State.meter_fresh (s : State) (k i n : Nat) : (s.meter k i n).fresh = s.fresh := by
  unfold State.meter; split <;> rfl

/-! ## A part after writing it -/

@[simp] theorem State.core_setCore (s : State) (k : Nat) (c : Core) : (s.setCore k c).core k = c := getD_setD_same ..
theorem State.core_setCore_other (s : State) {k j : Nat} (c : Core) (h : j ≠ k) : (s.setCore k c).core j = s.core j := getD_setD_other _ _ _ h
@[simp] theorem State.core_modCore (s : State) (k : Nat) (f : Core → Core) : (s.modCore k f).core k = f (s.core k) := getD_setD_same ..
theorem State.core_modCore_other (s : State) {k j : Nat} (f : Core → Core) (h : j ≠ k) : (s.modCore k f).core j = s.core j :=
  getD_setD_other _ _ _ h
@[simp] theorem State.die_setDie (s : State) (d : Nat) (x : Die) : (s.setDie d x).die d = x := getD_setD_same ..
theorem State.die_setDie_other (s : State) {d e : Nat} (x : Die) (h : e ≠ d) : (s.setDie d x).die e = s.die e := getD_setD_other _ _ _ h
@[simp] theorem State.die_modDie (s : State) (d : Nat) (f : Die → Die) : (s.modDie d f).die d = f (s.die d) := getD_setD_same ..
theorem State.die_modDie_other (s : State) {d e : Nat} (f : Die → Die) (h : e ≠ d) : (s.modDie d f).die e = s.die e := getD_setD_other _ _ _ h
@[simp] theorem State.fn_setFn (s : State) (f : Nat) (x : Fn) : (s.setFn f x).fn f = x := getD_setD_same ..
theorem State.fn_setFn_other (s : State) {f g : Nat} (x : Fn) (h : g ≠ f) : (s.setFn f x).fn g = s.fn g := getD_setD_other _ _ _ h
@[simp] theorem State.fn_modFn (s : State) (f : Nat) (g : Fn → Fn) : (s.modFn f g).fn f = g (s.fn f) := getD_setD_same ..
theorem State.fn_modFn_other (s : State) {f e : Nat} (g : Fn → Fn) (h : e ≠ f) : (s.modFn f g).fn e = s.fn e := getD_setD_other _ _ _ h
@[simp] theorem State.comp?_setComp (s : State) (c : Nat) (x : Comp) : (s.setComp c x).comp? c = some x := find?_insert_same ..
theorem State.comp?_setComp_other (s : State) {c e : Nat} (x : Comp) (h : e ≠ c) : (s.setComp c x).comp? e = s.comp? e :=
  find?_insert_other _ _ h
@[simp] theorem State.comp?_dropComp (s : State) (c : Nat) : (s.dropComp c).comp? c = none := find?_erase_same ..
theorem State.comp?_dropComp_other (s : State) {c e : Nat} (h : e ≠ c) : (s.dropComp c).comp? e = s.comp? e := find?_erase_other _ h

/-- Parts kept by an update of other fields. -/
theorem State.core_congr {s t : State} (h : t.cores = s.cores) (k : Nat) : t.core k = s.core k := by simp [State.core, h]
theorem State.die_congr {s t : State} (h : t.dies = s.dies) (d : Nat) : t.die d = s.die d := by simp [State.die, h]
theorem State.fn_congr {s t : State} (h : t.host = s.host) (f : Nat) : t.fn f = s.fn f := by simp [State.fn, h]
theorem State.comp?_congr {s t : State} (h : t.yoke = s.yoke) (c : Nat) : t.comp? c = s.comp? c := by simp [State.comp?, h]

/-! ## Registers of BAR0 -/

theorem RegFile.get_set (f : RegFile) (k j : Nat) (v : DWord) : (f.set k v).get j = if j = k then v else f.get j := by
  unfold RegFile.get RegFile.set
  by_cases h : j = k
  · subst h
    by_cases hv : v = resetAt j
    · simp [hv, find?_erase_same]
    · simp [hv, find?_insert_same]
  · by_cases hv : v = resetAt k
    · simp [hv, find?_erase_other, h]
    · simp [hv, find?_insert_other, h]

/-! ## Drills -/

theorem State.drill?_setDrill (s : State) (d e : DrillRef) (x : Drill) :
    (s.setDrill d x).drill? e = if e.slice = d.slice ∧ slotKey e = slotKey d then some x else s.drill? e := by
  unfold State.drill? State.setDrill
  by_cases h : e.slice = d.slice
  · rw [h, State.core_modCore]
    by_cases h2 : slotKey e = slotKey d
    · simp [h2, find?_insert_same]
    · simp [h2, find?_insert_other]
  · rw [State.core_modCore_other _ _ h]; simp [h]

@[simp] theorem Drill.greg_setG_same (x : Drill) (t r : Nat) (v : Word) : (x.setG t r v).greg t r = v := getD_setD_same ..
theorem Drill.greg_setG (x : Drill) (t r t' r' : Nat) (v : Word) (h : r < 64) (h' : r' < 64) :
    (x.setG t r v).greg t' r' = if t' = t ∧ r' = r then v else x.greg t' r' := by
  unfold Drill.greg Drill.setG
  rw [getD_setD]
  congr 1
  simp only [eq_iff_iff]
  omega
@[simp] theorem Drill.greg_setU (x : Drill) (t r r' : Nat) (v : Word) : (x.setU r v).greg t r' = x.greg t r' := rfl
@[simp] theorem Drill.greg_setP (x : Drill) (t r r' : Nat) (m v : DWord) : (x.setP r' m v).greg t r = x.greg t r := rfl
theorem Drill.ureg_setU (x : Drill) (r r' : Nat) (v : Word) : (x.setU r v).ureg r' = if r' = r then v else x.ureg r' := getD_setD ..
@[simp] theorem Drill.ureg_setG (x : Drill) (t r r' : Nat) (v : Word) : (x.setG t r v).ureg r' = x.ureg r' := rfl
@[simp] theorem Drill.ureg_setP (x : Drill) (r r' : Nat) (m v : DWord) : (x.setP r' m v).ureg r = x.ureg r := rfl
theorem Drill.preg_setP (x : Drill) (r r' : Nat) (m v : DWord) :
    (x.setP r m v).preg r' = if r' = r then (x.preg r &&& ~~~ m) ||| (v &&& m) else x.preg r' := getD_setD ..
@[simp] theorem Drill.preg_setG (x : Drill) (t r r' : Nat) (v : Word) : (x.setG t r v).preg r' = x.preg r' := rfl
@[simp] theorem Drill.preg_setU (x : Drill) (r r' : Nat) (v : Word) : (x.setU r v).preg r' = x.preg r' := rfl

end Sys2Proof.Machine
end

