-- ==== Sys2Proof/Laws/Drill.lean ====
section
/-! SUPPORT. Laws of drills: what path selection leaves alone, what issuing an instruction does, what writing its results changes. -/

namespace Sys2Proof.Machine

open Sys2Proof Sys2Proof.Claim

/-! ## Path selection touches only paths, budget, window and stamp -/

/-- Everything of the drill but its paths and their bookkeeping is as in `x`. -/
def Drill.SameRegs (x y : Drill) : Prop :=
  y = { x with cur := y.cur, paths := y.paths, budget := y.budget, window := y.window, stamp := y.stamp }

theorem Drill.SameRegs.refl (x : Drill) : x.SameRegs x := rfl
theorem Drill.SameRegs.refl' {x : Drill} (y : Drill) (h : y = { x with cur := y.cur, paths := y.paths, budget := y.budget, window := y.window, stamp := y.stamp }) :
    x.SameRegs y := h
theorem Drill.SameRegs.trans {x y z : Drill} (h : x.SameRegs y) (h' : y.SameRegs z) : x.SameRegs z := by
  unfold Drill.SameRegs at *; rw [h', h]

theorem Drill.shelve_same (x : Drill) : x.SameRegs x.shelve := by unfold Drill.shelve; split <;> rfl
theorem Drill.run_same (x : Drill) (q : Path) (w : Option Nat) : x.SameRegs (x.run q w) :=
  x.shelve_same.trans rfl
theorem Drill.runLowest_same (x : Drill) : x.SameRegs x.runLowest := by
  unfold Drill.runLowest; dsimp only; split
  · exact x.shelve_same.trans (Drill.run_same _ _ _)
  · exact x.shelve_same
theorem Drill.rotate_same (x : Drill) : x.SameRegs x.rotate := by
  unfold Drill.rotate; split <;> split <;> first | exact Drill.run_same _ _ _ | rfl
theorem Drill.arrive_same (x : Drill) : x.SameRegs x.arrive := by
  unfold Drill.arrive; split
  · rfl
  · split <;> rfl
theorem Drill.wake_same (x : Drill) : x.SameRegs x.wake := by
  unfold Drill.wake; split
  · exact x.arrive_same
  · exact x.runLowest_same
theorem Drill.retire_same (x : Drill) : x.SameRegs x.retire := by
  unfold Drill.retire; split
  · rfl
  · exact Drill.SameRegs.trans (Drill.SameRegs.refl' _ (by rfl)) (Drill.arrive_same _)
theorem Drill.waitAt_same (x : Drill) (m : DWord) (pc : BitVec 48) (w : Wait) : x.SameRegs (x.waitAt m pc w) := by
  unfold Drill.waitAt; split
  · rfl
  · dsimp only; split <;> rfl
theorem Drill.release_same (x : Drill) (p : Wait → Bool) : x.SameRegs (x.release p) := by
  unfold Drill.release; split
  · exact Drill.SameRegs.trans (Drill.SameRegs.refl' _ (by rfl)) (Drill.wake_same _)
  · rfl

/-- The running path goes on at the next word; budget and stamp stay. -/
theorem Drill.retire_goes (x : Drill) (p : Path) (h : x.cur = some p) :
    (∃ q, x.retire.cur = some q ∧ q.pc = p.pc + 8) ∧
      x.retire = { x with cur := x.retire.cur, paths := x.retire.paths, window := x.retire.window } := by
  unfold Drill.retire
  rw [h]
  dsimp only
  unfold Drill.arrive Drill.countWindow
  dsimp only
  split
  · exact ⟨⟨_, rfl, rfl⟩, rfl⟩
  · exact ⟨⟨_, rfl, rfl⟩, rfl⟩

/-! ## Issuing -/

/-- All that issuing a ready instruction does: a collective without the full mask parks the drill, `body` may hold the instruction, else its
state is metered once. -/
theorem State.issue_ready {s : State} {d : DrillRef} {f : Fetched} {cls op : Nat} {x : Drill} {p : Path} {act : DWord}
    (h : Ready s d f cls op x p act) (coll : Bool) (body : Drill → Path → DWord → Option State) :
    s.issue d f cls op coll body =
      if coll = true ∧ act ≠ x.live then s.park d .divergentCollective act 0 f.word
      else match body x p act with
        | none => s
        | some t => t.meter d.slice 2 1 := by
  obtain ⟨h1, h2, h3, h4, h5, h6, h7, h8, h9, h10, h11, h12, h13⟩ := h
  have h10' : ¬ act = 0 := h10
  unfold State.issue
  simp only [h1, h2, h3, h4, h5, h6, h7, h8, h9, h10', h11, h12, h13]
  by_cases hc : coll = true ∧ act ≠ x.live
  · simp [if_pos hc]
  · cases body x p act <;> simp [if_neg hc]

/-- Storing a drill and metering its core leave everything else alone. -/
theorem drillOnly_setDrill (s : State) (d : DrillRef) (z : Drill) (i n : Nat) :
    ((s.setDrill d z).meter d.slice i n).drill? d = some z ∧ DrillOnly s ((s.setDrill d z).meter d.slice i n) d := by
  have hc : ∀ t : State, (t.meter d.slice i n).cores = t.cores ∨
      ∃ m, (t.meter d.slice i n) = t.setCore d.slice { t.core d.slice with meters := m } := by
    intro t
    unfold State.meter
    split
    · exact .inr ⟨_, rfl⟩
    · exact .inl rfl
  have h1 : ∃ m, ((s.setDrill d z).meter d.slice i n).core d.slice =
      { s.core d.slice with drills := insert (s.core d.slice).drills (slotKey d) z, meters := m } := by
    rcases hc (s.setDrill d z) with h | ⟨m, h⟩
    · rw [State.core_congr h]; simp [State.setDrill]
    · rw [h]; simp [State.setDrill]
  have h2 : ∀ k, k ≠ d.slice → ((s.setDrill d z).meter d.slice i n).core k = s.core k := by
    intro k hk
    rcases hc (s.setDrill d z) with h | ⟨m, h⟩
    · rw [State.core_congr h]; exact State.core_modCore_other _ _ hk
    · rw [h, State.core_setCore_other _ _ hk]; exact State.core_modCore_other _ _ hk
  obtain ⟨m, h1⟩ := h1
  refine ⟨by simp [State.drill?, h1, find?_insert_same], ?_, h2, ?_, ?_, by simp, by simp, ?_⟩
  · unfold State.meter; split <;> rfl
  · rw [h1]
  · intro e he hk
    simp [State.drill?, he, h1, find?_insert_other _ _ hk]
  · intro k a
    by_cases hk : k = d.slice
    · rw [hk, h1]
    · rw [h2 k hk]

/-- All that a computing instruction does: the drill takes the registers that `g` gives it and goes on, nothing else changes. -/
theorem State.alu_ready {s : State} {d : DrillRef} {f : Fetched} {cls op : Nat} {x : Drill} {p : Path} {act : DWord}
    (h : Ready s d f cls op x p act) (g : Drill → DWord → Drill)
    (hg : g x act = { x with g := (g x act).g, p := (g x act).p, u := (g x act).u }) :
    GoesOn s (s.alu d f cls op g) d x p (g x act).retire := by
  have hc : (g x act).cur = some p := by rw [hg]; exact h.2.1
  obtain ⟨hq, hr⟩ := (g x act).retire_goes p hc
  unfold State.alu
  rw [State.issue_ready h]
  simp only [Bool.false_eq_true, false_and, if_false]
  obtain ⟨h1, h2⟩ := drillOnly_setDrill s d (g x act).retire 2 1
  refine ⟨h1, h2, hq, ?_⟩
  have e1 := congrArg Drill.g hr
  have e2 := congrArg Drill.p hr
  have e3 := congrArg Drill.u hr
  simp only at e1 e2 e3
  rw [e1, e2, e3, hr, hg]

/-! ## Results -/

@[simp] theorem Drill.retire_g (x : Drill) : x.retire.g = x.g := by have h := x.retire_same; unfold Drill.SameRegs at h; rw [h]
@[simp] theorem Drill.retire_p (x : Drill) : x.retire.p = x.p := by have h := x.retire_same; unfold Drill.SameRegs at h; rw [h]
@[simp] theorem Drill.retire_u (x : Drill) : x.retire.u = x.u := by have h := x.retire_same; unfold Drill.SameRegs at h; rw [h]
@[simp] theorem Drill.retire_greg (x : Drill) (k r : Nat) : x.retire.greg k r = x.greg k r := by simp [Drill.greg]
@[simp] theorem Drill.retire_ureg (x : Drill) (r : Nat) : x.retire.ureg r = x.ureg r := by simp [Drill.ureg]
@[simp] theorem Drill.retire_preg (x : Drill) (r : Nat) : x.retire.preg r = x.preg r := by simp [Drill.preg]
@[simp] theorem Drill.retire_pbit (x : Drill) (k r : Nat) : x.retire.pbit k r = x.pbit k r := by simp [Drill.pbit]
@[simp] theorem Drill.retire_rd (x : Drill) (u : Bool) (k r : Nat) : x.retire.rd u k r = x.rd u k r := by simp [Drill.rd]

/-- Writing registers touches no other part of the drill. -/
theorem Drill.wr_regs (x : Drill) (u : Bool) (k i : Nat) (v : Word) : x.wr u k i v = { x with g := (x.wr u k i v).g, u := (x.wr u k i v).u } := by
  unfold Drill.wr; split <;> rfl

theorem Drill.rd_wr (x : Drill) (u : Bool) (k i k' i' : Nat) (v : Word) (h : i < 64) (h' : i' < 64) :
    (x.wr u k i v).rd u k' i' = if i' = i ∧ (u = true ∨ k' = k) then v else x.rd u k' i' := by
  unfold Drill.wr Drill.rd
  cases u with
  | true => simp [Drill.ureg_setU]
  | false => simp [Drill.greg_setG _ _ _ _ _ _ h h', and_comm]

theorem iDst_lt (w : DWord) : iDst w < 64 := Nat.mod_lt _ (by decide)

theorem Drill.greg_foldl_setG (i : Nat) (v : Nat → Word) (hi : i < 64) (l : List Nat) (x : Drill) (k r : Nat) (hr : r < 64) :
    (l.foldl (fun y t => y.setG t i (v t)) x).greg k r = if k ∈ l ∧ r = i then v k else x.greg k r := by
  induction l generalizing x with
  | nil => simp
  | cons a l ih =>
    rw [List.foldl_cons, ih, Drill.greg_setG _ _ _ _ _ _ hi hr]
    by_cases h1 : r = i <;> by_cases h2 : k ∈ l <;> by_cases h3 : k = a <;> simp_all

theorem Drill.foldl_setG_regs (i : Nat) (v : Nat → Word) (l : List Nat) (x : Drill) :
    l.foldl (fun y t => y.setG t i (v t)) x = { x with g := (l.foldl (fun y t => y.setG t i (v t)) x).g } := by
  induction l generalizing x with
  | nil => rfl
  | cons a l ih => rw [List.foldl_cons, ih]; rfl

/-- All that writing one register in every executing thread does. -/
theorem Drill.writeEach_wrote (x : Drill) (w act : DWord) (v : Nat → Word) :
    Wrote w act 1 x (x.writeEach w act v) (fun k _ => v k) ∧
      x.writeEach w act v = { x with g := (x.writeEach w act v).g, u := (x.writeEach w act v).u } := by
  have hd := iDst_lt w
  unfold Drill.writeEach execThreads
  cases hu : iDU w with
  | true =>
    simp only [Drill.wr, if_true, List.foldl_cons, List.foldl_nil]
    refine ⟨⟨?_, ?_, ?_, ?_⟩, rfl⟩
    · intro k hk j hj
      simp [execThreads, hu] at hk
      have : j = 0 := by omega
      simp [Drill.rd, hu, this, hk, Drill.ureg_setU]
    · intro k r hr _; rfl
    · intro r hr
      have hne : r ≠ iDst w := by rcases hr with h | h | h <;> simp_all <;> omega
      simp [Drill.ureg_setU, hne]
    · intro r; rfl
  | false =>
    simp only [Drill.wr, Bool.false_eq_true, if_false]
    have hr := Drill.foldl_setG_regs (iDst w) v (threads act) x
    refine ⟨⟨?_, ?_, ?_, ?_⟩, ?_⟩
    · intro k hk j hj
      simp [execThreads, hu] at hk
      have : j = 0 := by omega
      simp [Drill.rd, hu, this, Drill.greg_foldl_setG _ _ hd _ _ _ _ hd, hk]
    · intro k r hr' h
      rw [Drill.greg_foldl_setG _ _ hd _ _ _ _ hr', if_neg]
      rintro ⟨h1, rfl⟩
      rcases h with h | h | h | h
      · simp [hu] at h
      · exact h h1
      · omega
      · omega
    · intro r _; rw [hr]; rfl
    · intro r; rw [hr]; rfl
    · rw [hr]

/-! ## Predicates -/

theorem bit_maskWhere (f : Nat → Bool) (n : Nat) (hn : n ≤ 64) (k : Nat) : bit (maskWhere f n) k = (decide (k < n) && f k) := by
  induction n with
  | zero => simp [maskWhere, bit]
  | succ n ih =>
    have hp : ∀ j, (BitVec.ofNat 64 (2 ^ n)).getLsbD j = decide (j = n) := by
      intro j
      rw [BitVec.getLsbD_ofNat, Nat.testBit_two_pow]
      by_cases hj : j = n
      · subst j; simp; omega
      · simp [hj, Ne.symm hj]
    unfold bit at ih ⊢
    rw [maskWhere, BitVec.getLsbD_or, ih (by omega)]
    have h2 : decide (k < n + 1) = (decide (k < n) || decide (k = n)) := by
      rw [Bool.eq_iff_iff]; simp only [Bool.or_eq_true, decide_eq_true_eq]; omega
    rw [h2]
    by_cases h1 : k = n
    · subst k
      cases hf : f n
      · simp only [Bool.false_eq_true, if_false]; simp
      · simp only [if_true, hp]; simp
    · cases hf : f n
      · simp only [Bool.false_eq_true, if_false]; simp [h1]
      · simp only [if_true, hp]; simp [h1]

/-- A predicate bit after a masked write. -/
theorem Drill.pbit_setP (x : Drill) (r r' : Nat) (m v : DWord) (k : Nat) (hk : k < 64) :
    (x.setP r m v).pbit k r' = if r' = r then (if bit m k then bit v k else x.pbit k r) else x.pbit k r' := by
  unfold Drill.pbit
  rw [Drill.preg_setP]
  split
  · unfold bit
    rw [BitVec.getLsbD_or, BitVec.getLsbD_and, BitVec.getLsbD_and, BitVec.getLsbD_not]
    cases h : m.getLsbD k <;> simp [hk]
  · rfl

/-- All that writing a predicate in the active threads does. -/
theorem Drill.writePred_wrote (x : Drill) (w act : DWord) (v : Nat → Bool) :
    WrotePred act x (x.writePred w act v) (· = iDst w) fun _ k => v k := by
  refine ⟨?_, ?_, fun k r _ => rfl, fun r => rfl⟩
  · intro r k _ hk hr ha
    simp [Drill.writePred, Drill.pbit_setP _ _ _ _ _ _ hk, hr, ha, bit_maskWhere _ 64 (Nat.le_refl _), hk]
  · intro r k hk h
    rw [Drill.writePred, Drill.pbit_setP _ _ _ _ _ _ hk]
    by_cases hr : r = iDst w
    · have ha : bit act k = false := by by_contra hh; exact h ⟨hr, by simpa using hh⟩
      simp [hr, ha]
    · simp [hr]

end Sys2Proof.Machine
end

