-- ==== Sys2Proof/WellFormed.lean ====
section
/-! DEFINITION. Which commands are well formed: the ranges that the spec gives their operands. -/

namespace Sys2Proof

/-- Sectors of the panel's DRAM: 24 x 36 GiB of 256 bytes (R9). -/
def sectorCount : Nat := 0xD800000000 / 256

/-- A drill slot that exists (R7, R107). -/
def DrillRef.wf (d : DrillRef) : Bool := decide (d.slice < 192) && decide (d.engine < 4) && decide (d.slot < 8)

/-- A function that exists: PF 0 or VF 1-24 (R369). -/
def EntryRef.wf (e : EntryRef) : Bool := decide (e.fn < 25) && decide (e.sq < 4096)

/-- A hedgerow port that exists (R14, R15). -/
def PortRef.wf (p : PortRef) : Bool :=
  (decide (p.node < 24) || decide (p.node = 0x1E) || decide (p.node = 0x1F)) && decide (p.port < 4)

/-- A transfer queue that exists (R174). -/
def XQueue.wf (q : XQueue) : Bool := decide (q.die < 24) && decide (q.q < 9)

/-- A pool that can exist (R402). -/
def Pool.wf (p : Pool) : Bool := decide (p.die < 24)

/-- A combined group: 1 to 64 members of distinct threads in ascending order, its operand within the sector (R128, R130). -/
def AtomGroup.wf (g : AtomGroup) : Bool :=
  g.drill.wf && decide (g.byte < 256) && !g.members.isEmpty && decide ((g.members.map (·.thread)).Pairwise (· < ·))
    && g.members.all fun m => decide (m.thread < 64)

/-- A non-caching agent that exists (R257). -/
def NcAgent.wf (a : NcAgent) : Bool :=
  match a with
  | .transfer q _ => q.wf
  | .reeve d => decide (d < 24)
  | .bar4 => true
  | .remote p => decide (p < 4096)

/-- A frame within the longest payload of Table 12-2. -/
def TltFrame.wf (f : TltFrame) : Bool := decide (f.payload.length ≤ 4096)

/-- A scale-out port that exists (R324). -/
def Discovery.wf (h : Discovery) : Bool := decide (h.port < 16)

/-- Registers that exist: 64 threads of 64 general registers, 8 predicate and 32 drill-uniform registers (Table 04-1). -/
def DrillEdit.wf (e : DrillEdit) : Bool :=
  (e.g.all fun r => decide (r.1 < 64) && decide (r.2.1 < 64)) && (e.p.all fun r => decide (r.1 < 8)) && e.u.all fun r => decide (r.1 < 32)

/-- A window of 1 to 64 GiB (Table 13-2). -/
def ConfigReq.wf (r : ConfigReq) : Bool :=
  match r with
  | .bar4Window g => decide (g ≤ 6)
  | _ => true

/-- An error in a memory that exists: 4 MiB of seedbed in granules of 32 bytes; accumulator entries numbered 2048 × vector + column, with at most
256 vectors (R76, R166, Table 03-4). -/
def Upset.wf (u : Upset) : Bool :=
  match u with
  | .corrected d | .tags d | .onDie d => decide (d < 24)
  | .fec p _ => decide (p < 16)
  | .granary n => decide (n < sectorCount)
  | .line k n => decide (k < 192) && decide (n < sectorCount)
  | .register d _ _ => d.wf
  | .seedbedCorrected k | .accumulator k => decide (k < 192)
  | .seedbed k g => decide (k < 192) && decide (g < 0x20000)
  | .weight k e _ => decide (k < 192) && decide (e < 0x80000)
  | .headland _ => true
  | .codeword n _ => decide (n < 4 * sectorCount)
  | .parity ch _ => decide (ch < 384)

/-- The well-formed commands. -/
def Instr.wf (i : Instr) : Bool :=
  match i with
  | .enableRise _ _ _ => true
  | .converterRegulationTimeout => true
  | .powerGood _ _ => true
  | .startupStepComplete _ => true
  | .dieRecordAppend pos _ => decide (pos < 28)
  | .enumResponseTimeout pos => decide (pos < 28)
  | .configRequest fn r => decide (fn < 25) && r.wf
  | .perstAssert => true
  | .perstDeassert p => decide (p.rate ≤ 3) && decide (p.lanes ≤ 16)
  | .hotReset => true
  | .hostLinkLossTimeout => true
  | .enableFall => true
  | .inputOutOfRange _ _ _ => true
  | .sysclkLoss _ => true
  | .getTelemetry => true
  | .getErrors _ => true
  | .setCap _ => true
  | .getIdentity => true
  | .i3cDynamicAddress _ => true
  | .mov d _ => d.wf
  | .movh d _ => d.wf
  | .iadd d _ => d.wf
  | .isub d _ => d.wf
  | .imul d _ => d.wf
  | .imulhi d _ => d.wf
  | .imla d _ => d.wf
  | .imin d _ => d.wf
  | .imax d _ => d.wf
  | .iabs d _ => d.wf
  | .and d _ => d.wf
  | .or d _ => d.wf
  | .xor d _ => d.wf
  | .not d _ => d.wf
  | .shl d _ => d.wf
  | .shr d _ => d.wf
  | .ones d _ => d.wf
  | .clz d _ => d.wf
  | .bitrev d _ => d.wf
  | .fldx d _ => d.wf
  | .fldi d _ => d.wf
  | .itest d _ => d.wf
  | .pick d _ => d.wf
  | .plogic d _ => d.wf
  | .pgather d _ => d.wf
  | .pscatter d _ => d.wf
  | .iadd64 d _ => d.wf
  | .fadd d _ => d.wf
  | .fsub d _ => d.wf
  | .fmul d _ => d.wf
  | .fmac d _ => d.wf
  | .fmin d _ => d.wf
  | .fmax d _ => d.wf
  | .ftest d _ => d.wf
  | .frcp d _ => d.wf
  | .frsq d _ => d.wf
  | .fsqrt d _ => d.wf
  | .fex2 d _ => d.wf
  | .flg2 d _ => d.wf
  | .ftanh d _ => d.wf
  | .fsin d _ => d.wf
  | .fcos d _ => d.wf
  | .fdotbp d _ => d.wf
  | .cvt d _ => d.wf
  | .cvts d _ => d.wf
  | .qmx d _ => d.wf
  | .lread d _ => d.wf
  | .pall d _ => d.wf
  | .pany d _ => d.wf
  | .pmask d _ => d.wf
  | .lreduce d _ => d.wf
  | .ltake d _ => d.wf
  | .ld d _ => d.wf
  | .st d _ => d.wf
  | .pref d _ => d.wf
  | .aadd d _ => d.wf
  | .amin d _ => d.wf
  | .amax d _ => d.wf
  | .aand d _ => d.wf
  | .aor d _ => d.wf
  | .axor d _ => d.wf
  | .axch d _ => d.wf
  | .acas d _ => d.wf
  | .radd d _ => d.wf
  | .mfence d _ => d.wf
  | .twait d _ => d.wf
  | .tpoll d _ => d.wf
  | .tread d _ => d.wf
  | .lwait d _ => d.wf
  | .lwaitTimeout d _ => d.wf
  | .dsync d _ => d.wf
  | .cbar d _ => d.wf
  | .amm d _ => d.wf
  | .await d _ => d.wf
  | .apoll d _ => d.wf
  | .afence d _ => d.wf
  | .xsub d _ => d.wf
  | .xwait d _ => d.wf
  | .xpoll d _ => d.wf
  | .xfence d _ => d.wf
  | .bra d _ => d.wf
  | .brind d _ => d.wf
  | .call d _ => d.wf
  | .exit d _ => d.wf
  | .nop d _ => d.wf
  | .trap d _ => d.wf
  | .dbreak d _ => d.wf
  | .sreg d _ => d.wf
  | .faultRecordWrite die => decide (die < 24)
  | .parkReplay d e => d.wf && e.all DrillEdit.wf
  | .parkSkip d e => d.wf && e.all DrillEdit.wf
  | .parkKill d e => d.wf && e.all DrillEdit.wf
  | .launchRecordTake slice => decide (slice < 192)
  | .drillDrainComplete d => d.wf
  | .arrayInstrStart slice => decide (slice < 192)
  | .arrayTileSwap slice => decide (slice < 192)
  | .arrayInstrComplete slice => decide (slice < 192)
  | .canaryRecompute slice => decide (slice < 192)
  | .transferStart die engine => decide (die < 24) && decide (engine < 16)
  | .transferChunkArrive q _ _ => q.wf
  | .transferComplete q _ => q.wf
  | .getS sector cache _ => decide (sector < sectorCount) && decide (cache < 192)
  | .getM sector cache _ _ => decide (sector < sectorCount) && decide (cache < 192)
  | .putM sector cache _ _ => decide (sector < sectorCount) && decide (cache < 192)
  | .atomReq sector cache g => decide (sector < sectorCount) && decide (cache < 192) && g.wf
  | .raddReq sector cache g => decide (sector < sectorCount) && decide (cache < 192) && g.wf
  | .invAck sector cache => decide (sector < sectorCount) && decide (cache < 192)
  | .recallData sector cache _ _ => decide (sector < sectorCount) && decide (cache < 192)
  | .homeFillDone sector => decide (sector < sectorCount)
  | .nonCachingRead sector src _ _ _ => decide (sector < sectorCount) && src.wf
  | .nonCachingWrite sector src _ _ _ _ _ _ _ => decide (sector < sectorCount) && src.wf
  | .inv sector cache => decide (sector < sectorCount) && decide (cache < 192)
  | .recall sector cache _ => decide (sector < sectorCount) && decide (cache < 192)
  | .dataS sector cache _ _ => decide (sector < sectorCount) && decide (cache < 192)
  | .dataM sector cache _ _ => decide (sector < sectorCount) && decide (cache < 192)
  | .grantM sector cache => decide (sector < sectorCount) && decide (cache < 192)
  | .wback sector cache => decide (sector < sectorCount) && decide (cache < 192)
  | .atomResp sector cache g _ _ => decide (sector < sectorCount) && decide (cache < 192) && g.wf
  | .raddAck sector cache g _ => decide (sector < sectorCount) && decide (cache < 192) && g.wf
  | .coherenceSweepDone home reset => decide (home < 24) && decide (reset < 24)
  | .thrashWindowEnd die => decide (die < 24)
  | .granarySliceFlush slice => decide (slice < 192)
  | .stackTempSample die _ _ => decide (die < 24)
  | .bankRefresh die pc bank => decide (die < 24) && decide (pc < 32) && decide (bank < 64)
  | .eccWindowEnd die => decide (die < 24)
  | .patrolScrubRead die _ => decide (die < 24)
  | .marginReadDelay die _ => decide (die < 24)
  | .marginWriteDelay die _ => decide (die < 24)
  | .marginReadReference die _ => decide (die < 24)
  | .marginWriteReference die _ => decide (die < 24)
  | .marginSupply die _ => decide (die < 24)
  | .memMarginSweepDone die _ _ _ => decide (die < 24)
  | .flitReceive p _ => p.wf
  | .nak p _ => p.wf
  | .ackProgressTimeout p => p.wf
  | .laneLockLoss p group => p.wf && decide (group < 8)
  | .partnerTrainingSequence p => p.wf
  | .groupTrainingDone p _ => p.wf
  | .hdgOffer p _ => p.wf
  | .hdgConfirm p _ => p.wf
  | .agreementTimeout p => p.wf
  | .switchForward node _ => (decide (node < 24) || decide (node = 0x1E) || decide (node = 0x1F))
  | .routeRecompute => true
  | .replayWindowEnd p => p.wf
  | .tltWrite port f => decide (port < 16) && f.wf
  | .writeAckSend headland peer => decide (headland < 2) && decide (peer < 4096)
  | .tltReadReq port f => decide (port < 16) && f.wf
  | .tltReadResp port f => decide (port < 16) && f.wf
  | .tltAck port f => decide (port < 16) && f.wf
  | .retransmitTimeout headland peer _ _ => decide (headland < 2) && decide (peer < 4096)
  | .tltHello port h => decide (port < 16) && h.wf
  | .tltAssign port h => decide (port < 16) && h.wf
  | .tltRelease port h => decide (port < 16) && h.wf
  | .helloTimer _ => true
  | .scaleoutPortLinkLoss port => decide (port < 16)
  | .ptpSync port _ _ _ _ err => decide (port < 16) && decide (err.natAbs ≤ 4)
  | .ptpAnnounce port _ _ _ => decide (port < 16)
  | .ptpDelayResp port _ _ => decide (port < 16)
  | .holdoverTimeout => true
  | .holdoverLimitExpiry => true
  | .sqTail fn q _ => decide (fn < 25) && decide (q < 4096)
  | .cqHead fn q _ => decide (fn < 25) && decide (q < 4096)
  | .sqEntryFetch fn q => decide (fn < 25) && decide (q < 4096)
  | .nopCommand e => e.wf
  | .createCq e => e.wf
  | .createSq e => e.wf
  | .deleteSq e => e.wf
  | .deleteCq e => e.wf
  | .quiesce e => e.wf
  | .quiesceTimeout fn => decide (fn < 25)
  | .resume e => e.wf
  | .logStart e => e.wf
  | .logSnapshot e => e.wf
  | .logStop e => e.wf
  | .pin e => e.wf
  | .unpin e => e.wf
  | .interruptHoldTimeout fn cq => decide (fn < 25) && decide (cq < 4096)
  | .msixUnmask fn vec => decide (fn < 25) && decide (vec < 2048)
  | .atsInvalidate pasid _ _ => decide (pasid < 2 ^ 20)
  | .bar4Read _ _ => true
  | .bar4Write _ _ => true
  | .bar4Atomicop _ _ size _ _ => (decide (size = 4) || decide (size = 8))
  | .vfEnableSet n => decide (n ≤ 24)
  | .vfEnableClear => true
  | .functionLevelReset fn => decide (fn < 25)
  | .d3hotToD0 fn => decide (fn < 25)
  | .aqEnable fn => decide (fn < 25)
  | .aqDisable fn => decide (fn < 25)
  | .bind e => e.wf
  | .rebind e => e.wf
  | .unbind e => e.wf
  | .map e => e.wf
  | .unmap e => e.wf
  | .moveRegion e => e.wf
  | .moveCopyDone comp => decide (comp < 64)
  | .moveFinalCopyDone comp => decide (comp < 64)
  | .meterRead e => e.wf
  | .epochCommit comp => decide (comp < 64)
  | .sliceRelease slice => decide (slice < 192)
  | .epochHoldTimeout _ => true
  | .ownershipClaim comp _ src dst _ => decide (comp < 64) && src.wf && dst.wf
  | .ownershipReply comp _ pool owner _ => decide (comp < 64) && pool.wf && owner.wf
  | .ownershipQueryTimeout comp _ => decide (comp < 64)
  | .meterAdd => true
  | .serveConfig e => e.wf
  | .serveStop e => e.wf
  | .streamOpen e => e.wf
  | .streamClose e => e.wf
  | .audio e => e.wf
  | .textIn e => e.wf
  | .outBuf e => e.wf
  | .load e => e.wf
  | .passStart comp => decide (comp < 64)
  | .stageAdvance comp _ _ => decide (comp < 64)
  | .emitNotices comp => decide (comp < 64)
  | .passCommit comp _ => decide (comp < 64)
  | .passRollback comp => decide (comp < 64)
  | .transferPauseTimeout slice => decide (slice < 192)
  | .switchDrainDone slice => decide (slice < 192)
  | .switchSaveDone slice => decide (slice < 192)
  | .coreRestoreDone slice => decide (slice < 192)
  | .contextRevoke _ => true
  | .teardownComplete _ => true
  | .teardownTimeout _ => true
  | .governorTick _ _ _ => true
  | .fastLimit _ _ => true
  | .dieTempSample die _ => decide (die < 24)
  | .headlandTempSample headland _ => decide (headland < 2)
  | .haywardSample us => us.all Upset.wf
  | .partitionResetStepDone die _ => decide (die < 24)
  | .restartResume comp => decide (comp < 64)
  | .refetchComplete _ => true
  | .refetchTimeout _ _ => true
  | .fwStage e => e.wf
  | .fwApply e => e.wf
  | .fwActivate e => e.wf
  | .svnCommit e => e.wf
  | .attest e => e.wf
  | .debugChallenge e _ => e.wf
  | .debugUnlock e => e.wf
  | .debugLock e => e.wf
  | .debugUnlockExpiry => true
  | .bist e => e.wf
  | .captureStart e => e.wf
  | .captureStop e => e.wf
  | .captureBufferHalf comp => decide (comp < 64)
  | .replay e => e.wf
  | .lmarginTiming die _ => decide (die < 24)
  | .lmarginReference die _ => decide (die < 24)
  | .xmarginTiming _ => true
  | .xmarginReference _ => true
  | .linkMarginSweepDone die _ _ => (die.all fun k => decide (k < 24))
  | .grnPinCfgWrite die _ => decide (die < 24)
  | .xltPortMapNextWrite _ => true
  | .timPtpCfgWrite _ => true
  | .rcRegisterRead req _ offset size => decide (req < 25) && decide (offset < 2 ^ 28) && decide (size ≤ 8)
  | .registerWrite req offset size _ => decide (req < 25) && decide (offset < 2 ^ 28) && (decide (size = 4) || decide (size = 8))
  | .ethernetFrameDrop port _ => decide (port < 16)
  | .scaleoutPortLinkUp port => decide (port < 16)
  | .ptpFollowUp port _ _ => decide (port < 16)
  | .ptpDelayReqTimer port err => decide (port < 16) && decide (err.natAbs ≤ 4)
  | .announceReceiptTimeout port => decide (port < 16)
  | .mctpControlMessage _ _ => true

end Sys2Proof
end

