-- ==== Sys2Proof/Tests/Slice0.lean ====
section
/-! SUPPORT. Tests of the model: words and values of the spec's worked examples, ill-formed commands refused, and for each statement with hypotheses a state and operands that meet them. -/

namespace Sys2Proof.Test

set_option Elab.async false

open Sys2Proof Sys2Proof.Machine Sys2Proof.Claim

/-! ## Small states -/

/-- The panel in service. -/
def up : State :=
  { State.reset with mod := { Module.reset with pwrgd := true, perst := false, linkUp := true, crs := false },
                     start := { Startup.reset with done := true, step := 12 } }
def ref : DrillRef := ⟨0, 0, 0⟩
def path : Path := { mask := 0xF, pc := 0x1000, wait := .runnable, since := 0 }

/-- A drill of four threads with a few values in its registers. -/
def drill : Drill :=
  { context := 1, comp := 0, epoch := 0, g1 := false, tag := 0, pass := 0, nregs := 64, g := [(1, 5), (2, 7), (65, 6)], p := [(0, 0x5)],
    u := [(1, 3)], cur := some path, paths := [], budget := 0, window := none, stamp := 0, mem := none, unperformed := [], lastXfer := none,
    failed := [], dsync := 0, status := .active }
def core (x : Drill) : Core := { Core.reset with drills := [(0, x)], domainOn := true }
def withDrill (x : Drill) : State := { up with cores := [(0, core x)] }

/-- A word by its fields. -/
def word (cls op dst a b c mod : Nat) : DWord :=
  BitVec.ofNat 64 (cls * 2 ^ 55 + op * 2 ^ 50 + dst * 2 ^ 42 + a * 2 ^ 35 + mod * 2 ^ 24 + b * 2 ^ 17 + c * 2 ^ 10)
/-- A word of FORM 1 by its fields. -/
def wordI (cls op dst a mod imm : Nat) : DWord :=
  BitVec.ofNat 64 (cls * 2 ^ 55 + op * 2 ^ 50 + 2 ^ 49 + dst * 2 ^ 42 + a * 2 ^ 35 + mod * 2 ^ 24 + imm)
/-- DU, AU, BU: the drill-uniform marks. -/
def du : DWord := 0x1000000000000
def au : DWord := 0x20000000000
def bu : DWord := 0x800000

/-! ## Words of the spec's examples (chapter 5) -/

/-- ITEST.EQ p1, g3, g4: the example of chapter 5. -/
theorem test_word_itest : let w : DWord := 0x0054041800080000
    iCls w = 0 ∧ iOp w = 0x15 ∧ iDst w = 1 ∧ iA w = 3 ∧ iB w = 4 ∧ iModBits w 10 8 = 0 ∧ legalWord w = true := by decide
/-- @p1 BRA +3 words. -/
theorem test_word_bra : let w : DWord := 0x8E02000000000003
    iCls w = 0xC ∧ iOp w = 0 ∧ bit w 63 = true ∧ bit w 62 = false ∧ bits w 61 59 = 1 ∧ iImm w = 3 ∧ legalWord w = true := by decide
/-- IADD g6, g6, 1. -/
theorem test_word_iadd : let w : DWord := 0x000A183000000001
    iCls w = 0 ∧ iOp w = 2 ∧ iImmForm w = true ∧ iDst w = 6 ∧ iA w = 6 ∧ iImm32 w = 1 ∧ legalWord w = true := by decide
/-- Class 1 is reserved (Table 05-2). -/
theorem test_word_reserved : legalWord (word 1 0 0 0 0 0 0) = false := by decide
/-- A per-thread source may not go to a drill-uniform destination (R146). -/
theorem test_word_uniform : legalWord (word 0 2 3 1 2 0 0 ||| du) = false ∧ legalWord (word 0 2 3 1 2 0 0 ||| du ||| au ||| bu) = true := by decide

/-! ## Witnesses: the drill instructions -/

/-- The word `w` is ready in thread mask 0xF of the small drill. -/
abbrev ReadyAt (w : DWord) (cls op : Nat) : Prop := Ready (withDrill drill) ref ⟨w, false⟩ cls op drill path 0xF

theorem test_ready_integer : ∀ op ∈ [2, 3, 4, 5, 6, 7, 8, 10, 11, 12, 14, 15, 19, 20, 22], ReadyAt (word 0 op 3 1 2 0 0) 0 op := by decide
theorem test_ready_integer_unary : ReadyAt (word 0 0 3 0 2 0 0) 0 0 ∧ ReadyAt (wordI 0 1 3 0 0 0xFFFF) 0 1 ∧
    ∀ op ∈ [9, 13, 16, 17, 18], ReadyAt (word 0 op 3 1 0 0 0) 0 op := by decide
theorem test_ready_predicates : ReadyAt (word 0 0x15 7 1 2 0 0x500) 0 0x15 ∧ ReadyAt (word 0 0x17 7 1 2 0 0x300) 0 0x17 ∧
    ReadyAt (word 0 0x18 3 0 0 0 0) 0 0x18 ∧ ReadyAt (word 0 0x19 0 1 0 0 0) 0 0x19 := by decide
theorem test_ready_iadd64 : ReadyAt (word 0 0x1A 62 2 4 0 0) 0 0x1A := by decide
theorem test_ready_uniform : ReadyAt (word 0 2 31 1 2 0 0 ||| du ||| au ||| bu) 0 2 := by decide
theorem test_ready_floating : ∀ op ∈ [0, 1, 2, 3, 4, 5, 15], ReadyAt (word 2 op 3 1 2 0 0) 2 op := by decide
theorem test_ready_functions : ∀ op ∈ [7, 8, 9, 10, 11, 12, 13, 14], ReadyAt (word 2 op 3 1 0 0 0) 2 op := by decide
theorem test_ready_ftest : ReadyAt (word 2 6 1 1 2 0 0x700) 2 6 := by decide
theorem test_ready_conversions : ReadyAt (word 3 0 3 1 0 0 0) 3 0 ∧ ReadyAt (word 3 1 3 1 2 0 0) 3 1 ∧ ReadyAt (word 3 2 3 1 0 0 0x300) 3 2 := by decide
theorem test_ready_crosslane : ReadyAt (word 4 0 3 1 2 0 0) 4 0 ∧ ReadyAt (word 4 1 1 2 0 0 0) 4 1 ∧ ReadyAt (word 4 2 1 2 0 0 0) 4 2 := by decide
theorem test_ready_crosslane_uniform : ReadyAt (word 4 3 2 1 0 0 0 ||| du) 4 3 ∧ ReadyAt (word 4 4 2 1 0 0 0x400 ||| du) 4 4 ∧
    ReadyAt (wordI 4 5 2 1 0 63 ||| du) 4 5 := by decide
/-- FP4's largest and E4M3's value 1 decode to numbers. -/
theorem test_representable : (7 : Nat) < 2 ^ (1 + Fmt.fp4.e + Fmt.fp4.m) ∧ Fmt.fp4.decode 7 ≠ .nan ∧ Fmt.e4m3.decode 0x38 ≠ .nan := by decide

/-! ### Effects of a few of them, by hand from the tables -/

/-- IADD g3, g1, g2 in thread 0 is 5 + 7. -/
theorem test_iadd : (match Machine.exec (.iadd ref ⟨word 0 2 3 1 2 0 0, false⟩) (withDrill drill) with
    | .next t => ((t.drill? ref).map fun z => z.greg 0 3, (t.drill? ref).bind fun z => z.cur.map (·.pc))
    | _ => (none, none)) = (some 12, some 0x1008) := by decide
/-- IADD wraps: 0xFFFFFFFF + 1 (R151). -/
theorem test_iadd_wraps : (0xFFFFFFFF : Word) + 1 = 0 := by decide
/-- PALL of p0 = 0101 over four threads is false, PANY true. -/
theorem test_pall_pany : (match Machine.exec (.pall ref ⟨word 4 1 1 0 0 0 0, false⟩) (withDrill drill) with
    | .next t => (t.drill? ref).map fun z => z.preg 1
    | _ => none) = some 0 ∧ (match Machine.exec (.pany ref ⟨word 4 2 1 0 0 0 0, false⟩) (withDrill drill) with
    | .next t => (t.drill? ref).map fun z => z.preg 1
    | _ => none) = some 0xF := by decide

/-! ## Witnesses: memory and atomic classes -/

/-- Thread `k` of this drill has 16 `k` in g1. -/
def mdrill : Drill := { drill with g := [(65, 16), (129, 32), (193, 48)] }
abbrev ReadyM (s : State) (w : DWord) (cls op : Nat) : Prop := Ready s ref ⟨w, false⟩ cls op mdrill path 0xF

/-- A seedbed load of 128 bits, a byte store, a 64-bit atomic and an add. -/
theorem test_seedbed_load : let w := word 5 0 8 1 0 0 0x408
    ReadyM (withDrill mdrill) w 5 0 ∧ SeedbedFine (withDrill mdrill) ref mdrill w (execThreads w 0xF) (sizeBytes (iSize w)) true ∧
      (withDrill mdrill).tracked 0 (mdrill.sbSpans w (execThreads w 0xF) (sizeBytes (iSize w))) [] = false := by decide
theorem test_seedbed_store : let w := word 5 1 8 1 0 0 0x008
    ReadyM (withDrill mdrill) w 5 1 ∧ SeedbedFine (withDrill mdrill) ref mdrill w (threads 0xF) (sizeBytes (iSize w)) false ∧
      (withDrill mdrill).tracked 0 [] (mdrill.sbSpans w (threads 0xF) (sizeBytes (iSize w))) = false := by decide
theorem test_seedbed_atomic : let w := word 6 0 8 1 10 0 0x408
    ReadyM (withDrill mdrill) w 6 0 ∧ SeedbedFine (withDrill mdrill) ref mdrill w (execThreads w 0xF) 8 true ∧
      (withDrill mdrill).tracked 0 [] (mdrill.sbSpans w (execThreads w 0xF) 8) = false := by decide
theorem test_ready_atomics : ∀ op ∈ [1, 2, 3, 4, 5, 6], ReadyM (withDrill mdrill) (word 6 op 8 1 10 0 0x008) 6 op := by decide
theorem test_seedbed_cas_radd : ReadyM (withDrill mdrill) (word 6 7 8 1 10 11 0x008) 6 7 ∧ ReadyM (withDrill mdrill) (word 6 8 0 1 10 0 0x208) 6 8 ∧
    SeedbedFine (withDrill mdrill) ref mdrill (word 6 8 0 1 10 0 0x208) (threads 0xF) 4 true := by decide

/-- A map of one writable region at composition address 0 on channel 0, and its composition. -/
def region0 : Region := ⟨0, 0x1000000, false, 0, false, false, true, false, 0, 0, 0, 0, 0⟩
def map0 : EpochMap := ⟨0, [0, 1], [(0, [0])], [region0], 0, false, false, 0⟩
def comp0 : Comp :=
  { fn := 0, tenant := 1, eventCq := 0, pasid := none, pasidField := 0, acct := false, span := false, auth := 0, cur := map0, prev := none, context := 1,
    change := none, settling := none, move := none, pinMoves := [], unbinding := false, unbindEntry := none, serve := Serve.reset, peers := [], leaving := [],
    lost := [], record := [] }
/-- The panel with composition 0 bound. -/
def bound (s : State) : State := { s with yoke := { s.yoke with comps := [(0, comp0)] } }
def xl (k : Nat) : Xlat := ⟨16 * k, false, false, true, 0, region0, 16 * k⟩
def line (st : CState) : CLine := ⟨st, 0x11, false, [], [], none, 0⟩
/-- Slice 0 holds sector 0 in state `st`. -/
def cached (st : CState) : State := bound { up with cores := [(0, { core mdrill with cache := [(0, line st)] })] }

theorem test_device_load : let w := word 5 0 8 1 0 0 0x200
    ReadyM (cached .s) w 5 0 ∧ DeviceFine (cached .s) ref mdrill w (execThreads w 0xF) false xl (fun _ => 0) ∧ iHint w ≠ 3 := by decide +kernel
theorem test_device_load_line : ∀ k ∈ execThreads (word 5 0 8 1 0 0 0x200) 0xF, (xl k).uncached = false ∧ (cached .s).line? 0 0 = some (line .s) ∧
    ((line .s).st = .s ∨ (line .s).st = .m) ∧ (line .s).poison = false ∧ (line .s).loads = [] := by decide +kernel
theorem test_device_store : let w := word 5 1 8 1 0 0 0x200
    ReadyM (cached .m) w 5 1 ∧ DeviceFine (cached .m) ref mdrill w (threads 0xF) true xl (fun _ => 0) ∧
      (∀ e ∈ (cached .m).yoke.comps, e.2.move = none) ∧ (cached .m).allPerformed ref mdrill = true ∧ (cached .m).line? 0 0 = some (line .m) := by decide +kernel
/-- The owned store changes byte 16 of the line and not byte 20. -/
theorem test_owned_store : (match Machine.exec (.st ref ⟨word 5 1 1 1 0 0 0x200, false⟩) (cached .m) with
    | .next t => (t.line? 0 0).map fun l => (sectorByte l.data 16, sectorByte l.data 20, sectorByte l.data 0)
    | _ => none) = some (16, 0, 0) := by decide +kernel

theorem test_pref_seedbed : ReadyM (withDrill mdrill) (wordI 5 2 0 1 0x008 0) 5 2 ∧
    SeedbedFine (withDrill mdrill) ref mdrill (wordI 5 2 0 1 0x008 0) (threads 0xF) (sizeBytes (iSize (wordI 5 2 0 1 0x008 0))) false := by decide +kernel
/-- The home of sector 0 is at rest at `s`, and every thread of the PREF `w` names the sector. -/
abbrev Far (s : State) (w : DWord) : Prop :=
  iSeedbed w = false ∧ s.sectorPoisoned 0 = false ∧ s.dieUp (homeOf 0) = true ∧ (s.die (homeOf 0)).trans = [] ∧ (s.die (homeOf 0)).pend = [] ∧
    (s.die (homeOf 0)).sweep = [] ∧ ∀ k ∈ threads 0xF, (mdrill.globalAddr w k).toNat % sizeBytes (iSize w) = 0 ∧
      s.resolve mdrill (mdrill.globalAddr w k) 1 false true = .at_ (.dev (xl 0) 0 ((mdrill.globalAddr w k).toNat % 256))
/-- PREF K of an absent sector. -/
theorem test_pref_absent : let w := wordI 5 2 0 2 0x020 0
    let s := bound (withDrill mdrill)
    ReadyM s w 5 2 ∧ Far s w ∧ iHint w ≠ 3 ∧ (xl 0).uncached = false ∧ s.gsec? 0 = none := by decide +kernel
def gsec : GSec := ⟨0, false, false, [], .un⟩
def gline : GLine := ⟨.n, 0, 0, [], [(0, gsec)]⟩
def granary : State := { bound (withDrill mdrill) with dies := [(0, { Die.reset with gran := [(0, gline)] })] }
theorem test_pref_present : let w := wordI 5 2 0 2 0x020 0
    ReadyM granary w 5 2 ∧ Far granary w ∧ iHint w ≠ 3 ∧ granary.gsec? 0 = some gsec ∧ granary.gline? 0 = some gline := by decide +kernel
/-- The discard hint. -/
theorem test_pref_discard : let w := wordI 5 2 0 2 0x030 0
    ReadyM granary w 5 2 ∧ Far granary w ∧ iHint w = 3 ∧ granary.coreHolds 0 0 = false ∧ granary.drillDebug mdrill (xl 0) = false ∧
      granary.gsec? 0 = some gsec ∧ gsec.dir = .un := by decide +kernel
/-! ## Witnesses: fences, waits, tokens, control -/

abbrev base : State := withDrill drill
/-- The word is ready in the small drill at `s`. -/
abbrev ReadyS (s : State) (w : DWord) (cls op : Nat) : Prop := Ready s ref ⟨w, false⟩ cls op drill path 0xF
/-- The core of the small drill, changed. -/
abbrev withCore (f : Core → Core) : State := { up with cores := [(0, f (core drill))] }

theorem test_fence : ReadyS base (word 7 0 0 0 0 0 0x400) 7 0 ∧ ReadyS base (word 7 0 0 0 0 0 0x080) 7 0 ∧ base.allPerformed ref drill = true := by decide +kernel

/-- Counter 3 stands at 5, owned by the drill's context 1; u1 = 3, u0 = 0. -/
def tallied : State := withCore fun c => { c with tallies := [(3, ⟨5, some 1, false⟩)] }
theorem test_tally : ReadyS tallied (word 8 0 0 1 0 0 0 ||| au ||| bu) 8 0 ∧ ReadyS tallied (word 8 1 1 1 0 0 0 ||| au ||| bu) 8 1 ∧
    ReadyS tallied (word 8 2 4 1 0 0 0 ||| du ||| au) 8 2 := by decide +kernel
theorem test_tally_reached : OwnTally tallied ref drill 3 ∧ reached (tallied.core 0 |>.tally 3).value (drill.srcB (word 8 0 0 1 0 0 0 ||| au ||| bu) 0) ∧
    ¬ reached 5 (6 : Word) ∧ reached 5 (5 : Word) ∧ reached 0 (0x80000001 : Word) ∧ ¬ reached 0 (0x7FFFFFFF : Word) := by decide +kernel

theorem test_lwait : let w := word 9 0 0 1 2 0 0
    ReadyM (cached .s) w 9 0 ∧ LwaitFine (cached .s) ref mdrill w 0xF xl (fun _ => 0) (fun _ => line .s) := by decide +kernel
/-- Thread 0's word is 0x11 and its gv 0; thread 1's word is 0 and equal. -/
theorem test_lwait_words : let w := word 9 0 0 1 2 0 0
    lwaitWord mdrill w (fun _ => line .s) 0 = 0x11 ∧ lwaitWord mdrill w (fun _ => line .s) 1 = mdrill.srcB w 1 := by decide +kernel
def locked : Path := { path with wait := .lock [0] }
def lockDrill : Drill := { drill with cur := none, paths := [locked] }
theorem test_lock_wait : (withDrill lockDrill).inService = true ∧ (withDrill lockDrill).dieUp 0 = true ∧ (withDrill lockDrill).drill? ref = some lockDrill ∧
    locked ∈ lockDrill.paths ∧ locked.wait = .lock [0] := by decide +kernel

theorem test_dsync : ReadyS base (word 9 1 0 0 0 0 0) 9 1 := by decide +kernel
/-- Threads 2 and 3 on another path: half the drill at the DSYNC. -/
def halves : Drill := { drill with cur := some { path with mask := 3 }, paths := [{ path with mask := 12, pc := 0x2000 }] }
theorem test_dsync_halves : Ready (withDrill halves) ref ⟨word 9 1 0 0 0 0 0, false⟩ 9 1 halves { path with mask := 3 } 3 ∧
    halves.syncMask none ||| 3 ≠ halves.live := by decide +kernel
/-- uc in u2: 2; barrier unit u0 = 0. -/
def barDrill : Drill := { drill with u := [(2, 2)] }
def bar : Barrier := ⟨[⟨0, 1, 0⟩], 1, 2⟩
def barred : State := { up with cores := [(0, { core barDrill with barriers := [(0, bar)] })] }
theorem test_barrier : let w := word 9 2 0 0 2 0 0 ||| au ||| bu
    Ready barred ref ⟨w, false⟩ 9 2 barDrill path barDrill.live ∧ (barDrill.srcA w 0).toNat = 0 ∧ (barDrill.srcB w 0).toNat = 2 ∧
      find? (barred.core 0).barriers 0 = some bar ∧ ref ∉ bar.waiting ∧ bar.waiting.length + 1 = 2 := by decide +kernel
/-- A first arrival, and one of two at a unit of three. -/
theorem test_barrier_first : let w := word 9 2 0 0 2 0 0 ||| au ||| bu
    Ready (withDrill barDrill) ref ⟨w, false⟩ 9 2 barDrill path barDrill.live ∧ find? ((withDrill barDrill).core 0).barriers 0 = none := by decide +kernel
def bar3 : State := { up with cores := [(0, { core { drill with u := [(2, 3)] } with barriers := [(0, { bar with count := 3 })] })] }
theorem test_barrier_wait : let w := word 9 2 0 0 2 0 0 ||| au ||| bu
    Ready bar3 ref ⟨w, false⟩ 9 2 { drill with u := [(2, 3)] } path 0xF ∧ find? (bar3.core 0).barriers 0 = some { bar with count := 3 } := by decide +kernel
/-- uc = 1 at a free unit; uc = 2 at a unit whose count is 3. -/
theorem test_barrier_one_mismatch : let w := word 9 2 0 0 2 0 0 ||| au ||| bu
    Ready (withDrill { drill with u := [(2, 1)] }) ref ⟨w, false⟩ 9 2 { drill with u := [(2, 1)] } path 0xF ∧
      Ready { up with cores := [(0, { core barDrill with barriers := [(0, { bar with count := 3 })] })] } ref ⟨w, false⟩ 9 2 barDrill path 0xF := by
  decide +kernel
/-- After the last arrival the unit is free and the drill runs. -/
theorem test_cbar_last : (match Machine.exec (.cbar ref ⟨word 9 2 0 0 2 0 0 ||| au ||| bu, false⟩) barred with
    | .next t => ((find? (t.core 0).barriers 0).isNone, (t.drill? ref).bind fun z => z.cur.map (·.pc))
    | _ => (false, none)) = (true, some 0x1008) := by decide +kernel

theorem test_amm : ReadyS base (word 10 0 4 1 0 0 0 ||| du ||| au) 10 0 ∧ (base.core 0).queue.length < 8 ∧
    base.tracked 0 [granules (drill.srcA (word 10 0 4 1 0 0 0 ||| du ||| au) 0).toNat 1] [] = false := by decide +kernel
theorem test_xsub : ReadyS base (word 11 0 4 1 0 0 0 ||| du ||| au) 11 0 ∧ (base.core 0).xfers.length < 64 ∧ base.tracked 0 [granules 3 2] [] = false := by
  decide +kernel
/-- Tokens: u1 = 3. Nothing has completed at `base`; at `after` everything has. -/
def after : State := withCore fun c => { c with arrayDone := 3, xferDone := 3 }
theorem test_token_waits : ReadyS after (word 10 1 0 1 0 0 0 ||| au) 10 1 ∧ ReadyS after (word 11 1 0 1 0 0 0 ||| au) 11 1 ∧
    reached (after.core 0).arrayDone 3 ∧ ¬ reached (base.core 0).arrayDone 3 := by decide +kernel
theorem test_token_blocked : ReadyS base (word 10 1 0 1 0 0 0 ||| au) 10 1 ∧ ReadyS base (word 11 1 0 1 0 0 0 ||| au) 11 1 ∧
    drill.srcA (word 11 1 0 1 0 0 0 ||| au) 0 = 3 := by decide +kernel
theorem test_token_polls : ReadyS base (word 10 2 1 1 0 0 0 ||| au) 10 2 ∧ ReadyS base (word 11 2 1 1 0 0 0 ||| au) 11 2 := by decide +kernel
theorem test_token_fences : ReadyS base (word 10 3 0 0 0 0 0) 10 3 ∧ ReadyS base (word 11 3 0 0 0 0 0) 11 3 ∧ drill.failed = [] := by decide +kernel

/-- Code from composition address 0 on, 16 MiB. -/
theorem test_branch : ReadyS (bound base) (wordI 12 0 0 0 0 0xFFFFFF) 12 0 ∧ GoodTarget (bound base) drill 0xFF8 ∧
    (0x1000 : BitVec 48) + 8 * ((wordI 12 0 0 0 0 0xFFFFFF).extractLsb' 0 24 : BitVec 24).signExtend 48 = 0xFF8 := by decide +kernel
theorem test_brind_call : ReadyM (bound (withDrill mdrill)) (word 12 1 0 2 0 0 0) 12 1 ∧ GoodTarget (bound (withDrill mdrill)) mdrill 0 ∧
    ReadyS (bound base) (wordI 12 2 4 0 0 3) 12 2 ∧ GoodTarget (bound base) drill 0x1018 := by decide +kernel
theorem test_exit : ReadyS base (word 12 3 0 0 0 0 0) 12 3 ∧ drill.paths = [] := by decide +kernel
theorem test_exit_part : Ready (withDrill halves) ref ⟨word 12 3 0 0 0 0 0, false⟩ 12 3 halves { path with mask := 3 } 3 ∧
    (∀ q ∈ halves.paths, q.mask &&& 3 = 0 ∧ q.wait ≠ .sync) ∧ ∃ q ∈ halves.paths, q.mask ≠ 0 := by decide +kernel
theorem test_nop_sreg : ReadyS base (word 12 4 0 0 0 0 0) 12 4 ∧ ∀ i ∈ List.range 12, ReadyS base (wordI 12 7 4 0 0 i) 12 7 := by decide +kernel
theorem test_trap : ReadyS base (wordI 12 5 0 0 0 0x85) 12 5 ∧ ReadyS base (wordI 12 5 0 0 0 0x05) 12 5 ∧ ReadyS base (word 12 6 0 0 0 0 0) 12 6 := by
  decide +kernel
/-- MOD beyond IADD's (illegal), operation 31 of class 12 (unlisted). -/
theorem test_illegal : base.coreIssues 0 = true ∧ activeMask drill (word 0 2 3 1 2 0 1) 0xF = 0xF ∧ legalWord (word 0 2 3 1 2 0 1) = false ∧
    iCls (word 0 2 3 1 2 0 1) = 0 ∧ iOp (word 0 2 3 1 2 0 1) = 2 ∧ opSpec (word 12 31 0 0 0 0 0) = none := by decide +kernel
/-- @p1 with p1 false everywhere. -/
theorem test_empty_mask : let w := word 12 5 0 0 0 0 0x85 ||| 0x8800000000000000
    activeMask drill w 0xF = 0 ∧ iCls w = 12 ∧ iOp w = 5 := by decide +kernel

/-! ### Drill events -/

def launch : Launch := ⟨0x1000, 0xF, 0x0000000500000006, 0x2000000000000000, 0, 0, 1⟩
def queued : State := { up with cores := [(0, { Core.reset with launches := [launch], domainOn := true })] }
theorem test_launch : queued.coreIssues 0 = true ∧ (queued.core 0).launches = [launch] ∧ launch.ok = true ∧ launch.engine < 4 ∧
    ((queued.core 0).freeSlots launch.engine).head? = some 0 := by decide +kernel
/-- 16 registers; u0 the upper half of word 2. -/
theorem test_launch_take : (match Machine.exec (.launchRecordTake 0) queued with
    | .next t => (find? (t.core 0).drills (8 * launch.engine)).map fun x => (x.nregs, x.ureg 0, x.ureg 1, x.greg 3 0)
    | _ => none) = some (16, 5, 6, 3) := by decide +kernel
def trapRec : TrapRec := ⟨.report, 0x1000, 0xF, 0xF, wordI 12 5 0 0 0 5, 5⟩
def parkedDrill : Drill := { drill with status := .parked trapRec }
def faultRec : FaultRec := ⟨faultWords ref parkedDrill trapRec 0, 0⟩
def waitingDie : State := { base with dies := [(0, { Die.reset with faultWait := [faultRec] })] }
theorem test_fault_wait : (waitingDie.die 0).faultWait = [faultRec] ∧ (waitingDie.die 0).faults.length < 256 := by decide +kernel
def draining : Drill := { drill with cur := none, status := .draining 0x1000 0xF (word 12 3 0 0 0 0 0) }
theorem test_drain : (withDrill draining).drill? ref = some draining ∧ (∀ a ∈ ((withDrill draining).core 0).queue, a.drill ≠ ref) ∧
    draining.unperformed = [] ∧ draining.failed = [] := by decide +kernel
/-- A report's default is to skip; other outcomes need debug unlock with scope bit 0. -/
def parked : State := bound { withDrill parkedDrill with dies := [(0, { Die.reset with faults := [faultRec] })] }
def unlocked : State := { parked with sec := { Sec.reset with scope := 1, debugNow := true, expiry := 2 ^ 63 } }
theorem test_parked : parked.inService = true ∧ parked.drill? ref = some parkedDrill ∧ (parked.outcomeOk parkedDrill trapRec .skip = true) ∧
    faultRec.isFor ref parkedDrill trapRec = true := by decide +kernel
theorem test_parked_unlocked : unlocked.outcomeOk parkedDrill trapRec .kill = true ∧ unlocked.outcomeOk parkedDrill trapRec .replay = true ∧
    trapRec.trap.deferred = false := by decide +kernel
/-! ## Witnesses: the furrow array and the transfer engines -/

/-- One tile of 32 × 32 BF16 weights at granule 0, one BF16 vector at 64, an FP32 output row at 128. -/
def adesc : List DWord := [0x23104800_00000000, 0x0000001000000000, 0x0040000000000000, 0]
def ains : ArrayInstr :=
  { token := 1, drill := ref, context := 1, comp := 0, desc := adesc, descPoisoned := false, safeguard := 0, phase := .queued, poisonMet := false,
    acc := [], y0 := [], y1 := [], nanVec := [], init := [], sat := 0, ufl := 0, nan := 0, freedW := false, freedA := false, freedI := false,
    index := 0, seq := 1, canary := false }
def arr (a : ArrayInstr) (sh : Option WeightSet) : State := withCore fun c => { c with queue := [a], arrayNext := 1, seq := 1, shadow := sh }
def wset : WeightSet := ⟨1, 0, List.replicate 2048 0, [], []⟩
/-- The descriptor's fields (Table 03-4). -/
theorem test_array_desc : ains.d.wfmt = 0x11 ∧ ains.d.afmt = 0x11 ∧ ains.d.ofmt = 0x12 ∧ ains.d.nb = 1 ∧ ains.d.kt = 1 ∧ ains.d.nc = 32 ∧ ains.d.kr = 32 ∧
    ains.d.aaddr = 64 ∧ ains.d.oaddr = 128 ∧ ains.d.valid = true ∧ ains.d.outl = false := by decide +kernel
theorem test_array_start : (arr ains none).coreIssues 0 = true ∧ ((arr ains none).core 0).queue = [ains] ∧ ains.phase = .queued ∧
    ((arr ains none).core 0).xfers = [] ∧ ((arr ains none).core 0).canaryDue = false ∧ (arr ains none).revokedCtx ains.context = false ∧ (∀ b ∈ ((arr ains none).core 0).queue, b.seq < ains.seq → anyOverlap ains.reads b.writes = false) := by decide +kernel
/-- The descriptor with a reserved bit is invalid. -/
theorem test_array_invalid : ({ ains with desc := [0, 0, 0, 1] } : ArrayInstr).d.valid = false ∧ (arr { ains with desc := [0, 0, 0, 1] } none).drill? ref = some drill := by
  decide +kernel
def loaded : ArrayInstr := { ains with phase := .loading 0 }
theorem test_array_swap : SliceUp (arr loaded (some wset)) 0 ∧ loaded.nextTile = some 0 ∧ ((arr loaded (some wset)).core 0).shadow = some wset ∧
    wset.token = loaded.token ∧ wset.tile = 0 ∧ loaded.d.acc = false ∧ ((arr loaded (some wset)).core 0).canaryDue = false := by decide +kernel
/-- Entry (0, 3) is 1.0, the others 0. -/
def streamed : ArrayInstr := { ains with phase := .streaming 0, acc := [(3, 0x3F800000)] }
theorem test_array_complete : SliceUp (arr streamed none) 0 ∧ ((arr streamed none).core 0).queue = [streamed] ∧ streamed.phase = .streaming (streamed.d.kt - 1) ∧
    streamed.poisonMet = false ∧ streamed.chkAction = 0 ∧ streamed.canary = false ∧ streamed.d.nb = 1 ∧ fmtScaled streamed.d.ofmt = false := by decide +kernel
theorem test_array_rows : (∀ b, b < streamed.d.nb → (drainVector streamed.d.ofmt ((List.range streamed.d.nc).map fun j => accEntry streamed b j)).2.1 = []) ∧
    ∀ b, b < streamed.d.nb → (drainVector streamed.d.ofmt ((List.range streamed.d.nc).map fun j => accEntry streamed b j)).1.length = outLen streamed.d := by
  decide +kernel
/-- The row stands at granule 128: 1.0 at bytes 12 to 15. -/
theorem test_array_output : (match Machine.exec (.arrayInstrComplete 0) (arr streamed none) with
    | .next t => (leNat (readBytes (t.core 0).seedbed (32 * 128 + 12) 4), (t.core 0).arrayDone)
    | _ => (0, 0)) = (0x3F800000, 1) := by decide +kernel
theorem test_array_poisoned : let a : ArrayInstr := { streamed with poisonMet := true }
    ((arr a none).core 0).queue = [a] ∧ a.drill.slice = 0 ∧ (arr a none).drill? a.drill = some drill ∧ drill.context = a.context := by decide +kernel

/-- A composition in the EMIT state of a canary pass (every 2nd, pass 4), and slice 0 with one instruction kept of two counted. -/
def canaryComp : Comp := { comp0 with cur := { map0 with slices := [0], safeguard := 2 }, serve := { Serve.reset with st := .emit, pass := 4 } }
def canaried : State :=
  { withCore fun c => { c with canaries := [⟨{ ains with canary := true }, [], true⟩], passInstrs := 2 } with
    yoke := { up.yoke with comps := [(0, canaryComp)] } }
theorem test_canary : SliceUp canaried 0 ∧ canaried.comp? 0 = some canaryComp ∧ canaried.canaryPass 0 = true ∧ canaryComp.serve.canaryDone = false ∧
    (canaried.canaryWork 0).map (·.instr.comp) = some 0 ∧ (canaried.core 0).canaryDue = true := by decide +kernel

/-! ### Transfers -/

/-- 64 bytes from seedbed 0x100 to seedbed 0x1000, counted at counter 2 of slice 0, completion record at granule 512. -/
def xdesc : List DWord := [0x0003000000000040, 0x100, 0x1000, 0, 2, 512, 0, 0]
def xfer (ph : XferPhase) (dn : List Nat) : Xfer :=
  { token := 1, use := .drill ref, context := 1, comp := 0, epoch := 0, desc := xdesc, descPoisoned := false, oddDesc := false, phase := ph,
    issued := 0, done := dn, bad := [], freedR := false, seq := 1 }
def moving (ph : XferPhase) (dn : List Nat) : State :=
  { withCore fun c => { c with xfers := [xfer ph dn], xferNext := 1, seq := 1, tallies := [(2, ⟨0, some 1, false⟩)] } with
    dies := [(0, { Die.reset with engines := if ph = .waiting then [] else [(0, some 0)] })] }
theorem test_transfer_start : (moving .waiting []).takeable ⟨0, 0⟩ = some (xfer .waiting []) ∧ visitOrder 0 = [8] ++ 0 :: [1, 2, 3, 4, 5, 6, 7] ∧
    (moving .waiting []).takeable ⟨0, 8⟩ = none ∧ ((moving .waiting []).die 0).working 0 < (moving .waiting []).xferCap ⟨0, 0⟩ ∧
    (xfer .waiting []).remote (moving .waiting []) = false ∧ (xferDesc xdesc).valid xdesc = true := by decide +kernel
/-- Of a panel that lists only die 0, no die has a failed channel when die 0 has none. -/
theorem no_fault (s : State) (x : Die) (h : s.dies = [(0, x)]) (hx : x.ifFault = false) : ∀ d, s.dieUp d = true → (s.die d).ifFault = false := by
  intro d _
  show (getD Die.reset s.dies d).ifFault = false
  rw [h]
  unfold getD find? find?
  by_cases hd : (0 : Nat) = d
  · simp [hd, hx]
  · simp [hd, Die.reset]
/-- So it is of a panel whose listed dies have none. -/
theorem sound_all (s : State) (h : (s.dies.all fun e => !e.2.ifFault) = true) : ∀ d, s.dieUp d = true → (s.die d).ifFault = false := by
  intro d _
  show (getD Die.reset s.dies d).ifFault = false
  unfold getD
  generalize s.dies = l at h
  induction l with
  | nil => rfl
  | cons e l ih =>
    simp only [List.all_cons, Bool.and_eq_true] at h
    unfold find?
    by_cases hd : e.1 = d
    · simpa [hd] using h.1
    · simpa [hd] using ih h.2
theorem test_transfer_chunk : SeedbedChunk (moving (.running 0) []) ⟨0, 0⟩ 1 0 (xfer (.running 0) []) 0 0 64 ∧ (xferDesc xdesc).tally = true ∧
    (xferDesc xdesc).tslice = 0 ∧ ((moving (.running 0) []).core 0 |>.tally (xferDesc xdesc).tctr).owner = some 1 := by
  refine ⟨⟨by decide, by decide +kernel, by decide +kernel, by decide +kernel, ⟨0, by decide +kernel, by decide +kernel⟩, by decide +kernel, by decide +kernel,
    by decide +kernel, no_fault _ _ rfl rfl, by decide +kernel, by decide +kernel, by decide +kernel, by decide +kernel, trivial⟩, by decide +kernel⟩
/-- The tally gains the 64 bytes, once. -/
theorem test_transfer_tally : (match Machine.exec (.transferChunkArrive ⟨0, 0⟩ 1 0) (moving (.running 0) []) with
    | .next t => ((t.core 0).tally 2).value
    | _ => 0) = 64 := by decide +kernel
theorem test_transfer_complete : let s := moving (.running 0) [0]
    s.xfer? ⟨0, 0⟩ 1 = some (xfer (.running 0) [0]) ∧ (xfer (.running 0) [0]).done.length = (xferDesc xdesc).total ∧ s.link.conns = [] ∧
      (s.core 0).early = [] ∧ (1 : Word) = (s.core 0).xferDone + 1 ∧ (xferDesc xdesc).crec = true := by decide +kernel
/-! ## Witnesses: coherence and stacks -/

def homed (d : Dir) : State := { bound base with dies := [(0, { Die.reset with gran := [(0, { gline with secs := [(0, { gsec with dir := d })] })] })] }
theorem test_home_idle : HomeIdle (homed .un) 0 ∧ (homed .un).gsec? 0 = some { gsec with dir := .un } := by decide +kernel
theorem test_home_idle_readers : HomeIdle (homed (.sh [1])) 0 ∧ (homed (.sh [1])).gsec? 0 = some { gsec with dir := .sh [1] } ∧
    (homed (.sh [1])).dieUp (1 / 8) = true := by decide +kernel
theorem test_home_idle_owner : HomeIdle (homed (.ex 1)) 0 ∧ (homed (.ex 1)).gsec? 0 = some { gsec with dir := .ex 1 } ∧
    (∀ o, (Dir.sh [1]) ≠ .ex o) ∧ (homed .un).agentRevoked .bar4 = false := by
  refine ⟨by decide +kernel, by decide +kernel, by simp, by decide +kernel⟩
/-- The last sector of the panel's DRAM. -/
theorem test_home_last : HomeIdle (homed .un) (dramBytes / 256 - 1) ∧ homeOf (dramBytes / 256 - 1) = 23 := by decide +kernel
/-- GetS from slice 5 beside a reader on slice 1: two pointers. -/
theorem test_getS : (match Machine.exec (.getS 0 5 0) (homed (.sh [1])) with
    | .next t => ((t.gsec? 0).map (·.dir), t.net.length)
    | _ => (none, 0)) = (some ((Dir.sh [1]).join 5), 1) := by decide +kernel

def busyTrans (r : HomeReq) (as : List Nat) (o : Option (Nat × Bool)) (fill : Bool) : Trans := ⟨r, as, o, fill, false, false⟩
def busy (d : Dir) (tr : Trans) : State :=
  { base with dies := [(0, { Die.reset with gran := [(0, { gline with secs := [(0, { gsec with dir := d })] })], trans := [(0, tr)] })] }
theorem test_home_acks : HomeBusy (busy (.sh [2]) (busyTrans (.getM 1 0 false) [2] none false)) 0 (busyTrans (.getM 1 0 false) [2] none false) ∧
    HomeBusy (busy (.sh [2, 3]) (busyTrans (.getM 1 0 false) [2, 3] none false)) 0 (busyTrans (.getM 1 0 false) [2, 3] none false) := by decide +kernel
theorem test_home_owner_answer : HomeBusy (busy (.ex 2) (busyTrans (.getS 1 0) [] (some (2, false)) false)) 0 (busyTrans (.getS 1 0) [] (some (2, false)) false) ∧
    (busy (.ex 2) (busyTrans (.getS 1 0) [] (some (2, false)) false)).gsec? 0 = some { gsec with dir := .ex 2 } := by decide +kernel
def filling : State := { base with dies := [(0, { Die.reset with trans := [(0, busyTrans (.getS 1 0) [] none true)] })] }
theorem test_home_fill : HomeBusy filling 0 (busyTrans (.getS 1 0) [] none true) ∧ filling.gline? 0 = none ∧
    freeWay ((filling.die 0).setLines (granIndex (256 * 0))) (filling.wayGroup 0) = some 0 ∧ filling.mem.poison.contains 0 = false ∧
    getD 0 filling.mem.parity (channelOf 0) = 0 ∧ (∀ e ∈ filling.mem.errs, e.1 / 4 ≠ 0) := by decide +kernel

def held (st : CState) (ls : List WaitLoad) (ws : List WaitStore) : State :=
  { up with cores := [(0, { core drill with cache := [(0, { line st with loads := ls, stores := ws })] })] }
theorem test_cache_quiet : CacheQuiet (held .s [] []) 0 0 ∧ (held .s [] []).line? 0 0 = some (line .s) ∧ (held .m [] []).line? 0 0 = some (line .m) := by
  decide +kernel
theorem test_cache_waiting : CacheQuiet (held .miA [] []) 0 0 ∧ (held .isD [] []).line? 0 0 = some (line .isD) ∧
    CacheQuiet (held .smD [] [⟨ref, 1, 0, [(0, 7)]⟩]) 0 0 ∧
    (held .smD [] [⟨ref, 1, 0, [(0, 7)]⟩]).line? 0 0 = some { line .smD with stores := [⟨ref, 1, 0, [(0, 7)]⟩] } ∧
    (held .smD [] [⟨ref, 1, 0, [(0, 7)]⟩]).revokedCtx 1 = false := by decide +kernel

/-- A load of two threads whose data is due. -/
def dueDrill (w : DWord) (due : Nat) : Drill := { drill with mem := some ⟨w, 3, [due], [], [], [], false⟩ }
def loads2 : List WaitLoad := [⟨ref, 1, 0, 0, 4, 0, 0, false, false⟩, ⟨ref, 1, 1, 4, 4, 4, 0, false, false⟩]
def awaiting (w : DWord) (due : Nat) : State :=
  { up with cores := [(0, { core (dueDrill w due) with cache := [(0, { line .isD with loads := loads2 })] })] }
theorem test_answer_load : let s := awaiting (word 5 0 8 1 0 0 0x200) 0
    s.inService = true ∧ s.dieUp 0 = true ∧ s.line? 0 0 = some { line .isD with loads := loads2 } ∧ (loads2.map (·.thread)).Nodup ∧
      (s.core 0).drills = [(slotKey ref, dueDrill (word 5 0 8 1 0 0 0x200) 0)] ∧ (∀ w ∈ loads2, w.drill = ref ∧ w.context = drill.context ∧ w.late = false ∧ w.dead = false) := by decide +kernel
def group2 : AtomGroup := ⟨ref, 1, 8, .add, .u32, 4, 0, 0, false, [⟨0, 5, 0⟩, ⟨1, 6, 0⟩]⟩
theorem test_answer_atomic : let w := word 6 0 8 1 10 0 0
    iCls w = 6 ∧ iOp w < 8 ∧ iSize w < 4 ∧ iDU w = false ∧ (dueDrill w (256 * 0 + group2.byte)).mem = some ⟨w, 3, [4], [], [], [], false⟩ ∧ group2.context = drill.context ∧
      group2.members.length = [(9 : DWord), 14].length ∧ (group2.members.map (·.thread)).Nodup := by decide +kernel
/-- The group adds 5 and then 6 to the word at byte 4. -/
theorem test_group : ((groupOnSector group2 (BitVec.ofNat 2048 (9 * 2 ^ 32))).2, sectorByte (groupOnSector group2 (BitVec.ofNat 2048 (9 * 2 ^ 32))).1 4) = ([(9 : DWord), 14], (20 : Byte)) := by decide +kernel

/-- Slice 2 is leaving composition 0. -/
def leaving : State := { homed .un with yoke := { up.yoke with comps := [(0, { comp0 with leaving := [2] })] } }
theorem test_flush : leaving.owner? 2 = some (0, true) ∧ leaving.inService = true ∧ leaving.comp? 0 = some { comp0 with leaving := [2] } ∧
    leaving.drained 0 { comp0 with leaving := [2] } = true := by decide +kernel
def sweeping : State := { homed (.ex 9) with dies := [(0, { (homed (.ex 9)).die 0 with sweep := [1] })] }
theorem test_sweep : (sweeping.die 0).sweep = [1] ∧ (sweeping.die 0).trans = [] ∧ sweeping.gsec? 0 = some { gsec with dir := .ex 9 } ∧ 9 / 8 = 1 ∧
    (sweeping.die 0).gran = [(0, (sweeping.gline? 0).getD ⟨.e, 0, 0, [], []⟩)] := by decide +kernel

/-- Table 10-2: the rows of the refresh rate by temperature. -/
theorem test_refresh_rows : refreshRow 85 = 0 ∧ refreshRow 86 = 1 ∧ refreshRow 95 = 1 ∧ refreshRow 96 = 2 := by decide +kernel
theorem test_stack_up : up.inService = true ∧ up.dieUp 23 = true ∧ max 99 0 < 100 ∧ up.mem.poison.contains (23 * 16 * channelBytes / 256 + 1) = false ∧
    ({ Die.reset with scrubNext := 1 } : Die).scrubPer ≠ 0 := by decide +kernel
def scrubbing : State := { up with dies := [(23, { Die.reset with scrubNext := stackCodewords - 1 })] }
theorem test_scrub : (scrubbing.die 23).scrubNext = stackCodewords - 1 ∧ (stackCodewords - 1 + 1) % stackCodewords = 0 ∧ scrubbing.dieUp 23 = true := by decide +kernel
/-- OP 5, one step, channel 2 (boundaries of Table 10-8's fields). -/
theorem test_margin_word : let w : Word := 0x50000102
    bits w 31 28 = 5 ∧ bits w 22 16 = 0 ∧ bits w 15 8 ≠ 0 ∧ bits w 7 0 ≤ 2 ∧ (∀ k ∈ slicesOf 23, up.owner? k = none) ∧ (up.die 23).margin.busy = false := by
  decide +kernel
def sweep10 : Sweep := { Sweep.reset with steps := 10, busy := true }
def margining : State := { up with dies := [(0, { Die.reset with margin := sweep10, lmargin := sweep10 })], tst := { up.tst with xmargin := sweep10 } }
theorem test_margin_done : (margining.die 0).margin.busy = true ∧ (margining.die 0).lmargin.busy = true ∧ margining.tst.xmargin.busy = true := by decide +kernel
/-- The last passing step is at most the steps asked for. -/
theorem test_margin_result : (match Machine.exec (.memMarginSweepDone 0 4 12 40) margining with
    | .next t => ((t.die 0).margin.low, (t.die 0).margin.high, (t.die 0).margin.lane, (t.die 0).margin.busy)
    | _ => (0, 0, 0, true)) = (4, 10, 35, false) := by decide +kernel
/-! ## Witnesses: fabric and scale-out -/

/-- The check value of the CRC-64 of ECMA-182 inverted at both ends, over the ASCII digits 1 to 9 (the parameters of R308). -/
theorem test_crc64 : crc64 ((List.range 9).map fun i => BitVec.ofNat 8 (0x31 + i)) = 0x62EC59E3F1A4F00A := by decide +kernel
/-- A control flit, SEQ 5, of one message from headland A to die 1; its CRC is computed by hand outside the model. -/
def ctl : BitVec 2304 := BitVec.ofNat 2304 (5 * 2 ^ 52 + 15 * 2 ^ 36 + 2 * 2 ^ 28 + 2 ^ 23 + (1 * 2 ^ 120 + 0x1E * 2 ^ 115) * 2 ^ 64 + 0xEBE0FC698B26B72A * 2 ^ 2240)
def ctlHead : List Byte := [0, 0, 128, 32, 240, 0, 80, 0, 0, 0, 0, 0, 0, 0, 0, 0, 0, 0, 0, 0, 0, 0, 240, 1]
theorem ctl_bytes : flitBytes ctl = ctlHead ++ List.replicate 32 0 ++ List.replicate 32 0 ++ List.replicate 32 0 ++ List.replicate 32 0 ++
    List.replicate 32 0 ++ List.replicate 32 0 ++ List.replicate 32 0 ++ List.replicate 32 0 := by decide +kernel
theorem crc_head : ctlHead.foldl crcByte 0xFFFFFFFFFFFFFFFF = 0x3556929EC75EE021 := by decide +kernel
theorem crc_0 : (List.replicate 32 (0 : Byte)).foldl crcByte 0x3556929EC75EE021 = 0x54595C2D2612B377 := by decide +kernel
theorem crc_1 : (List.replicate 32 (0 : Byte)).foldl crcByte 0x54595C2D2612B377 = 0xF6AE8318BDFD3E25 := by decide +kernel
theorem crc_2 : (List.replicate 32 (0 : Byte)).foldl crcByte 0xF6AE8318BDFD3E25 = 0xD91693FBD53A8063 := by decide +kernel
theorem crc_3 : (List.replicate 32 (0 : Byte)).foldl crcByte 0xD91693FBD53A8063 = 0x68CB52E28E57CDD4 := by decide +kernel
theorem crc_4 : (List.replicate 32 (0 : Byte)).foldl crcByte 0x68CB52E28E57CDD4 = 0x6A7721A321BB6C4A := by decide +kernel
theorem crc_5 : (List.replicate 32 (0 : Byte)).foldl crcByte 0x6A7721A321BB6C4A = 0xAF52848869AA153D := by decide +kernel
theorem crc_6 : (List.replicate 32 (0 : Byte)).foldl crcByte 0xAF52848869AA153D = 0x6CDD72BE895FFE89 := by decide +kernel
theorem crc_7 : (List.replicate 32 (0 : Byte)).foldl crcByte 0x6CDD72BE895FFE89 = 0x141F039674D948D5 := by decide +kernel
theorem ctl_crc : crc64 (flitBytes ctl) = 0xEBE0FC698B26B72A := by
  rw [ctl_bytes]
  simp only [crc64, List.foldl_append, crc_head, crc_0, crc_1, crc_2, crc_3, crc_4, crc_5, crc_6, crc_7]
  decide +kernel
theorem test_flit_ok : flitOk ctl = true := by
  unfold flitOk
  rw [ctl_crc]
  decide +kernel
/-- One bit of the CRC changed. -/
def bad : BitVec 2304 := ctl ^^^ BitVec.ofNat 2304 (2 ^ 2240)
theorem bad_bytes : flitBytes bad = flitBytes ctl := by decide +kernel
theorem test_flit_bad : flitOk bad = false := by
  unfold flitOk
  rw [bad_bytes, ctl_crc]
  decide +kernel
def port0 : PortRef := ⟨0, 0⟩
def hport (st : PortSt) : HPort := { HPort.reset with st := st, agreed := 0x7F, rxSeq := 5, replay := [⟨9, 4, 15, 0, 0, false, ⟨0, none, false, none⟩⟩] }
def fab (st : PortSt) : State := { up with dies := [(0, { Die.reset with ports := [(0, hport st)] })] }
theorem test_flit : Linked (fab .active) port0 ∧ fKind ctl = 2 ∧ fSeq ctl = ((fab .active).hport port0).rxSeq := by decide +kernel
theorem test_flit_messages : fFurther ctl = false ∧ ∀ m ∈ flitMsgs ctl, (fab .active).staleMsg m = false ∧ m.dst = 1 ∧ m.src = 0x1E := by decide +kernel
/-- A data flit with NMSG 0 after a data flit whose message continues. -/
def further : BitVec 2304 := BitVec.ofNat 2304 (6 * 2 ^ 52 + 15 * 2 ^ 36 + 2 ^ 28)
theorem test_flit_further : fFurther further = true ∧ fKind further = 1 ∧ fSeq further = 6 ∧ (Config.continues 0 = true →
    ({ Switch.reset with inbox := [⟨0, 5, [], ⟨0, some 0, false, none⟩⟩] } : Switch).waitsMore 0 (fSeq further) = some 0) := by
  refine ⟨by decide +kernel, by decide +kernel, by decide +kernel, fun h => ?_⟩
  have : fSeq further = 6 := by decide +kernel
  have h0 : Config.continues 0#128 = true := h
  simp [Switch.waitsMore, this, HdgMsg.whole, h0]
/-- SEQ 6 before 5: a gap, and every active group NAKs SEQ 5. -/
theorem test_flit_gap : let f := BitVec.ofNat 2304 (6 * 2 ^ 52 + 15 * 2 ^ 36 + 2 * 2 ^ 28)
    fKind f = 2 ∧ fSeq f ≠ ((fab .active).hport port0).rxSeq ∧ (fSeq f - ((fab .active).hport port0).rxSeq).toNat < 2048 ∧
      ((fab .active).hport port0).gap = false := by decide +kernel
theorem test_replay : (∃ e ∈ ((fab .active).hport port0).replay, e.seq = 9) ∧ ((fab .active).hport port0).replay ≠ [] ∧
    bit ((fab .active).hport port0).agreed 6 = true ∧ bit ((fab .active).hport port0).agreed 7 = false ∧ (hport .active).nakRun < 7 := by decide +kernel
theorem test_bypass_lost : let s : State := { up with dies := [(0, { Die.reset with ports := [(0, { hport .active with bypassUp := 0x80 })] })] }
    bit (s.hport port0).agreed 7 = false ∧ bit (s.hport port0).bypassUp 7 = true ∧ s.nodeUp port0.node = true := by decide +kernel
/-- Two flits kept, of which the second is for a reroute buffer with no room left: the message waits behind it. -/
theorem test_reroute_full : let w : Switch := { Switch.reset with reroute := List.replicate 512 ⟨0, ⟨0, none, false, none⟩, false⟩ }
    w.rerouteRoom 0 = 0 ∧ w.rerouteRoom 1 = 512 := by decide +kernel

theorem test_training : Training (fab .training) port0 ∧ ((fab .training).hport port0).offerOut = none ∧ ((fab .training).hport port0).offerIn = none ∧
    ((fab .training).hport port0).confirmOut = none := by decide +kernel
/-- Both OFFERs exchanged: groups 0x0F and 0x3C give the CONFIRM 0x0C. -/
def agreeing : State := { up with dies := [(0, { Die.reset with ports := [(0, { HPort.reset with st := .training, offerOut := some 0x0F, offerIn := some 0x3C })] })] }
theorem test_agreeing : Training agreeing port0 ∧ (agreeing.hport port0).confirmIn = none ∧ (0x0F : Byte) &&& 0x3C = 0x0C := by decide +kernel
/-- The OFFER 0x0F sent; 0xF0 shares no group with it. -/
def offered : State := { up with dies := [(0, { Die.reset with ports := [(0, { HPort.reset with st := .training, offerOut := some 0x0F })] })] }
theorem test_offered : Training offered port0 ∧ (offered.hport port0).offerIn = none ∧ (offered.hport port0).confirmIn = none ∧
    (0x0F : Byte) &&& 0xF0 = 0 ∧ (0x0F : Byte) &&& 0x3C ≠ 0 := by decide +kernel
/-- With CONFIRM 0x0C sent and received the port is active on the two groups. -/
theorem test_confirm : (match Machine.exec (.hdgConfirm port0 0x0C) agreeing with
    | .next t => ((t.hport port0).st, (t.hport port0).agreed, getD 0 (t.hport port0).credits 8)
    | _ => (.off, 0, 0)) = (.active, 0x0C, 448) := by decide +kernel

/-- Dies 0 and 1 side by side, ports E of 0 and W of 1 active, a message for die 1 and one for die 0 in die 0's switch. -/
def mesh (st : PortSt) : State :=
  let hm (d : Nat) : HdgMsg := ⟨BitVec.ofNat 128 (2 ^ 125 + d * 2 ^ 120 + 0x1E * 2 ^ 115), none, false, none⟩
  let act : HPort := { HPort.reset with st := st, credits := [(1, 8)] }
  { up with dies := [(0, { Die.reset with ports := [(1, act)], sw := { Switch.reset with inbox := [⟨0, 0, [8], hm 1⟩, ⟨0, 1, [8], hm 0⟩] } }),
                     (1, { Die.reset with pos := 1, ports := [(3, act)] })] }
theorem test_forward_hop : let h : Held := ⟨0, 0, [8], ⟨BitVec.ofNat 128 (2 ^ 125 + 2 ^ 120 + 0x1E * 2 ^ 115), none, false, none⟩⟩
    HeldAt (mesh .active) 0 0 h ∧ way (mesh .active) 0 h = .hop 1 (.port 1 ⟨0, 1⟩) ∧
      (mesh .active).portAt ((mesh .active).spotOf 0 0) 1 = some ⟨0, 1⟩ ∧ ((mesh .active).hport ⟨0, 1⟩).canSend (h.msg.setLevel 1) = true := by decide +kernel
/-- Die 0 sends a message of its own to die 1, with the turn that its route table gives. -/
def routed : State := { mesh .active with dies := [(0, { (mesh .active).die 0 with sw := { Switch.reset with routes := [(1, ⟨1, 0, 0, 0⟩)] } }), (1, (mesh .active).die 1)] }
def own : HdgMsg := ⟨BitVec.ofNat 128 (2 ^ 125 + 2 ^ 120), none, false, none⟩
theorem test_forward_injected : Passes routed 0 (routed.stamp 0 own) ∧ find? (routed.switch 0).routes own.dst = some ⟨1, 0, 0, 0⟩ ∧ own.dst ≠ 0 ∧
    wayOf routed (routed.spotOf 0 (routed.column 0 4 (routed.stamp 0 own))) (routed.stamp 0 own) = .hop 1 (.port 1 ⟨0, 1⟩) ∧
    routed.portAt (routed.spotOf 0 (routed.column 0 4 (routed.stamp 0 own))) 1 = some ⟨0, 1⟩ ∧
    (routed.hport ⟨0, 1⟩).canSend ((routed.stamp 0 own).setLevel 1) = true := by decide +kernel
theorem test_forward_blocked : let h : Held := ⟨0, 0, [8], ⟨BitVec.ofNat 128 (2 ^ 125 + 2 ^ 120 + 0x1E * 2 ^ 115), none, false, none⟩⟩
    HeldAt (mesh .down) 0 0 h ∧ way (mesh .down) 0 h = .hop 1 (.blocked 1) ∧ h.msg.flits ≤ ((mesh .down).switch 0).rerouteRoom 1 := by decide +kernel
theorem test_forward_deliver : let h : Held := ⟨0, 1, [8], ⟨BitVec.ofNat 128 (2 ^ 125 + 0x1E * 2 ^ 115), none, false, none⟩⟩
    HeldAt (mesh .active) 0 1 h ∧ way (mesh .active) 0 h = .deliver ∧ (mesh .active).unitWaits 0 h.msg = false := by decide +kernel

/-! ### Scale-out -/

def scaled : State :=
  { up with link := { up.link with up := 0x0003, sysAddr := some (7, 2) }, yoke := { up.yoke with comps := [(0, { comp0 with span := true })] },
            nv := { up.nv with portMap := 0x5 }, start := { up.start with portMap := 0x5 } }
def eth0 : EthHdr := ⟨0x03474C000001, 0, none, 0x88B5⟩
/-- A frame from panel 9: a WRITE of four bytes to byte 0x40 of slice 0's seedbed, SEQ 0. -/
def wframe : TltFrame := ⟨eth0, tltW0 0 2 9 7 0, 0x40, tltW2 1 0 0 0 0 false 0 4, tltW3 0 0x3 0, [1, 2, 3, 4]⟩
/-- The region of composition 0 in `scaled` begins above the address. -/
def high : State := { scaled with yoke := { up.yoke with comps := [(0, { comp0 with span := true, cur := { map0 with regions := [] } })] } }
theorem test_tlt_write : Arrives high 0 wframe 0 ∧ tCgen wframe = (high.conn (rxKey 0 wframe)).rxGen ∧
    find? (high.conn (rxKey 0 wframe)).rxSeen (tSeq wframe).toNat = none ∧ (tSeq wframe - (high.conn (rxKey 0 wframe)).rxBase).toNat < 256 := by decide +kernel
theorem test_tlt_write_place : high.heldAlready 0 wframe = false ∧ Sound high ∧ high.revokedCtx (tContext wframe) = false ∧ high.epochUse 0 0 = .live ∧
    high.translate 0 0 0x40 = none ∧ sliceForm wframe.w1 = some (0, 0x40) ∧ high.sliceStatus 0 0 0 = 0 ∧ tTally wframe = false ∧
    (high.core 0).saved = none ∧ bit (tPoison wframe) 0 = false :=
  ⟨by decide +kernel, sound_all _ (by decide +kernel), by decide +kernel, by decide +kernel, by decide +kernel, by decide +kernel, by decide +kernel,
    by decide +kernel, by decide +kernel, by decide +kernel⟩
theorem test_tlt_write_done : (match Machine.exec (.tltWrite 0 wframe) high with
    | .next t => (readBytes (t.core 0).seedbed 0x3F 6, (t.conn (rxKey 0 wframe)).ackDue)
    | _ => ([], false)) = ([0, 1, 2, 3, 4, 0], true) := by decide +kernel
def peered (f : Conn → Conn) : State := { scaled with link := { scaled.link with conns := [(9, f Conn.fresh)] } }
theorem test_tlt_duplicate : let s := peered fun c => { c with rxSeen := [(0, 0)] }
    Arrives s 0 wframe 0 ∧ rxKey 0 wframe = 9 ∧ find? (s.conn 9).rxSeen 0 = some 0 := by decide +kernel
theorem test_tlt_ack_due : let s := peered fun c => { c with ackDue := true, peerPorts := 3 }
    s.inService = true ∧ (s.conn (connKey 0 9)).ackDue = true ∧ (pickPort (s.livePorts 0 (s.conn (connKey 0 9)).peerPorts) (s.conn (connKey 0 9)).nextPort none).isSome = true := by
  decide +kernel
def rframe : TltFrame := ⟨eth0, tltW0 1 2 9 7 3, 0x40, tltW2 1 0 0 0 0 false 0 4, tltW3 0 0x3 0, []⟩
theorem test_tlt_read : Arrives scaled 0 rframe 1 ∧ tCgen rframe = (scaled.conn (rxKey 0 rframe)).rxGen ∧ scaled.heldAlready 0 rframe = false ∧
    find? scaled.tst.captures (tComp rframe) = none ∧ scaled.revokedCtx (tContext rframe) = false ∧ CanAnswer scaled 0 rframe := by decide +kernel
theorem test_tlt_read_data : scaled.epochUse 0 0 = .live ∧
    (match (learnt scaled 0 rframe).readDevice (readsFor scaled 0 rframe) (pieces 0x40 4 18) with
      | .ok (u, bs) => decide (bs = [(0, false), (0, false), (0, false), (0, false)]) && decide (u.link = (learnt scaled 0 rframe).link) &&
          u.dies.all (fun e => !e.2.ifFault)
      | _ => false) = true := by decide +kernel
def sent0 (use : SentUse) : SentFrame := ⟨0, wframe, 0, 0, 10, 7, 0, use⟩
def lframe : TltFrame := ⟨eth0, tltW0 2 2 9 7 0, 0x40, tltW2 1 0 0 0 0 false 0 256, tltW3 0 0x3 0, List.replicate 256 7⟩
def leased : State :=
  { (peered fun c => { c with reads := [sent0 (.lease 0 5)] }) with dies := [(0, { Die.reset with leases := [(5, ⟨0, 0, 0, 0, false, 0, 100, true, [], false⟩)] })] }
theorem test_tlt_lease : Arrives leased 0 lframe 2 ∧ leased.readOf 0 lframe = some (sent0 (.lease 0 5)) ∧ leased.heldAlready 0 lframe = false ∧
    tCgen lframe = (leased.conn (rxKey 0 lframe)).txGen ∧ tStatus lframe = 0 ∧ tPoison lframe = 0 ∧
    leased.lease? 0 5 = some ⟨0, 0, 0, 0, false, 0, 100, true, [], false⟩ := by decide +kernel
def aframe : TltFrame := ⟨eth0, tltW0 3 2 9 7 0, 0, tltW2 0 0 0 0 0 false 0 32, tltW3 0 0x3 0, List.replicate 32 0⟩
/-- A transfer of 64 bytes of device memory 0 to panel 9, all of it sent. -/
def rxfer : Xfer := { xfer (.running 0) [] with desc := [0x0300000000000040, 0x0, 0x0009000000000000, 0, 0, 0, 0, 0], issued := 1 }
def acked0 : State :=
  { (peered fun c => { c with window := [sent0 (.xfer ⟨0, 0⟩ 1 0)] }) with cores := [(0, { core drill with xfers := [rxfer] })] }
theorem test_tlt_ack : Arrives acked0 0 aframe 3 ∧ tCgen aframe = (acked0.conn (rxKey 0 aframe)).txGen ∧
    (acked0.conn (rxKey 0 aframe)).window.filter (fun e => ackCovers aframe e.seq) = [sent0 (.xfer ⟨0, 0⟩ 1 0)] ∧
    acked0.xfer? ⟨0, 0⟩ 1 = some rxfer ∧ rxfer.context = tContext (sent0 (.xfer ⟨0, 0⟩ 1 0)).frame ∧ tStatus aframe = 0 ∧ (xferDesc rxfer.desc).frameFrom rxfer.issued = [] := by decide +kernel
/-- An ACK covers its SEQ, and SEQ + k by bit k - 1 of its bitmap (R334). -/
theorem test_ack_bitmap : let f : TltFrame := { aframe with w0 := tltW0 3 2 9 7 10, payload := 2 :: List.replicate 31 0 }
    ackCovers f 10 = true ∧ ackCovers f 11 = false ∧ ackCovers f 12 = true ∧ ackCovers f 9 = true := by decide +kernel

def late : State := { (peered fun c => { c with window := [sent0 (.lease 0 5)], peerPorts := 3 }) with time := { up.time with now := 10 ^ 9 } }
theorem test_retransmit : let s := late
    (s.conn (connKey 0 9)).window.find? (fun e => decide (e.seq = 0)) = some (sent0 (.lease 0 5)) ∧
      (sent0 (.lease 0 5)).sentAt + 10 * 1000 ≤ s.time.now ∧ s.revokedCtx (tContext wframe) = false ∧ s.livePorts 0 (s.conn (connKey 0 9)).peerPorts ≠ [] := by decide +kernel
def disc : Discovery := ⟨eth0, 5, 0, true, 7, 2, 1, 0⟩
def unassigned : State := { up with link := { up.link with up := 1, nonce := some 5 } }
theorem test_discovery : eth0.type = unassigned.tltEtherType ∧ eth0.type = scaled.tltEtherType ∧ unassigned.portUp 0 = true ∧ unassigned.link.sysAddr = none ∧ unassigned.link.nonce = some disc.nonce ∧
    disc.panelId = unassigned.sec.panelId ∧ scaled.addr? = some (7, 2) ∧ disc.address.toNat = 7 ∧ ({ disc with panelId := 1 } : Discovery).panelId ≠ scaled.sec.panelId := by
  decide +kernel
theorem test_ports : scaled.portUp 1 = true ∧ bit scaled.link.up 2 = false ∧ (let s : State := { scaled with start := { scaled.start with portMap := 0x10 } }
    bits s.start.portMap 5 4 ≠ 0) ∧ scaled.link.sysAddr.isSome = true := by decide +kernel
/-- A frame of another EtherType is dropped, one that the MAC passes is not; a tag is in the frame when XLT_VLAN enables it. -/
theorem test_mac : scaled.macPasses ⟨eth0, 64, true, false, 1, 0⟩ = true ∧ scaled.macPasses ⟨eth0, 4151, true, false, 1, 0⟩ = false ∧
    scaled.macPasses ⟨eth0, 64, true, true, 1, 0⟩ = false ∧ scaled.macPasses ⟨{ eth0 with type := 0x88B6 }, 64, true, false, 1, 0⟩ = false ∧
    scaled.vlanTag = none ∧ ({ scaled with regs := { scaled.regs with vals := [(Reg.off .xltVlan 0 0, 0x16005)] } } : State).vlanTag = some 0x6005 := by decide +kernel

/-! ### Device time -/

def timed (f : Time → Time) : State :=
  { up with link := { up.link with up := 1 }, time := f { up.time with port := some 0, running := true, st := .acquiring }, regs := { up.regs with vals := [(Reg.off .timPtpCfg 0 0, 0x100)] } }
def ptpHdr : PtpHdr := ⟨⟨ptpAddress, 0, none, 0x88F7⟩, 0⟩
/-- A Sync of another domain is not taken; a stamp is within 4 ns of the counter. -/
theorem test_ptp_domain : (timed id).takesPtp 0 ptpHdr = true ∧ (timed id).takesPtp 0 { ptpHdr with domain := 1 } = false ∧
    (timed fun t => { t with now := 100 }).eventStamp 9 = 104 ∧ (timed fun t => { t with now := 100 }).eventStamp (-3) = 97 := by decide +kernel
theorem test_ptp : (timed id).ptpOn = true ∧ (timed id).portUp 0 = true ∧ (timed id).time.port = some 0 ∧ (timed id).time.st = .acquiring := by decide +kernel
theorem test_ptp_waiting : (timed fun t => { t with pendSync := some (0, 100) }).time.pendSync = some (0, 100) ∧
    (timed fun t => { t with reqAt := some 40 }).time.reqAt = some 40 := by decide +kernel
theorem test_sync_lost : let s := timed fun t => { t with syncEvery := some (intervalNs (-3)), syncAt := 0, now := 500000000 }
    s.inService = true ∧ s.time.syncEvery = some 125000000 ∧ s.time.syncAt + 4 * 125000000 ≤ s.time.now ∧ s.time.st = .acquiring := by decide +kernel
theorem test_holdover : let s := timed fun t => { t with st := .holdover, heldAt := 0, now := 10 ^ 18 }
    s.time.st = .holdover ∧ s.time.heldReported = false ∧ s.time.heldAt + s.reg .timHoldLimit 0 0 * 1000000000 < s.time.now := by decide +kernel
/-! ## Witnesses: the host interface -/

def sq0 : Sq := ⟨0x10000, 16, none, 0, 1, 1, 1, false, none⟩
def cq0 : Cq := ⟨0x20000, 0, 16, none, 0, 0, 0, 0, 0, true, false, 1, [], false, 0, 0⟩
/-- An entry of word 0 `w0` and more words, fetched from queue `q` of function 0 as number 1. -/
def entry (q : Nat) (w : List DWord) : Entry := { ref := ⟨0, q, 1⟩, w := w ++ List.replicate (8 - w.length) 0, cq := q, at_ := 0, started := false }
def op (n comp : Nat) : DWord := BitVec.ofNat 64 (n * 2 ^ 56 + comp * 2 ^ 50 + 0xABC)
/-- Function 0 with an admin and an I/O queue pair and the entry. -/
def asking (x : Entry) (s : State) : State :=
  { s with host := { s.host with fns := [(0, { Fn.reset with aqEn := true, sqs := [(0, sq0), (1, { sq0 with cq := 1 })], cqs := [(0, cq0), (1, { cq0 with base := 0x30000 })],
                                                             entries := [x], nextOrder := 2 })] } }
/-- Roomy, decidably, where no dirty log runs. -/
abbrev RoomyD (s : State) (e : EntryRef) (x : Entry) (c : Cq) : Prop :=
  (s.fn e.fn).entries.filter (fun y => decide (y.ref = e)) = [x] ∧ e.sq < 0x10000 ∧ (∀ y ∈ (s.fn e.fn).sqs, y.2.deleting = none) ∧
    (∀ y ∈ (s.fn e.fn).entries, y.reserved = false) ∧ (s.fn e.fn).aqRemoving = false ∧ (s.fn e.fn).log = none ∧ s.tst.captures = [] ∧ s.tst.replays = [] ∧
    s.cq? e.fn x.cq = some c ∧ c.stopped = false ∧ c.buffer = [] ∧ c.room = true ∧ s.hostOk c.pasid (c.base.toNat + 32 * c.tail) 32 = true
theorem roomy_of {s : State} {e : EntryRef} {x : Entry} {c : Cq} (h : RoomyD s e x c) : Roomy s e x c := by
  obtain ⟨a, b, d, v, f, g, r⟩ := h
  exact ⟨a, b, d, v, f, by rw [g]; simp, r⟩
theorem asked_of {s : State} {e : EntryRef} {n : Nat} {a : Bool} {x : Entry} {c : Cq} (h : RoomyD s e x c)
    (r : (x.opcode = n ∧ x.started = false ∧ s.fenceOk x = true ∧ (e.sq = 0 ↔ a = true)) ∧ (s.fn e.fn).quiescing = none ∧
      ((s.fn e.fn).quiesced = false ∨ quiescedOk n = true) ∧ (timedOp n = false → x.word 1 = 0)) : Asked s e n a x c :=
  ⟨roomy_of h, r.1.1, r.1.2.1, r.1.2.2.1, r.1.2.2.2, r.2⟩
/-- The entry of `w` waits on admin queue 0 of the small panel. -/
abbrev AskedHere (s : State) (n : Nat) (w : List DWord) : Prop := Asked (asking (entry 0 w) s) ⟨0, 0, 1⟩ n true (entry 0 w) cq0
abbrev IoHere (s : State) (n : Nat) (w : List DWord) : Prop := Asked (asking (entry 1 w) s) ⟨0, 1, 1⟩ n false (entry 1 w) { cq0 with base := 0x30000 }
theorem test_asked_nop : AskedHere up 0 [op 0 0] ∧ IoHere up 0 [op 0 0] := ⟨asked_of (by decide +kernel) (by decide +kernel), asked_of (by decide +kernel) (by decide +kernel)⟩
/-- NOP writes its completion's word 0: TAG, SQHEAD, SQID. -/
theorem test_nop : (match Machine.exec (.nopCommand ⟨0, 0, 1⟩) (asking (entry 0 [op 0 0]) up) with
    | .next t => readDWords t.mem.host 0x20000 1
    | _ => []) = [0x00000ABC00010000] := by decide +kernel

/-- CREATE_CQ 2 of 32 entries on vector 3; CREATE_SQ 2 of 16 entries for CQ 1. -/
def wCreateCq : List DWord := [op 1 0, 0, 0x40000, 0x50000, 0x0002001F00000000, 0x00000C0000000000]
def wCreateSq : List DWord := [op 2 0, 0, 0x60000, 0, 0x0002000F00000000, 0x0001000000000000]
theorem test_create_cq : AskedHere up 1 wCreateCq := asked_of (by decide +kernel) (by decide +kernel)
theorem test_create_cq_fields : let x := entry 0 wCreateCq
    (asking x up).cq? 0 (bits (x.word 4) 63 48) = none ∧ bits (x.word 4) 63 48 = 2 ∧ ringSizeOk (bits (x.word 4) 47 32) = true ∧ bits (x.word 5) 52 42 = 3 ∧
      bits (x.word 5) 63 53 = 0 ∧ bits (x.word 5) 41 34 = 0 ∧ x.zeroFrom 6 = true := by decide +kernel
theorem test_create_sq : AskedHere up 2 wCreateSq ∧ ((asking (entry 0 wCreateSq) up).cq? 0 1).isSome = true ∧ bits ((entry 0 wCreateSq).word 5) 63 48 = 1 ∧
    bits ((entry 0 wCreateSq).word 5) 47 0 = 0 := ⟨asked_of (by decide +kernel) (by decide +kernel), by decide +kernel, by decide +kernel, by decide +kernel⟩
/-- DELETE_SQ 1 and DELETE_CQ 1 (of no SQ). -/
theorem test_delete_sq : AskedHere up 3 [op 3 0, 0, 0, 0, 0x0001000000000000] ∧ (entry 0 [op 3 0, 0, 0, 0, 0x0001000000000000]).onlyQid = true :=
  ⟨asked_of (by decide +kernel) (by decide +kernel), by decide +kernel⟩
def wDeleteCq : List DWord := [op 4 0, 0, 0, 0, 0x0001000000000000]
def oneSq : State := let s := asking (entry 0 wDeleteCq) up; s.modFn 0 fun f => { f with sqs := [(0, sq0)] }
theorem test_delete_cq : Asked oneSq ⟨0, 0, 1⟩ 4 true (entry 0 wDeleteCq) cq0 ∧ (oneSq.cq? 0 1).isSome = true ∧ (∀ y ∈ (oneSq.fn 0).sqs, y.2.cq ≠ 1) ∧
    oneSq.yoke.comps = [] := ⟨asked_of (by decide +kernel) (by decide +kernel), by decide +kernel, by decide +kernel, by decide +kernel⟩
theorem test_quiesce : AskedHere up 8 [op 8 0] ∧ ((asking (entry 0 [op 8 0]) up).fn 0).entries = [entry 0 [op 8 0]] :=
  ⟨asked_of (by decide +kernel) (by decide +kernel), by decide +kernel⟩
def quiescing : State :=
  let s := asking { entry 0 [op 8 0] with started := true } { bound up with time := { up.time with now := 100000000 } }
  s.modFn 0 fun f => { f with quiescing := some ⟨0, 0, 1⟩ }
theorem test_quiesce_timeout : Roomy quiescing ⟨0, 0, 1⟩ { entry 0 [op 8 0] with started := true } cq0 ∧ quiescing.inService = true ∧
    (quiescing.fn 0).quiescing = some ⟨0, 0, 1⟩ ∧ 0 + 100000000 ≤ quiescing.time.now ∧ (quiescing.fn 0).quiesceLate = false :=
  ⟨roomy_of (by decide +kernel), by decide +kernel, by decide +kernel, by decide +kernel, by decide +kernel⟩
/-- The composition of the function is in its pass when the time is up. -/
def quiescingPass : State := { quiescing with yoke := { up.yoke with comps := [(0, { comp0 with serve := { Serve.reset with st := .decode } })] } }
theorem test_quiesce_pass : quiescingPass.inService = true ∧ (quiescingPass.fn 0).quiescing = some ⟨0, 0, 1⟩ ∧ (quiescingPass.fn 0).quiesceLate = false ∧
    (∃ k ∈ quiescingPass.yoke.comps, k.2.fn = 0 ∧ k.2.serve.st.still = false) ∧ (∀ k ∈ quiescingPass.yoke.comps, k.2.context ≠ 0) := by decide +kernel
/-- Its teardown is over. -/
def quiescedLate : State := quiescing.modFn 0 fun f => { f with quiesceLate := true }
theorem test_quiesce_late : Roomy quiescedLate ⟨0, 0, 1⟩ { entry 0 [op 8 0] with started := true } cq0 ∧ (quiescedLate.fn 0).quiescing = some ⟨0, 0, 1⟩ ∧
    (quiescedLate.fn 0).quiesceLate = true ∧ (∀ k ∈ quiescedLate.yoke.comps, k.2.fn = 0 → k.2.serve.st.still = true) ∧ quiescedLate.yoke.teardowns = [] :=
  ⟨roomy_of (by decide +kernel), by decide +kernel, by decide +kernel, by decide +kernel, by decide +kernel⟩
theorem test_resume : AskedHere up 9 [op 9 0] ∧ AskedHere up 0xC [op 0xC 0] := ⟨asked_of (by decide +kernel) (by decide +kernel), asked_of (by decide +kernel) (by decide +kernel)⟩
/-- One page, the smallest range, of PASID 5. -/
def wLog : List DWord := [op 0xA 0, 0, 0x1000, 0x2000, 0x80000005]
theorem test_log_start : AskedHere up 0xA wLog ∧ pasidOf ((entry 0 wLog).word 4) = some 5 ∧ pasidOf ((entry 0 wLog).word 4) ≠ cq0.pasid ∧
    bits ((entry 0 wLog).word 4) 30 20 = 0 := ⟨asked_of (by decide +kernel) (by decide +kernel), by decide +kernel, by decide +kernel, by decide +kernel⟩
def logging : State := (asking (entry 0 [op 0xB 0, 0, 0x7000]) up).modFn 0 fun f => { f with log := some ⟨0x1000, 0x9000, some 5, [1, 3], false⟩ }
theorem test_log_snapshot : (logging.fn 0).log = some ⟨0x1000, 0x9000, some 5, [1, 3], false⟩ ∧ logging.hostOk none 0x7000 1 = true ∧
    (some 5 : Option Nat) ≠ cq0.pasid := by decide +kernel

theorem test_doorbell : (asking (entry 0 [op 0 0]) up).fnReady 0 = true ∧ (asking (entry 0 [op 0 0]) up).sq? 0 0 = some sq0 ∧ sq0.tailError 15 = false ∧
    sq0.tailError 0 = false ∧ sq0.tailError 16 = true ∧ cq0.headError 0 = false ∧ (asking (entry 0 [op 0 0]) up).deletingSq 0 0 = false ∧
    (asking (entry 0 [op 0 0]) up).host.barQ = [] := by decide +kernel
/-- A DELETE_SQ 1 fetched and not yet performed: a doorbell of queue 1 is dropped (R364). -/
theorem test_doorbell_deleting : (asking (entry 0 [op 3 0, 0, 0, 0, 0x0001000000000000]) up).deletingSq 0 1 = true ∧
    (asking (entry 0 [op 3 0, 0, 0, 0, 0x0001000000000000]) up).deletingSq 0 2 = false := by decide +kernel
/-- A doorbell behind a BAR4 write (R215). -/
theorem test_doorbell_behind : (((asking (entry 0 [op 0 0]) up).barWait (.write 0 [1])).host.barQ ≠ []) ∧
    ((asking (entry 0 [op 0 0]) up).barWait (.write 0 [1])).fnReady 0 = true := by decide +kernel
/-- A NOP at slot 1 of the admin ring, the tail at 2. -/
def ringed : State :=
  let s := asking (entry 0 [op 0 0]) { up with mem := { up.mem with host := writeBytes [] (0x10000 + 64) (dwordBytes [op 0 0]) } }
  s.modFn 0 fun f => { f with sqs := [(0, { sq0 with tail := 2 })] }
theorem test_fetch : ringed.fnReady 0 = true ∧ ringed.sq? 0 0 = some { sq0 with tail := 2 } ∧ cq0.slotFree = true ∧
    ringed.hostWords none (0x10000 + 64) 8 = some (op 0 0 :: List.replicate 7 0) ∧ reservedOp 0 = false := by decide +kernel
def heldCq : Cq := { cq0 with hold := 5, unsignalled := 1, oldestAt := 0 }
def holding : State := ({ asking (entry 0 [op 0 0]) up with time := { up.time with now := 5000 } } : State).modFn 0 fun f => { f with cqs := [(0, heldCq)] }
theorem test_hold : holding.fnReady 0 = true ∧ holding.cq? 0 0 = some heldCq ∧ heldCq.oldestAt + heldCq.hold * 1000 ≤ holding.time.now := by decide +kernel

/-- VF 1 of two. -/
def vfs : State := { up with host := { up.host with vfs := 2 } }
/-- VF 1 in D3hot. -/
theorem test_d3hot : let s := vfs.modFn 1 fun f => { f with d3hot := true }
    s.inService = true ∧ 0 < 1 ∧ 1 ≤ s.host.vfs ∧ (s.fn 1).d3hot = true ∧ s.yoke.comps = [] := by decide +kernel
theorem test_functions : vfs.fnReady 0 = true ∧ vfs.host.vfs ≠ 0 ∧ vfs.yoke.comps = [] ∧ vfs.fnReady 2 = true ∧ vfs.fnReady 3 = false ∧ up.host.vfs = 0 := by decide +kernel
theorem test_aq : up.fnReady 0 = true ∧ (up.fn 0).aqEn = false ∧ ((asking (entry 1 [op 0 0]) up).fn 0).aqEn = true ∧
    (∀ z ∈ ((asking (entry 1 [op 0 0]) up).fn 0).entries, z.ref.sq ≠ 0) := by decide +kernel

def barOn : State := { granary with regs := { up.regs with vals := [(Reg.off .hstBar4Ctrl 0 0, 1)] } }
theorem test_bar4 : barOn.fnReady 0 = true ∧ barOn.bar4 8 8 = .go 8 ∧ Present barOn 0 gsec ∧ 8 % 256 + 8 ≤ 256 := by decide +kernel
/-- FetchAdd returns the old value and leaves the sum. -/
theorem test_bar4_add : (match Machine.exec (.bar4Atomicop 8 .fetchAdd 4 7 0) barOn with
    | .next t => ((t.gsec? 0).map fun g => leNat (sectorBytes g.data 8 4), t.host.outs)
    | _ => (none, [])) = (some 7, [.bar4 [0, 0, 0, 0] false]) := by decide +kernel
def wPin (n : Nat) : List DWord := [op n 0, 0, 0, 256]
theorem test_pin : AskedHere granary 0x18 (wPin 0x18) ∧ (asking (entry 0 (wPin 0x18)) granary).pinStatus ⟨0, 0, 1⟩ (entry 0 (wPin 0x18)) = 0 ∧
    (asking (entry 0 (wPin 0x18)) granary).rangeSectors 0 0 256 = [some 0] ∧
    (((asking (entry 0 (wPin 0x18)) granary).die 0).pLines 0 0).length < (asking (entry 0 (wPin 0x18)) granary).pinQuota 0 0 :=
  ⟨asked_of (by decide +kernel) (by decide +kernel), by decide +kernel, by decide +kernel, by decide +kernel⟩
/-- The pin of composition 1 beside that of 0: each ends alone (R241). -/
theorem test_pins_apart : ((gsec.pin 0).pin 1).pins = [1, 0] ∨ ((gsec.pin 0).pin 1).pins = [0, 1] := by decide
theorem test_unpin_one : (((gsec.pin 0).pin 1).unpin 1).pins = [0] := by decide
def pinnedPanel : State :=
  { granary with dies := [(0, { Die.reset with gran := [(0, { gline with pinAt := [(0, 1)], secs := [(0, { gsec with pins := [0] })] })] })] }
theorem test_unpin : AskedHere pinnedPanel 0x19 (wPin 0x19) ∧ (asking (entry 0 (wPin 0x19)) pinnedPanel).gsec? 0 = some { gsec with pins := [0] } ∧
    (entry 0 (wPin 0x19)).pins = ⟨0, 0, 0⟩ ∧ ((asking (entry 0 (wPin 0x19)) pinnedPanel).gline? 0).map (·.pinnedBy 0) = some true := ⟨asked_of (by decide +kernel) (by decide +kernel), by decide +kernel, by decide +kernel⟩
/-! ## Witnesses: compositions -/

abbrev Alone (s : State) (_ : EntryRef) (x : Entry) : Prop :=
  ∀ f ∈ s.host.fns, ∀ y ∈ f.2.entries, yokeOp y.opcode = true → y.comp = x.comp → x.seq ≤ y.seq
/-- A safeguard word with the least exponents (Table 02-7). -/
def sg : Nat := 8 * 2 ^ 21 + 2 ^ 16
/-- BIND of slice 0 with its upper channel as set 0 to composition 0, tenant 5. -/
def wBind : List DWord := [op 0x20 0, 0, 0x8000, BitVec.ofNat 64 (5 * 2 ^ 52 + 2 ^ 32 + sg), 0]
def unbound : State := { up with mem := { up.mem with host := writeBytes [] 0x8000 (natLe 8 0x8000) } }
theorem test_bind : AskedHere unbound 0x20 wBind ∧ Alone (asking (entry 0 wBind) unbound) ⟨0, 0, 1⟩ (entry 0 wBind) :=
  ⟨asked_of (by decide +kernel) (by decide +kernel), by decide +kernel⟩
theorem test_bind_list : let s := asking (entry 0 wBind) unbound
    s.sliceList ⟨0, 0, 1⟩ (entry 0 wBind) = some [0x8000] ∧ s.marginBusy [0x8000] = false ∧ s.bindBefore (entry 0 wBind) [0x8000] = false ∧
      s.bindStatus ⟨0, 0, 1⟩ (entry 0 wBind) false [0x8000] = 0 ∧ setsOf ([(0x8000 : DWord)].map sliceEntry) = [(0, [1])] := by decide +kernel
/-- The bound composition holds slice 0 alone, at epoch 0. -/
theorem test_bound : (match Machine.exec (.bind ⟨0, 0, 1⟩) (asking (entry 0 wBind) unbound) with
    | .next t => (t.comp? 0).map fun y => (y.tenant, y.cur.slices, y.cur.epoch)
    | _ => none) = some (5, [0], 0) := by decide +kernel
/-- REBIND with no list keeps the slices. -/
def wRebind : List DWord := [op 0x21 0, 0, 0, BitVec.ofNat 64 (1 * 2 ^ 52 + sg), 0]
theorem test_rebind : AskedHere (bound up) 0x21 wRebind ∧ Alone (asking (entry 0 wRebind) (bound up)) ⟨0, 0, 1⟩ (entry 0 wRebind) ∧
    (asking (entry 0 wRebind) (bound up)).bindStatus ⟨0, 0, 1⟩ (entry 0 wRebind) true [] = 0 ∧
    (asking (entry 0 wRebind) (bound up)).bindWordsBad ⟨0, 0, 1⟩ (entry 0 wRebind) true = false :=
  ⟨asked_of (by decide +kernel) (by decide +kernel), by decide +kernel, by decide +kernel, by decide +kernel⟩
theorem test_at_rest : AtRest (bound up) 0 comp0 ∧ comp0.move = none ∧ (bound up).sharedElsewhere 0 none = false ∧ (bound up).yoke.teardowns = [] := by decide +kernel
theorem test_unbind : AskedHere (bound up) 0x22 [op 0x22 0] ∧ (entry 0 [op 0x22 0]).context = 0 ∧ comp0.context ≠ 0 :=
  ⟨asked_of (by decide +kernel) (by decide +kernel), by decide +kernel, by decide +kernel⟩
/-- MAP of 2 MiB at 0x4000_0000, the set offset just behind region 0. -/
def wMap : List DWord := [op 0x23 0, 0, 0x40000000, 0x200000, 0, 0x1000000]
theorem test_map : AskedHere (bound up) 0x23 wMap ∧ (entry 0 wMap).mapBad = false ∧ (entry 0 wMap).region.shared = false ∧
    (entry 0 wMap).region.offset + (entry 0 wMap).region.size ≤ setBytes (map0.set 0) :=
  ⟨asked_of (by decide +kernel) (by decide +kernel), by decide +kernel, by decide +kernel, by decide +kernel⟩
theorem test_unmap : AskedHere (bound up) 0x24 [op 0x24 0] ∧
    map0.regions.find? (fun r => decide (r.vbase = ((entry 0 [op 0x24 0]).word 2).toNat)) = some region0 ∧ (bound up).sharedElsewhere 0 (some region0) = false :=
  ⟨asked_of (by decide +kernel) (by decide +kernel), by decide +kernel, by decide +kernel⟩
/-- A move of region 0 to offset 0x100_0000 of the same set, its end abutting the old place. -/
def wMove : List DWord := [op 0x25 0, 0, 0, 0, 0, 0x1000000]
theorem test_move : AskedHere (bound up) 0x25 wMove ∧ 0x1000000 + region0.size ≤ setBytes (map0.set 0) ∧
    (∀ t ∈ map0.regions, t.shared = false → t.set = 0 → t.offset + t.size ≤ 0x1000000 ∨ 0x1000000 + region0.size ≤ t.offset) ∧
    (∀ ch ∈ map0.set 0 ++ map0.set region0.set, (bound up).dieUp (ch / 16) = true) :=
  ⟨asked_of (by decide +kernel) (by decide +kernel), by decide +kernel, by decide +kernel, by decide +kernel⟩
def moveOf (ph : MovePhase) : Move := ⟨⟨0, 0, 1⟩, 0, 0, 0x1000000, ph, []⟩
def movingComp (ph : MovePhase) : Comp := { comp0 with move := some (moveOf ph), prev := if ph = .final then some map0 else none }
def boundAs (y : Comp) (s : State) : State := { s with yoke := { s.yoke with comps := [(0, y)] } }
theorem test_move_copied : AtRest (boundAs (movingComp .copying) up) 0 (movingComp .copying) ∧
    map0.regions.find? (fun r => decide (r.vbase = (moveOf .copying).vbase)) = some region0 ∧ region0.ro = false := by decide +kernel
theorem test_move_final : let s := asking { entry 0 wMove with started := true } (boundAs (movingComp .final) up)
    Roomy s ⟨0, 0, 1⟩ { entry 0 wMove with started := true } cq0 ∧ s.drained 0 (movingComp .final) = true ∧ (s.fn 0).quiescing = none ∧ s.leavingLive (movingComp .final) = [] ∧
      s.mem.errs = [] :=
  ⟨roomy_of (by decide +kernel), by decide +kernel, by decide +kernel, by decide +kernel, by decide +kernel⟩
def changing : Comp := { comp0 with change := some ⟨none, { map0 with regions := [] }, false⟩ }
theorem test_epoch_commit : AtRest (boundAs changing up) 0 changing ∧ changing.change = some ⟨none, { map0 with regions := [] }, false⟩ ∧
    (∀ k ∈ map0.slices, k ∈ changing.cur.slices ∨ (boundAs changing up).dieUp (dieOf k) = true) := by decide +kernel

theorem test_slice_release : let y := { comp0 with leaving := [2] }
    let s := boundAs y up
    s.owner? 2 = some (0, true) ∧ s.comp? 0 = some y ∧ y.unbinding = false ∧ y.span = false ∧ s.drained 0 y = true ∧ s.flushSet 2 = [] ∧ (s.core 2).loan = .none_ ∧
      (s.die 0).leases = [] ∧ (s.die 0).gran = [] ∧ (s.core 2).cache = [] := by
  decide +kernel
def heldFrame : HeldFrame := ⟨0, wframe, 0, 0⟩
def holdingFrame : State := { (peered fun c => { c with peerPorts := 3 }) with link := { (peered fun c => { c with peerPorts := 3 }).link with held := [heldFrame] },
                                                                               time := { up.time with now := 10000000 } }
theorem test_epoch_hold : holdingFrame.link.held[0]? = some heldFrame ∧ heldFrame.since + 10000000 ≤ holdingFrame.time.now ∧
    (pickPort (holdingFrame.livePorts 0 (holdingFrame.conn (rxKey 0 wframe)).peerPorts) (holdingFrame.conn (rxKey 0 wframe)).nextPort none).isSome = true := by
  decide +kernel
def pool0 : Pool := ⟨0, 0⟩
def owned : State :=
  { bound up with yoke := { (bound up).yoke with owners := [(ownerKey 0 9, ⟨0, pool0, 4, 0⟩)], copies := [(copyKey 0 9 pool0, .pending)], notMine := [(ownerKey 0 9, 0)] },
                  time := { up.time with now := 100000 } }
theorem test_ownership : owned.ownTable 0 = true ∧ owned.recordOwner 0 9 = some (pool0, 4) ∧ (find? owned.yoke.owners (ownerKey 0 9)).isSome = true ∧
    (find? owned.yoke.copies (copyKey 0 9 pool0)).isSome = true ∧ find? owned.yoke.notMine (ownerKey 0 9) = some 0 ∧ 0 + 100000 ≤ owned.time.now := by decide +kernel
def wMeter : List DWord := [op 0x27 0, 0, 0x100000, BitVec.ofNat 64 (9 * 2 ^ 52)]
theorem test_meter_read : AskedHere (bound up) 0x27 wMeter ∧ (∀ k ∈ (bound up).yoke.comps, k.2.fn = 0 → k.2.tenant ≠ 9) ∧
    (asking (entry 0 wMeter) (bound up)).adminPasid 0 = none ∧ hostKey cq0.pasid (cq0.base.toNat) + 32 ≤ hostKey none 0x100000 :=
  ⟨asked_of (by decide +kernel) (by decide +kernel), by decide +kernel, by decide +kernel, by decide +kernel⟩

/-! ### The serving loop -/

/-- The kernel table's region and the KV pages' region (read-only and writable). -/
def servMap : EpochMap := { map0 with regions := [region0, { region0 with vbase := 0x2000000, ro := true, offset := 0x1000000 }] }
def wConfig : List DWord := [op 0x40 0, 1000000, 0x2000000, 0, 0x200000,
  BitVec.ofNat 64 (1 * 2 ^ 56 + 2 ^ 24), BitVec.ofNat 64 (65536 * 2 ^ 32 + 2 ^ 16 + 1)]
theorem test_serve_config : IoHere (boundAs { comp0 with cur := servMap } up) 0x40 wConfig ∧ (entry 1 wConfig).configBad = false ∧
    servMap.within 0 0x200000 (fun r => !r.ro) = true ∧ servMap.within 0x2000000 128 (fun r => r.ro) = true :=
  ⟨asked_of (by decide +kernel) (by decide +kernel), by decide +kernel, by decide +kernel, by decide +kernel⟩
theorem test_serve_config_bounds : (entry 1 wConfig).context = 0 ∧ (entry 1 wConfig).comp = 0 ∧ (entry 1 wConfig).at_ + 1000000 ≤ ((entry 1 wConfig).word 1).toNat := by
  decide +kernel
def serving (st : ServeState) (f : Serve → Serve) : Comp := { comp0 with cur := servMap, serve := f { Serve.reset with st := st, ktab := 0x2000000, pframes := 1, encPages := 1 } }
theorem test_serve_stop : IoHere (boundAs (serving .wait id) up) 0x41 [op 0x41 0] ∧ (serving .wait id).serve.st.still = true ∧ (serving .encode id).serve.st.still = false ∧
    comp0.serve.st = .stopped := ⟨asked_of (by decide +kernel) (by decide +kernel), by decide +kernel, by decide +kernel, by decide +kernel⟩
/-- Audio at 160 samples in format 0, beam 1, source slot 0, target slot 1 with text. -/
def wOpen : List DWord := [op 0x42 0, 0, BitVec.ofNat 64 (7 * 2 ^ 32 + 160 * 2 ^ 22 + 2 ^ 6), 2]
theorem test_stream_open : IoHere (boundAs (serving .wait id) up) 0x42 wOpen ∧ (entry 1 wOpen).openBad = false ∧ (serving .wait id).serve.serving = true ∧
    (serving .wait id).serve.stream? 7 = none := ⟨asked_of (by decide +kernel) (by decide +kernel), by decide +kernel, by decide +kernel, by decide +kernel⟩
def stream : Stream := { (entry 1 wOpen).stream 0 0 with admitted := true }
def streaming (st : ServeState) (f : Serve → Serve) : Comp := serving st fun v => f { v with streams := [stream] }
theorem test_stream_close : IoHere (boundAs (streaming .wait id) up) 0x43 [op 0x43 0, 0, 0x0000000700000000] ∧ (streaming .wait id).serve.stream? 7 = some stream ∧
    stream.closing = none := ⟨asked_of (by decide +kernel) (by decide +kernel), by decide +kernel, by decide +kernel⟩
/-- A text buffer of 64 bytes for slot 1. -/
def wOut : List DWord := [op 0x46 0, 0, BitVec.ofNat 64 (7 * 2 ^ 32 + 1 * 2 ^ 27 + 63), 0x9000]
theorem test_out_buf : IoHere (boundAs (streaming .wait id) up) 0x46 wOut ∧ bits ((entry 1 wOut).word 2) 25 20 = 0 ∧ bit stream.targets 1 = true ∧
    find? stream.kept.slots 1 = some TSlot.empty := ⟨asked_of (by decide +kernel) (by decide +kernel), by decide +kernel, by decide +kernel, by decide +kernel⟩
/-- LOAD of 512 bytes to composition address 0. -/
def wLoad : List DWord := [op 0x48 0, 0, 0x100000, 0, 512]
theorem test_load : IoHere (boundAs (serving .wait id) up) 0x48 wLoad ∧ (boundAs (serving .wait id) up).rangeMapped 0 (serving .wait id) 0 512 = true ∧
    (boundAs (serving .wait id) up).panelField 0 0 = .here ∧ (serving .wait id).cur.pools = [0] ∧
    (boundAs (serving .wait id) up).loadFull (entry 1 wLoad) (serving .wait id) = false :=
  ⟨asked_of (by decide +kernel) (by decide +kernel), by decide +kernel, by decide +kernel, by decide +kernel, by decide +kernel⟩
def wAudio : List DWord := [op 0x44 0, 0, 0x0000000700000000, 0x100000]
theorem test_audio : IoHere (boundAs (streaming .wait id) up) 0x44 wAudio ∧ (streaming .wait id).serve.refusal (some stream) false 0 = 0 ∧
    (asking (entry 1 wAudio) (boundAs (streaming .wait id) up)).entryData (entry 1 wAudio) = some (List.replicate 320 0) :=
  ⟨asked_of (by decide +kernel) (by decide +kernel), by decide +kernel, by decide +kernel⟩
def tstream : Stream := { stream with rate := 0, format := 0xF }
def wText : List DWord := [op 0x45 0, 0, BitVec.ofNat 64 (7 * 2 ^ 32 + 4096), 0x100000]
theorem test_text : IoHere (boundAs (serving .wait fun v => { v with streams := [tstream] }) up) 0x45 wText ∧
    (serving .wait fun v => { v with streams := [tstream] }).serve.refusal (some tstream) true 0 = 0 ∧ bits ((entry 1 wText).word 2) 12 0 = 4096 :=
  ⟨asked_of (by decide +kernel) (by decide +kernel), by decide +kernel, by decide +kernel⟩

/-- A pass may start 20 ms after S0. -/
def startable : State := { boundAs (streaming .wait id) up with time := { up.time with now := 20000000 } }
theorem test_pass_ready : startable.replaying 0 = false ∧ startable.passReady 0 (streaming .wait id) = true ∧ startable.comp? 0 = some (streaming .wait id) := by decide +kernel
theorem test_kernel_read : KernelRead startable 0 (streaming .wait id) 0 := by
  unfold KernelRead
  have h : (match startable.readDevice (kernelReads 0 (streaming .wait id)) (pieces (0x2000000 + 32 * 0) 32 2) with
      | .ok (_, bs) => bs.all fun b => !b.2
      | _ => false) = true := by decide +kernel
  change ∃ u bs, startable.readDevice (kernelReads 0 (streaming .wait id)) (pieces (0x2000000 + 32 * 0) 32 2) = .ok (u, bs) ∧ _
  split at h
  · rename_i u bs e
    exact ⟨u, bs, e, fun b hb => by simpa using List.all_eq_true.mp h b hb⟩
  · simp at h
/-- FEAT over in ENCODE; the output stage; EMIT; COMMIT. -/
theorem test_stages : ∀ st ∈ [ServeState.encode, .decode, .vocode, .emit, .commit], Runs_ (boundAs (streaming st id) up) 0 (streaming st id) ∧
    (boundAs (streaming st id) up).stageOver 0 = true := by decide +kernel
theorem test_nothing_due : NothingDue (boundAs (streaming .commit id) up) (streaming .commit id) ∧
    (boundAs (streaming .emit id) up).canaryPending 0 (streaming .emit id) = false ∧ (∀ k ∈ servMap.slices, ((boundAs (streaming .encode id) up).core k).loan ≠ .lent) := by
  decide +kernel
theorem test_rollback : let y := streaming .decode fun v => { v with failedNow := true }
    y.serve.failures = 0 ∧ y.serve.st.inPass = true ∧ (boundAs y up).stageOver 0 = true ∧ ((boundAs y up).fn 0).quiesced = false := by decide +kernel
/-- A second failure. -/
theorem test_second_failure : let y := streaming .decode fun v => { v with failedNow := true, failures := 1 }
    1 ≤ y.serve.failures ∧ NothingDue (boundAs y up) y ∧ y.serve.restarting = false := by decide +kernel
/-! ## Witnesses: loans, teardown, power, hayward -/

def switching (ph : LoanPhase) (f : Core → Core) : State :=
  { bound (withCore fun c => f { c with loan := ph, loanAt := 0 }) with time := { up.time with now := 20000 } }
theorem test_switch : (switching .draining id).inService = true ∧ ((switching .draining id).core 0).loan = .draining ∧
    ((switching .draining id).core 0).loanAt + 20000 ≤ (switching .draining id).time.now ∧ (switching .draining id).coreDrained 0 = true := by decide +kernel
theorem test_switch_save : ((switching .saving id).core 0).loan = .saving ∧ (switching .saving id).owner? 0 = some (0, false) ∧
    (switching .saving id).comp? 0 = some comp0 := by decide +kernel
def image : SavedCore :=
  { context := 1, seedbed := [(0, 9)], sbPoison := [], drills := [(0, drill)], active := none, shadow := none, queue := [], arrayNext := 4, arrayDone := 4,
    xferNext := 2, xferDone := 2, barriers := [], xfers := [], early := [], launches := [], liveMark := 1, passInstrs := 0, passTotal := 0, canaries := [] }
theorem test_restore : let s := switching .restoring fun c => { c with saved := some image, drills := [] }
    s.inService = true ∧ (s.core 0).loan = .restoring ∧ (s.core 0).saved = some image := by decide +kernel
/-- The restored seedbed is the saved one. -/
theorem test_restore_done : (match Machine.exec (.coreRestoreDone 0) (switching .restoring fun c => { c with saved := some image, drills := [] }) with
    | .next t => ((t.core 0).seedbed, (t.core 0).arrayNext, (t.core 0).loan)
    | _ => ([], 0, .lent)) = ([(0, 9)], 4, .none_) := by decide +kernel
def tdOf (r : Bool) : Teardown := ⟨0, 2000, r, false, true⟩
def tearing (r : Bool) (now : Nat) : State :=
  let s := bound base
  { s with yoke := { s.yoke with teardowns := [(1, tdOf r)] }, time := { up.time with now := now } }
theorem test_teardown : TearsDown (tearing false 2000) 1 (tdOf false) ∧ (tdOf false).tr ≤ (tearing false 2000).time.now := by decide +kernel
theorem test_teardown_done : let s : State := { tearing true 2000 with cores := [] }
    TearsDown s 1 (tdOf true) ∧ s.outstanding 1 = 0 ∧ s.comp? 0 = some comp0 := by decide +kernel
theorem test_teardown_late : TearsDown (tearing true 10002000) 1 (tdOf true) ∧ (tdOf true).tr + 10000000 ≤ (tearing true 10002000).time.now := by decide +kernel

/-- Dies at governor step `g` and duty `d`. -/
def powered (g d : Nat) : State := { up with dies := (List.range 24).map fun k => (k, { Die.reset with gov := g, ceil := 8, step := g, duty := d, est := 10 + k }) }
theorem test_governor : up.mod.pwrgd = true ∧ up.start.failed = false ∧ (powered 3 16).governed = List.range 24 ∧
    (∃ d ∈ (powered 3 16).governed, 0 < ((powered 3 16).die d).gov) := by decide +kernel
theorem test_governor_low : (∀ d ∈ (powered 0 16).governed, ((powered 0 16).die d).gov = 0) ∧ (∃ d ∈ (powered 0 7).governed, ((powered 0 7).die d).duty < 16) ∧
    (∀ d ∈ (powered 0 16).governed, 16 ≤ ((powered 0 16).die d).duty) ∧ MayRise (powered 0 16) 3 := by decide +kernel
theorem test_caps : 0 < up.capNow ∧ 0 + 2 * (up.reg .pwrMargin 0 0 % 256) < up.capNow ∧ 115 * (up.reg .pwrCapEff 0 0 % 2048) < 100 * 5000 := by decide +kernel
theorem test_sensors : hottest (List.replicate 9 (some 60)) = 60 ∧ hottest (none :: List.replicate 8 (some 60)) = 100 ∧
    hottest (some 115 :: List.replicate 8 (some 60)) = 115 ∧ (up.die 0).part ≠ .outOfService := by decide +kernel

def hayOn (still cyc : List (Nat × Nat)) (ns : List HNode) (s : State) : State :=
  { s with rel := { s.rel with hay := { still := still, seen := ns.map fun n => (n.key, n.print), cyc := cyc, grace := [], last := 1 } },
           regs := { s.regs with vals := [(Reg.off .rlyHayCfg 0 0, 1)] } }
theorem test_hayward_none : HayDue (hayOn [] [] [] up) ∧ (hayOn [] [] [] up).reg .rlyHayCfg 0 0 % 2 = 1 ∧ watched (hayOn [] [] [] up) = [] := by decide +kernel
/-- A drill alone at a counter that nothing raises. -/
def stuckDrill : Drill := { drill with cur := none, paths := [{ path with wait := .tally 3 9 }] }
def stuck : State := bound (withDrill stuckDrill)
def stuckNode : HNode := (watched stuck).headD ⟨0, 0, [], [], []⟩
theorem test_hayward_stuck : let s := hayOn [(stuckNode.key, 49)] [] (watched stuck) stuck
    watched s = [stuckNode] ∧ find? s.rel.hay.seen stuckNode.key = some stuckNode.print ∧ find? s.rel.hay.still stuckNode.key = some 49 ∧ HayDue s := by decide +kernel
/-- Two drills of one context at two barriers wait for each other. -/
def atBarrier (b : Nat) (m : DWord) : Drill := { drill with cur := none, paths := [{ path with mask := m, wait := .barrier b }] }
def crossed : State := bound { up with cores := [(0, { core drill with drills := [(0, atBarrier 0 1), (1, atBarrier 1 1)] })] }
/-- The second sample of one millisecond is none (R491). -/
theorem test_hayward_once : let s := hayOn [] [] [] up
    s.time.now / 1000000 ≠ 1 ∧ ¬ ({ s with time := { s.time with now := 1500000 } } : State).time.now / 1000000 ≠ s.rel.hay.last := by decide +kernel
theorem test_hayward_cycle : let s := hayOn [] ((watched crossed).map fun n => (n.key, 2)) (watched crossed) crossed
    (watched s).length = 2 ∧ closedSet (watched s).length (watched s) = watched s ∧
      ∀ n ∈ watched s, find? s.rel.hay.seen n.key = some n.print ∧ find? s.rel.hay.cyc n.key = some 2 := by decide +kernel
def unwatched (s : State) : State := { s with regs := { s.regs with vals := [(Reg.off .rlyHayCfg 0 0, 0)] } }
/-- A core with a modified line, a clean one, one under way, and an array instruction that streams. -/
def upsettable : State :=
  unwatched { bound up with
    cores := [(0, { core drill with cache := [(0, line .m), (1, line .s), (2, line .imD)], queue := [streamed] })],
    dies := [(0, { Die.reset with gran := [(0, gline)] }), (1, { Die.reset with part := .outOfService })] }
def upsetNext (u : Upset) : State := match Machine.execHaywardSample [u] upsettable with
  | .next t => t
  | _ => upsettable
theorem test_upset : Unwatched upsettable ∧ upsettable.dieUp 0 = true ∧ upsettable.dieUp 1 = false ∧ upsetDie (.corrected 1) = some 1 ∧
    7 ∉ (upsettable.core 0).sbPoison ∧ upsettable.gsec? 0 = some gsec ∧ homeOf 0 = 0 ∧ upsettable.line? 0 0 = some (line .m) ∧
    upsettable.line? 0 1 = some (line .s) ∧ upsettable.line? 0 2 = some (line .imD) ∧ upsettable.start.code = 0 := by decide +kernel
theorem test_upset_register : upsettable.coreIssues 0 = true ∧ upsettable.drill? ref = some drill ∧ drill.cur = some path ∧
    drill.status = .active ∧ drill.mem = none ∧ path.mask &&& 5 ≠ 0 := by decide +kernel
theorem test_upset_array : (upsettable.core 0).queue = [streamed] ∧ streamed.phase ≠ .queued := by decide +kernel
theorem test_upset_codes : find? (upsetNext (.tags 0)).rel.log 0 = some ⟨0x81200150, 0⟩ ∧ (upsetNext (.headland true)).start.code = 0xE12FB180 := by decide +kernel
theorem test_upset_cache : ((upsetNext (.line 0 0)).line? 0 0).map (·.st) = some .miA ∧ (upsetNext (.line 0 1)).line? 0 1 = none := by decide +kernel

/-! ## Witnesses: recovery, security, test and capture -/

def okResult : ResetResult := ⟨true, 0, [], true, 0, [], none, none⟩
def resetting (n : Nat) (b : Option (Bool × Bool)) : State :=
  { up with dies := [(0, { Die.reset with part := .resetting, run := some ⟨n, 0x80000000, b, false⟩ })] }
theorem test_reset_steps : ∀ n ∈ [1, 2, 3, 4, 5, 7], InReset (resetting n none) 0 n ⟨n, 0x80000000, none, false⟩ := by decide +kernel
theorem test_reset_bist : InReset (resetting 4 (some (true, true))) 0 4 ⟨4, 0x80000000, some (true, true), false⟩ ∧ testCode okResult true = none ∧
    testCode { okResult with sigBad := 0x3FFF } true = some 0x814001A0 := by decide +kernel
theorem test_reset_fails : ResetFails ⟨5, 0x80000000, none, false⟩ { okResult with trainOk := false } 0x80A000C5 ∧
    ResetFails ⟨7, 0x80000000, none, false⟩ { okResult with imageOk := false } 0x81300193 ∧
    ResetFails ⟨4, 0x80000000, some (true, true), false⟩ { okResult with dramFail := some 0 } 0x814001A2 :=
  ⟨.inl ⟨rfl, rfl, rfl⟩, .inr (.inl ⟨rfl, rfl, rfl⟩), .inr (.inr ⟨rfl, true, true, rfl, by decide⟩)⟩
/-- One column of dies in service between the headlands, the first of them in the last step of its reset. -/
def column : State :=
  let act : HPort := { HPort.reset with st := .active }
  let ports : SMap HPort := [(0, act), (2, act)]
  { up with
    dies := (List.range 24).map fun d =>
      (d, if d = 0 then { Die.reset with part := .resetting, run := some ⟨7, 0x80000000, none, false⟩, ports := ports }
          else if d < 7 then { Die.reset with pos := 4 * d, ports := ports } else { Die.reset with pos := 4 * (d - 7) + 1, part := .outOfService }),
    hlPorts := [(0, act), (4, act)] }
theorem test_reset_last : InReset column 0 7 ⟨7, 0x80000000, none, false⟩ ∧
    ∀ e ∈ ((column.modDie 0 fun x => { x with part := .inService }).newRoutes).nodes, e < 24 →
      ((column.modDie 0 fun x => { x with part := .inService }).newRoutes).isolated e = false := by decide +kernel
def restartComp : Comp := { serving .encode fun v => { v with restarting := true } with context := 0 }
theorem test_restarting : Restarting (boundAs restartComp up) 0 restartComp ∧ (∀ k ∈ restartComp.cur.slices, (boundAs restartComp up).dieUp (dieOf k) = true) ∧
    restartComp.lostPages = [] := by decide +kernel
theorem test_restarting_lost : let s : State := { boundAs restartComp up with dies := [(0, { Die.reset with part := .outOfService })] }
    Restarting s 0 restartComp ∧ (∃ k ∈ restartComp.cur.slices, (s.die (dieOf k)).part = .outOfService) ∧ NothingDue s restartComp := by decide +kernel

/-- A read-only region with a golden copy in host memory, page 0 under refetch. -/
def goldRegion : Region := { region0 with ro := true, golden := 0x200000 }
def goldComp : Comp := { comp0 with cur := { map0 with regions := [goldRegion] } }
def refetching : State := { boundAs goldComp up with dies := [(0, { Die.reset with refetch := [(0, ⟨0, 0, []⟩)] })] }
theorem test_refetch : Refetching refetching 0 0 0 goldRegion ⟨0, 0, []⟩ ∧ refetching.loadFirst ⟨0, 0, []⟩ = false ∧
    (refetching.pageSource 0 goldRegion 0).isSome = true := by decide +kernel
theorem test_refetch_settled : (∀ n ∈ pageSectors 0, refetching.settled n = true ∧ refetching.dirOf n = .un) ∧ refetching.parkedOn 0 = [] := by decide +kernel
/-- The page's source, read, can be written at once. -/
theorem test_refetch_put : (match refetching.fetchPage 0 goldRegion 0 with
    | some (u, bs) => (u.putPage 0 bs (.page 0)).2.isNone
    | none => false) = true := by decide +kernel
theorem test_refetch_late : let s : State := { refetching with time := { up.time with now := 40000000 } }
    Refetching s 0 0 0 goldRegion ⟨0, 0, []⟩ ∧ 0 + 40000000 ≤ s.time.now := by decide +kernel

/-! ### The root of trust. Whether a bundle or token is accepted rests on uninterpreted functions, so FW_STAGE has no closed witness. -/

def bundle0 : Bundle := { dm := 0, hlSvn := 1, cdSvn := 1, iface := 0, hlaVersion := 1, cdVersion := 1, cdDigest := 0, steppings := [] }
def pendingFw : State := { up with sec := { Sec.reset with booted := some bundle0, pending := some { bundle0 with hlSvn := 2 } } }
theorem test_fw_apply : AskedHere pendingFw 0x11 [op 0x11 0, 0, 1] ∧ pendingFw.sec.pending = some { bundle0 with hlSvn := 2 } ∧
    (∀ d ∈ diesOf ((entry 0 [op 0x11 0, 0, 1]).word 2), pendingFw.dieHeld d = false ∧ pendingFw.dieUp d = true) ∧ diesOf ((entry 0 [op 0x11 0, 0, 1]).word 2) = [0] :=
  ⟨asked_of (by decide +kernel) (by decide +kernel), by decide +kernel, by decide +kernel, by decide +kernel⟩
theorem test_fw_activate : AskedHere pendingFw 0x12 [op 0x12 0] ∧ AskedHere pendingFw 0x13 [op 0x13 0] ∧ pendingFw.sec.booted = some bundle0 ∧
    pendingFw.sec.bootBank = pendingFw.nv.activeBank :=
  ⟨asked_of (by decide +kernel) (by decide +kernel), asked_of (by decide +kernel) (by decide +kernel), by decide +kernel, by decide +kernel⟩
theorem test_svn_images : ∀ d ∈ List.range 24, (pendingFw.die d).image = bundle0.cdDigest := by decide +kernel
theorem natLe_length (n v : Nat) : (natLe n v).length = n := by
  induction n generalizing v with
  | zero => rfl
  | succ n ih => simp [natLe, ih]
/-- ATTEST to 1 MiB, its nonce at 0x7000. -/
def wAttest : List DWord := [op 0x14 0, 0, 0x100000, 0x7000]
theorem test_attest : AskedHere up 0x14 wAttest ∧ (entry 0 wAttest).zeroFrom 4 = true ∧
    (asking (entry 0 wAttest) up).hostRead none 0x7000 64 = some (List.replicate 64 0) :=
  ⟨asked_of (by decide +kernel) (by decide +kernel), by decide +kernel, by decide +kernel⟩
/-- Nothing of host memory is refused, so the evidence, whatever its bytes, can be written. -/
theorem test_attest_room (l : List Byte) (h : l.length < 2 ^ 40) : (asking (entry 0 wAttest) up).hostOk none 0x100000 l.length = true := by
  have e : (asking (entry 0 wAttest) up).mem.denied = [] := by decide +kernel
  simp only [State.hostOk, e, List.all_nil, Bool.and_true, decide_eq_true_eq]
  omega
theorem test_debug : AskedHere up 0x15 [op 0x15 0] ∧ AskedHere up 0x16 [op 0x16 0, 0, 0x7000] ∧ AskedHere up 0x17 [op 0x17 0] ∧
    ((asking (entry 0 [op 0x16 0, 0, 0x7000]) up).hostRead none 0x7000 11912).isSome = true :=
  ⟨asked_of (by decide +kernel) (by decide +kernel), asked_of (by decide +kernel) (by decide +kernel), asked_of (by decide +kernel) (by decide +kernel), by decide +kernel⟩
theorem test_unlock_expiry : let s : State := { up with sec := { Sec.reset with debugNow := true, scope := 1, expiry := 5 }, time := { up.time with now := 5 } }
    s.inService = true ∧ s.sec.debugNow = true ∧ s.sec.expiry ≤ s.time.now ∧ s.parkedDrills = [] := by decide +kernel

theorem test_bist : AskedHere up 0x1A [op 0x1A 0, 0, 0x800000] ∧ diesOf ((entry 0 [op 0x1A 0, 0, 0x800000]).word 2) = [23] ∧
    (∀ d ∈ diesOf ((entry 0 [op 0x1A 0, 0, 0x800000]).word 2), up.dieHeld d = false ∧ up.testBusy d = false ∧ up.dieUp d = true) :=
  ⟨asked_of (by decide +kernel) (by decide +kernel), by decide +kernel, by decide +kernel⟩
abbrev CaptureHere (s : State) (n : Nat) (w : List DWord) (y : Comp) : Prop := CaptureAsked (asking (entry 0 w) s) ⟨0, 0, 1⟩ n (entry 0 w) y
/-- The least ring, 1 MiB. -/
def wCapture : List DWord := [op 0x1B 0, 0, 0x100000, 0x100000, 0x8000000000000000]
theorem test_capture_start : CaptureHere (bound up) 0x1B wCapture comp0 := by
  refine ⟨?_, ?_, ?_, ?_, ?_, ?_, ?_, ?_⟩ <;> decide +kernel
theorem test_capture_words : (entry 0 wCapture).captureBad = false ∧ find? (asking (entry 0 wCapture) (bound up)).tst.captures 0 = none ∧
    comp0.serve.st.still = true ∧ (serving .encode id).serve.st.still = false := by decide +kernel
def capt (rs : List (List Byte)) : Capture :=
  { fn := 0, dest := 0x100000, pasid := none, size := 0x100000, wrap := true, payload := false, active := true, entry := none, buffer := rs, written := 0,
    tail := 0, oldest := 0, wrapped := false, seq := 1, lost := 0, lostNow := 0, snapAge := 0 }
def capturing (rs : List (List Byte)) : State := { bound up with tst := { up.tst with captures := [(0, capt rs)] } }
theorem test_capture_stop : CaptureHere (capturing []) 0x1C [op 0x1C 0] comp0 := by
  refine ⟨?_, ?_, ?_, ?_, ?_, ?_, ?_, ?_⟩ <;> decide +kernel
theorem held_half (l : List Byte) (h : l.length = 0x80000) : 0x80000 ≤ (capt [l]).held := by simp [Capture.held, capt, h]
theorem test_capture_half : ∃ l : List Byte, l.length = 0x80000 ∧ find? (capturing [l]).tst.captures 0 = some (capt [l]) ∧ (capt [l]).active = true ∧
    0x80000 ≤ (capt [l]).held :=
  ⟨List.replicate 0x80000 0, List.length_replicate .., rfl, rfl, held_half _ (List.length_replicate ..)⟩
/-- A snapshot record of the composition as it stands: word of SEQ, LEN 128 and TYPE 8, its time, the bind words, the shape. -/
def snapBytes : List Byte := natLe 8 (8 * 2 ^ 56 + 128 * 2 ^ 32) ++ natLe 8 0 ++ natLe 24 0 ++ (bound up).shape 0 comp0
/-- REPLAY of it from 1 MiB of host memory. -/
def wReplay : List DWord := [op 0x1D 0, 0, 0x100000, 144]
def replayable : State := bound { up with mem := { up.mem with host := snapBytes.mapIdx fun i b => (0x100000 + i, b) } }
theorem test_replay_asked : AskedHere replayable 0x1D wReplay ∧ comp0.serve.st = .stopped ∧ (entry 0 wReplay).zeroFrom 4 = true :=
  ⟨asked_of (by decide +kernel) (by decide +kernel), by decide +kernel, by decide +kernel⟩
set_option maxRecDepth 20000 in
theorem test_replay_read : (asking (entry 0 wReplay) replayable).hostRead none 0x100000 144 = some snapBytes := by rfl
set_option maxRecDepth 20000 in
theorem test_replay_record : (parseRecords (144 / 16 + 1) snapBytes).dropWhile (fun r => decide (recType r ≠ 8)) = [snapBytes] := by rfl
theorem shape_length (s : State) (c : Nat) (y : Comp) : (s.shape c y).length = 104 := by
  simp [State.shape, natLe_length, upto]
theorem same_table : (asking (entry 0 wReplay) replayable).kernelTable 0 comp0 = (bound up).kernelTable 0 comp0 := by decide +kernel
theorem test_replay_shape : snapshotShape snapBytes = (asking (entry 0 wReplay) replayable).shape 0 comp0 := by
  have e : (asking (entry 0 wReplay) replayable).shape 0 comp0 = (bound up).shape 0 comp0 := by simp only [State.shape, same_table]
  have h : (natLe 8 (8 * 2 ^ 56 + 128 * 2 ^ 32) ++ natLe 8 0 ++ natLe 24 0).length = 40 := by simp [natLe_length]
  rw [e, snapshotShape, snapBytes, List.drop_left' h, List.take_of_length_le (by rw [shape_length])]
/-! ## Witnesses: registers, module, start-up -/

/-- The failed state keeps the global block (R558). -/
theorem test_reaches : Reaches up 0 0x03050000 0x03050000 ⟨.grnPinCfg, 16, 0, false⟩ ∧ up.start.failed = false ∧ up.barOpen 0 = true := by decide +kernel
/-- Reads: of an unmapped offset, of the high half of a 64-bit register; a counter that a read clears. -/
theorem test_reads : bar0Key 1 0x10000 = none ∧ Reaches vfs 1 12 0x10100C ⟨.hstAqSqBase, 0, 1, true⟩ ∧ Reaches up 0 0x100008 0x100008 ⟨.hstAqSqBase, 0, 0, false⟩ := by
  decide +kernel
theorem test_read_clear : (regAt 0x030300AC).map (fun a => (a.reg, a.blk, a.idx)) = some (.rlyArrChk, 16, 5) ∧ Reg.rlyArrChk.row.access = .rc ∧
    Reg.rlyArrChk.row.wide = false := by decide +kernel
theorem test_latch : latchOf [(0, (0x100008, (7 : Word)))] 0 0x100008 = some 7 ∧ latchOf [(0, (0x100008, (7 : Word)))] 1 0x100008 = none := by decide +kernel
theorem test_refused_value : Reg.grnPinCfg.takes (0x0714 &&& Reg.grnPinCfg.mask) = false ∧ Reg.grnPinCfg.takes (0x0709 &&& Reg.grnPinCfg.mask) = true ∧
    Reg.grnPinCfg.row.access = .rw := by decide +kernel
theorem test_port_map : portMapOk 0x22222222 = true ∧ portMapOk 0x6 = false ∧ portMapOk 0x5 = true := by decide +kernel

/-! ### Chapter 21's example: registers of logical die 16 -/

theorem test_register_sums : Reg.off .glbDieInfo 16 0 = 0x03000000 ∧ Reg.off .hdgLaneRole 16 0 = 0x03010000 ∧ Reg.off .hdgLaneRole 16 1 = 0x03010004 ∧
    Reg.off .grnPinCfg 16 0 = 0x03050000 ∧ up.reg .grnPinCfg 16 0 = 0x0A0C := by decide +kernel
/-- 0x0709 is taken. -/
theorem test_pin_cfg : (match Machine.exec (.grnPinCfgWrite 16 0x709) up with
    | .next t => t.reg .grnPinCfg 16 0
    | _ => 0) = 0x709 := by decide +kernel
/-- 0x0714 is refused with code 0x1151_0200 at 0x0305_0000. -/
theorem test_pin_cfg_refused : (match Machine.exec (.grnPinCfgWrite 16 0x714) up with
    | .next t => (t.reg .grnPinCfg 16 0, t.reg .glbRegErr 0 0, t.reg .glbRegErrAddr 0 0)
    | _ => (0, 0, 0)) = (0x0A0C, 0x11510200, 0x03050000) := by decide +kernel

/-- The admin queue registers: of a function with AQ_EN 1 and of one with AQ_EN 0. -/
theorem test_aq_kept : ((asking (entry 0 [op 0 0]) up).fn 0).aqEn = true ∧ (up.fn 0).aqEn = false ∧ bar0Key 0 0x100008 = some 0x100008 := by decide +kernel
theorem test_link_partners : linkTrains ⟨true, 1, 8⟩ = true ∧ linkTrains ⟨false, 3, 16⟩ = false ∧ linkTrains ⟨true, 0, 16⟩ = false ∧ linkTrains ⟨true, 3, 4⟩ = false := by
  decide

/-! ### The module -/

theorem test_enable : State.reset.mod.enable = false ∧ ({ State.reset.mod with conv := .starting, enable := true } : Module).powered = true := by decide +kernel
def starting (n : Nat) : State := { State.reset with mod := { Module.reset with pwrgd := true, conv := .on, enable := true }, start := { Startup.reset with step := n, chain := if n = 4 then 2 else 28 } }
theorem test_in_step : ∀ n ∈ [1, 2, 3, 4, 5, 6, 7, 8, 9, 10, 11, 12], InStep (starting n) n := by decide +kernel
theorem test_conv : let s : State := { State.reset with mod := { Module.reset with conv := .starting, enable := true } }
    s.mod.conv = .starting ∧ s.mod.enable = true := by decide +kernel
/-- Step 2 with a fused minimum of 1 and two empty banks. -/
def unfit : State := { starting 2 with nv := { (starting 2).nv with hlSvnMin := 1 } }
theorem test_boot_fails : ∀ b, ¬ (unfit.nv.bundleOk (unfit.nv.bank b) = true ∧ unfit.nv.svnOk (unfit.nv.bank b) = true) := by
  intro b h
  have := h.2
  revert this
  cases b <;> decide +kernel
theorem test_chain : (starting 4).start.chain = 2 ∧ (2 : Nat) < 28 := by decide +kernel
theorem test_images : let s : State := { starting 9 with sec := { Sec.reset with booted := some bundle0 } }
    s.sec.booted = some bundle0 ∧ (∀ p ∈ List.range 28, s.fallowAt p = false → ([] : List Nat).contains p = false) ∧ s.fallowAt 3 = false := by decide +kernel
theorem test_port : let s : State := { up with mod := { up.mod with perst := false, linkUp := true } }
    s.mod.pwrgd = true ∧ s.mod.perst = false ∧ s.mod.linkUp = true ∧ s.start.done = true ∧ s.host.vfs ≤ 24 := by decide +kernel
theorem test_mctp : up.mctpOn = true ∧ up.mod.mgmtMode = false := by decide +kernel
theorem test_idle : up.pending = [] ∧ ({ up.time with running := true } : Time).back = 0 ∧ up.time.slew = 0 := by decide +kernel
theorem test_reset_canonical : Memory.wf State.reset.mem.dram = true ∧ Memory.wf State.reset.mem.host = true := by decide +kernel
/-- The last sector exists, the one after it does not. -/
theorem test_absent : (match Machine.exec (.getS (0xD800000000 / 256) 0 0) up with
    | .fault .absentSector => true
    | _ => false) = true ∧ (match Machine.exec (.getS (0xD800000000 / 256 - 1) 0 0) up with
    | .next _ => true
    | _ => false) = true := by decide +kernel
/-! ## The spec's worked examples -/

/-- Chapter 1: positions 6 and 19 fused defective, 13 and 25 spare, 21 fails logic BIST. -/
def exampleRecs : SMap DWord :=
  (List.range 28).map fun p =>
    (p, if p = 6 ∨ p = 19 then dieRecord p 2 5 0x1F 0 else if p = 21 then dieRecord p 0 1 0x1F 0 else dieRecord p (if p = 13 ∨ p = 25 then 1 else 0) 0 0x1F 0)
def examplePanel : State := { starting 7 with start := { (starting 7).start with recs := exampleRecs } }
theorem test_fallow : examplePanel.chooseFallow = .inl [6, 19, 21, 13] ∧ admissible [6, 19, 21, 25] = false := by decide +kernel
def exampleNext : State :=
  match Machine.exec (.startupStepComplete ⟨true, [], [], [], [], [], [], 0⟩) examplePanel with
  | .next t => t
  | _ => up
/-- Table 01-3, and the fallow set as GLB_FALLOW holds it. -/
theorem test_logical : exampleNext.start.fallow = BitVec.ofNat 28 (2 ^ 6 + 2 ^ 13 + 2 ^ 19 + 2 ^ 21) ∧
    (List.range 24).map (fun d => (exampleNext.die d).pos) = [0, 1, 2, 3, 4, 5, 7, 8, 9, 10, 11, 12] ++ [14, 15, 16, 17, 18, 20, 22, 23, 24, 25, 26, 27] := by
  decide +kernel
/-- Table 01-4: the bypass groups; the lane roles of die 18's ports N and E. -/
theorem test_detours : (detour 6).map (fun h => (h.1.1, h.2.1)) = [(2, 3), (3, 7), (7, 11), (11, 10)] ∧
    exampleNext.bypassGroups 19 (14, 2) = 0x30 ∧ exampleNext.bypassGroups 13 (14, 2) = 0xC0 ∧ exampleNext.bypassGroups 21 (17, 1) = 0x30 := by decide +kernel
theorem test_lane_roles : exampleNext.rolesAt 18 0 = 0xAA55 ∧ exampleNext.rolesAt 18 1 = 0 := by decide +kernel

/-- Chapter 11: the same panel with every port up, and with port 14-18 down. -/
def meshUp (down : Bool) : State :=
  let port (p q : Nat) : HPort :=
    { HPort.reset with st := if down ∧ ((p = 14 ∧ q = 2) ∨ (p = 18 ∧ q = 0)) then .down else if exampleNext.rolesAt p q = 0 then .off else .active, bypassUp := 0xFF }
  { up with start := { up.start with fallow := exampleNext.start.fallow, recs := exampleNext.start.recs },
            dies := (List.range 24).map fun d => let p := (exampleNext.die d).pos; (d, { Die.reset with pos := p, ports := (List.range 4).map fun q => (q, port p q) }) }
theorem test_route_up : (meshUp false).route? 2 18 = some ⟨6, 5, 2, 0⟩ := by decide +kernel
theorem test_route_down : (meshUp true).route? 2 18 = some ⟨8, 0, 3, 0⟩ := by decide +kernel

/-- Chapter 10: set offset 0x3_1D6B_5940 of channels 80-87, and its place in the stack (Table 10-4). -/
theorem test_interleave : setPlace [80, 81, 82, 83, 84, 85, 86, 87] 0x31D6B5940 = 0x30C3AD6940 ∧ sliceOfDpa 0x30C3AD6940 = 43 ∧ dieOfDpa 0x30C3AD6940 = 5 ∧
    setOffset? [80, 81, 82, 83, 84, 85, 86, 87] 0x30C3AD6940 = some 0x31D6B5940 := by decide +kernel
theorem test_stack_place : stackPlace 0x63AD6940 = ⟨0, 1, 2, 3, 18266, 10, 0⟩ := by decide +kernel

/-- Chapter 4: threads 5, 9 and 12 add 1, 2 and 4 to a word that holds 10. -/
theorem test_combined : let r := groupOnSector ⟨ref, 1, 8, .add, .u32, 0, 0, 0, false, [⟨5, 1, 0⟩, ⟨9, 2, 0⟩, ⟨12, 4, 0⟩]⟩ (BitVec.ofNat 2048 10)
    r.2 = [10, 11, 13] ∧ leNat (sectorBytes r.1 0 4) = 17 := by decide +kernel

/-- Chapter 12: words 0, 2 and 3 of the first frame's header. -/
theorem test_frame_header : tltW0 0 1 0x2A5 0x0C3 0x1200 = 0x10012A50C3001200 ∧ tltW2 0x0417 3 12 131 9 true 2 4096 = 0x041703320C991000 ∧
    tltW3 0 0x55 0 = 0x0000005500000000 := by decide +kernel
/-- Chapter 12: a pass window begins at its first nanosecond. -/
theorem test_window : let v : Serve := { Serve.reset with s0 := 1000000000, pframes := 1 }
    v.window 1040000000 = 2 ∧ v.window 1039999999 = 1 := by decide +kernel
/-- Chapter 13: the logged pages of an 8 KiB write show in byte 582 of the snapshot as 0x70. -/
theorem test_dirty_log : let l : DirtyLog := ⟨0x7F0000000000, 0x7F0004000000, some 0x42, [], false⟩
    (l.mark (some 0x42) 0x7F0001234560 8192).1.pages = [0x7F0001234, 0x7F0001235, 0x7F0001236] ∧
      (0x7F0001234 - 0x7F0000000) / 8 = 582 ∧ ({ l with lo := 0x7F0001230000, hi := 0x7F0001238000, pages := [0x7F0001234, 0x7F0001235, 0x7F0001236] } : DirtyLog).bitmap = [0x70] := by
  decide +kernel

/-! ## Idle time -/

/-- A state that a tick leaves as it is but for the time, the dies and the ports. -/
theorem test_nothing_waits : NothingWaits column ∧ column.inService = true ∧ column.pending = [] := by
  refine ⟨⟨rfl, ?_, rfl, ?_, ?_⟩, by decide +kernel, rfl⟩ <;> decide +kernel

/-! ## Ill-formed commands are refused -/

theorem test_wf_drill : Instr.wf (.iadd ⟨192, 0, 0⟩ ⟨0, false⟩) = false ∧ Instr.wf (.iadd ⟨0, 4, 0⟩ ⟨0, false⟩) = false ∧
    Instr.wf (.iadd ⟨0, 0, 8⟩ ⟨0, false⟩) = false ∧ Instr.wf (.iadd ⟨191, 3, 7⟩ ⟨0, false⟩) = true := by decide +kernel
theorem test_wf_position : Instr.wf (.dieRecordAppend 28 0) = false ∧ Instr.wf (.enumResponseTimeout 28) = false ∧ Instr.wf (.configRequest 25 .other) = false := by decide +kernel
theorem test_wf_entry : EntryRef.wf ⟨25, 0, 0⟩ = false ∧ EntryRef.wf ⟨0, 4096, 0⟩ = false ∧ EntryRef.wf ⟨24, 4095, 9⟩ = true := by decide +kernel
theorem test_wf_port : PortRef.wf ⟨24, 0⟩ = false ∧ PortRef.wf ⟨0x1F, 4⟩ = false ∧ PortRef.wf ⟨0x1F, 3⟩ = true := by decide +kernel
theorem test_wf_queue : XQueue.wf ⟨24, 0⟩ = false ∧ XQueue.wf ⟨0, 9⟩ = false ∧ XQueue.wf ⟨23, 8⟩ = true := by decide +kernel
theorem test_wf_group : AtomGroup.wf ⟨ref, 1, 0, .add, .u32, 0, 0, 0, false, []⟩ = false ∧ AtomGroup.wf ⟨ref, 1, 0, .add, .u32, 256, 0, 0, false, [⟨0, 0, 0⟩]⟩ = false ∧
    AtomGroup.wf ⟨ref, 1, 0, .add, .u32, 0, 0, 0, false, [⟨1, 0, 0⟩, ⟨0, 0, 0⟩]⟩ = false ∧ AtomGroup.wf ⟨ref, 1, 0, .add, .u32, 0, 0, 0, false, [⟨64, 0, 0⟩]⟩ = false := by decide +kernel
theorem test_wf_agent : NcAgent.wf (.reeve 24) = false ∧ NcAgent.wf (.remote 4096) = false ∧ NcAgent.wf (.transfer ⟨0, 9⟩ 0) = false ∧
    NcAgent.wf .bar4 = true := by decide +kernel
theorem test_wf_frame : TltFrame.wf ⟨eth0, 0, 0, 0, 0, List.replicate 4096 0⟩ = true ∧ Pool.wf ⟨0, 24⟩ = false ∧ Discovery.wf { disc with port := 16 } = false := by decide +kernel
end Sys2Proof.Test
end

section
/-! SUPPORT. The routes that step 8 of start-up writes (R317-R321), and a panel whose step 8 raises MGMT_ALERT#: O51 does not hold of every state. -/

namespace Sys2Proof.StartupSteps

open Sys2Proof Sys2Proof.Machine Sys2Proof.Claim

/-! ## Route tables -/

/-- A choice that never lets go of what it holds ends with something, unless there was nothing to choose from. -/
theorem foldl_isSome_of_ne_nil {α : Type} (f : Option α → α → Option α) (hf : ∀ o a, (f o a).isSome = true) {l : List α} (hl : l ≠ []) :
    (l.foldl f none).isSome = true := by
  obtain rfl | ⟨l, a, rfl⟩ := List.eq_nil_or_concat l
  · exact absurd rfl hl
  · rw [List.concat_eq_append, List.foldl_append]; exact hf _ a

/-- One valid turn is enough for a route (R318, R319). -/
theorem route?_isSome_of_walk {s : State} {src dst r m : Nat} (hr : r < 7) (hm : m < 4)
    (h : (s.walk 40 (s.spotOf src 0) 0 r m dst).isSome = true) : (s.route? src dst).isSome = true := by
  obtain ⟨n, hn⟩ := Option.isSome_iff_exists.1 h
  refine foldl_isSome_of_ne_nil _ (fun o a => ?_) (List.ne_nil_of_mem (a := ⟨n, r, m, 0⟩) ?_)
  · cases o with
    | none => rfl
    | some b => dsimp only; split <;> rfl
  · refine List.mem_flatMap.2 ⟨0, ?_, List.mem_flatMap.2 ⟨r, List.mem_range.2 hr, List.mem_filterMap.2 ⟨m, List.mem_range.2 hm, ?_⟩⟩⟩
    · split <;> simp [upto]
    · simp [hn]

/-- A table made from its keys holds what its function gives. -/
theorem find?_filterMap_isSome {α : Type} (f : Nat → Option α) {l : List Nat} {k : Nat} (hk : k ∈ l) (hf : (f k).isSome = true) :
    (find? (l.filterMap fun d => (f d).map fun r => (d, r)) k).isSome = true := by
  obtain ⟨a, ha⟩ := Option.isSome_iff_exists.1 hf
  induction l with
  | nil => cases hk
  | cons d l ih =>
    by_cases hd : d = k
    · subst hd; simp [ha, find?]
    · have hl : k ∈ l := (List.mem_cons.1 hk).resolve_left (Ne.symm hd)
      cases hfd : f d with
      | none => simpa [hfd] using ih hl
      | some b => simpa [hfd, find?, hd] using ih hl

/-- A node has an entry for every other one that it has a route to. -/
theorem find?_routesFrom_isSome {s : State} {src dst : Nat} (hd : dst ∈ s.nodes) (hne : dst ≠ src) (hr : (s.route? src dst).isSome = true) :
    (find? (s.routesFrom src) dst).isSome = true :=
  find?_filterMap_isSome _ (List.mem_filter.2 ⟨hd, decide_eq_true hne⟩) hr

/-! ## Switches -/

/-- The nodes that have a switch: the dies, headlands A and B (R323). -/
abbrev HasSwitch (n : Nat) : Prop := n < 24 ∨ n = 0x1E ∨ n = 0x1F

theorem hasSwitch_of_mem_nodes {s : State} {n : Nat} (h : n ∈ s.nodes) : HasSwitch n := by
  simp only [State.nodes, upto, List.mem_append, List.mem_filter, List.mem_range, List.mem_cons, List.not_mem_nil, or_false] at h
  exact h.imp_left And.left

theorem switch_setSwitch (s : State) {n m : Nat} (hn : HasSwitch n) (hm : HasSwitch m) (w : Switch) :
    (s.setSwitch n w).switch m = if m = n then w else s.switch m := by
  unfold State.setSwitch State.switch
  by_cases hn24 : n < 24 <;> by_cases hm24 : m < 24
  · by_cases h : m = n
    · subst h; simp [hm24]
    · simp [hn24, hm24, h, State.die_modDie_other _ _ h]
  · simp [hn24, hm24, show m ≠ n by omega]
  · simp [hn24, hm24, show m ≠ n by omega, State.die]
  · have key : m - 0x1E = n - 0x1E ↔ m = n := by omega
    simp [hn24, hm24, getD_setD, key]

/-- Writing a table for every node of a list: each of them then has the one computed for it. -/
theorem routes_foldl_setSwitch (g : Nat → List (Nat × Route)) {n : Nat} (hn : HasSwitch n) (ns : List Nat) (hns : ∀ m ∈ ns, HasSwitch m) (s : State)
    (h : n ∈ ns ∨ (s.switch n).routes = g n) :
    (((ns.map fun m => (m, g m)).foldl (fun (s : State) t => s.setSwitch t.1 { s.switch t.1 with routes := t.2 }) s).switch n).routes = g n := by
  induction ns generalizing s with
  | nil => exact h.resolve_left List.not_mem_nil
  | cons m ns ih =>
    refine ih (fun k hk => hns k (List.mem_cons_of_mem _ hk)) _ ?_
    rw [switch_setSwitch _ (hns m List.mem_cons_self) hn]
    by_cases hm : n = m
    · subst hm; simp
    · rcases h with h | h
      · exact .inl ((List.mem_cons.1 h).resolve_left hm)
      · simp [hm, h]

/-- R319: after the recomputation every node has its new table. -/
theorem routes_newRoutes {s : State} {n : Nat} (h : n ∈ s.nodes) : (s.newRoutes.switch n).routes = s.routesFrom n :=
  routes_foldl_setSwitch s.routesFrom (hasSwitch_of_mem_nodes h) s.nodes (fun _ => hasSwitch_of_mem_nodes) s (.inl h)

/-- A switch is no part of the module or of start-up, and no node runs or stops for what its switch holds. -/
theorem setSwitch_frame (s : State) (n : Nat) (w : Switch) :
    (s.setSwitch n w).mod = s.mod ∧ (s.setSwitch n w).start = s.start ∧ (s.setSwitch n w).nodes = s.nodes := by
  unfold State.setSwitch
  split
  · refine ⟨rfl, rfl, congrArg (fun l => l ++ [0x1E, 0x1F]) (List.filter_congr fun d _ => ?_)⟩
    unfold State.dieUp
    by_cases h : d = n
    · subst h; simp
    · rw [State.die_modDie_other _ _ h]
  · exact ⟨rfl, rfl, rfl⟩

/-- New route tables change switches alone. -/
theorem newRoutes_frame (s : State) : s.newRoutes.mod = s.mod ∧ s.newRoutes.start = s.start ∧ s.newRoutes.nodes = s.nodes := by
  refine List.foldlRecOn _ _ (motive := fun (t : State) => t.mod = s.mod ∧ t.start = s.start ∧ t.nodes = s.nodes) ⟨rfl, rfl, rfl⟩ fun t ht e _ => ?_
  obtain ⟨hmod, hstart, hnodes⟩ := setSwitch_frame t e.1 { t.switch e.1 with routes := e.2 }
  exact ⟨hmod.trans ht.1, hstart.trans ht.2.1, hnodes.trans ht.2.2⟩

/-- Where each two nodes have a valid turn in the sender's row, no die is isolated (R321). -/
theorem not_isolated_newRoutes {s : State} {m : Nat} (hm : m < 4) (hall : ∀ d < 24, d ∈ s.nodes)
    (h : ∀ a ∈ s.nodes, ∀ b ∈ s.nodes, a ≠ b → ∃ r < 7, (s.walk 40 (s.spotOf a 0) 0 r m b).isSome = true) {d : Nat} (hd : d < 24) :
    s.newRoutes.isolated d = false := by
  have entry {a b : Nat} (ha : a ∈ s.nodes) (hb : b ∈ s.nodes) (hne : b ≠ a) : (find? (s.newRoutes.switch a).routes b).isSome = true := by
    obtain ⟨r, hr, hw⟩ := h a ha b hb hne.symm
    rw [routes_newRoutes ha]
    exact find?_routesFrom_isSome hb hne (route?_isSome_of_walk hr hm hw)
  have none_lacks : s.newRoutes.lacks d = [] := by
    refine List.filter_eq_nil_iff.2 fun e he => ?_
    rw [(newRoutes_frame s).2.2] at he
    by_cases hed : e = d
    · simp [hed]
    · have h1 := entry (hall d hd) he hed
      have h2 := entry he (hall d hd) (Ne.symm hed)
      simp [Option.isSome_iff_ne_none.1 h1, Option.isSome_iff_ne_none.1 h2]
  simp [State.isolated, none_lacks]

/-! ## Step 8 -/

@[simp] theorem nextStep_mod (s : State) : s.nextStep.mod = s.mod := rfl
@[simp] theorem nextStep_failed (s : State) : s.nextStep.start.failed = s.start.failed := rfl

/-- The end of step 8: roles, training, routes; then step 9, or the failure 0xE01F_F023 (R28-R31, R37). -/
theorem exec_step8 {s : State} (r : StepResult) (h : InStep s 8) :
    Machine.exec (.startupStepComplete r) s = .next (
      if ((s.assignRoles.trainAll r).newRoutes).connected then ((s.assignRoles.trainAll r).newRoutes).nextStep
      else ((s.assignRoles.trainAll r).newRoutes).failStart 0xE01FF023) := by
  obtain ⟨hs, h8⟩ := h
  simp [Machine.exec, execStartupStepComplete, hs, h8]

/-! ## A panel whose step 8 raises MGMT_ALERT# -/

/-- Composition 0, which holds slice 0, is bound to a function 0x40000; R369 numbers the functions from 0 to 24. -/
def strayComp : Comp where
  fn := 0x40000
  tenant := 0
  eventCq := 0
  pasid := none
  pasidField := 0
  acct := false
  span := false
  auth := 0
  cur := { epoch := 0, slices := [0], sets := [], regions := [], safeguard := 0, g1 := false, discardPoison := false, prio := 0 }
  prev := none
  context := 0
  change := none
  settling := none
  move := none
  pinMoves := []
  unbinding := false
  unbindEntry := none
  serve := .reset
  peers := []
  leaving := []
  lost := []
  record := []

/-- Its event queue, whose ring begins with the last byte of the address space: no entry can be written. -/
def strayCq : Cq where
  base := 0xFFFFFFFFFFFFFFFF
  recBase := 0
  size := 2
  pasid := none
  vector := 0
  aggr := 0
  hold := 0
  head := 0
  tail := 0
  phase := true
  stopped := false
  reserved := 0
  buffer := []
  lost := false
  unsignalled := 0
  oldestAt := 0

/-- Start-up in step 8: dies 0-6 stand in column 0, the other columns are fallow, and every die of a higher number has position 0 too. -/
def columnPanel : State :=
  { State.reset with
      mod := { Module.reset with pwrgd := true, conv := .on, enable := true }
      start := { Startup.reset with step := 8, fallow := 0xEEEEEEE }
      dies := (List.range 7).map fun d => (d, { Die.reset with pos := 4 * d })
      yoke := { Yoke.reset with comps := [(0, strayComp)] }
      host := { State.reset.host with fns := [(0x40000, { Fn.reset with cqs := [(0, strayCq)] })] } }

theorem columnPanel_inStep : InStep columnPanel 8 := ⟨by decide, rfl⟩

/-- Every lane group passes but groups 1-7 of die 0's port S. -/
def narrowLink : StepResult where
  hlbImageOk := true
  logicFail := []
  sramFail := []
  trainFail := []
  spareUsed := []
  lanesPass := (List.range 120).map fun k => (k, if k = 2 then 0x01 else 0xFF)
  imageFail := []
  xltUp := 0

/-- The panel with its ports trained. -/
def trainedPanel : State := columnPanel.assignRoles.trainAll narrowLink

/-- The narrow link is reported to composition 0 (0x10B0_00D2). The failed write of that entry is reported in turn: 0x40D0_00F1 with a site of
0x40000 has severity 0x8, and the log's entry 1 is offered over MCTP (R481, R576). -/
theorem trainedPanel_alerts : trainedPanel.mod.alerts = [1] := by decide +kernel

theorem trainedPanel_not_failed : trainedPanel.start.failed = false := by decide +kernel

theorem trainedPanel_nodes : trainedPanel.nodes = List.range 24 ++ [0x1E, 0x1F] := by decide +kernel

/-- Along the column each node reaches each other one by its own row's turn. -/
theorem trainedPanel_walks : ∀ a ∈ List.range 24 ++ [0x1E, 0x1F], ∀ b ∈ List.range 24 ++ [0x1E, 0x1F], a ≠ b →
    ∃ r < 7, (trainedPanel.walk 40 (trainedPanel.spotOf a 0) 0 r 0 b).isSome = true := by
  have walks : ∀ a ∈ List.range 24 ++ [0x1E, 0x1F], ∀ b ∈ List.range 24 ++ [0x1E, 0x1F], a ≠ b →
      (trainedPanel.walk 40 (trainedPanel.spotOf a 0) 0 (min 6 (trainedPanel.spotOf a 0).row.toNat) 0 b).isSome = true := by decide +kernel
  exact fun a ha b hb hne => ⟨min 6 _, by omega, walks a ha b hb hne⟩

/-- Both headlands reach every die (R37). -/
theorem trainedPanel_reached : ∀ r ∈ [(-1 : Int), 7], ∀ d ∈ upto 24,
    (trainedPanel.newRoutes.reached 40 ((upto 4).map fun c => ({ row := r, col := c } : Spot))).contains (trainedPanel.newRoutes.spotOf d 0) = true := by
  decide +kernel

theorem trainedPanel_connected : trainedPanel.newRoutes.connected = true := by
  have not_isolated : ∀ d ∈ upto 24, (!trainedPanel.newRoutes.isolated d) = true := fun d hd => by
    rw [not_isolated_newRoutes (m := 0) (by decide) _ _ (List.mem_range.1 hd)]; rfl
    · rw [trainedPanel_nodes]; exact fun e he => List.mem_append_left _ (List.mem_range.2 he)
    · rw [trainedPanel_nodes]; exact trainedPanel_walks
  rw [State.connected, Bool.and_eq_true]
  exact ⟨List.all_eq_true.2 fun r hr => List.all_eq_true.2 (trainedPanel_reached r hr), List.all_eq_true.2 not_isolated⟩

/-- So step 8 ends, and step 9 follows. -/
theorem exec_columnPanel : Machine.exec (.startupStepComplete narrowLink) columnPanel = .next trainedPanel.newRoutes.nextStep :=
  (exec_step8 narrowLink columnPanel_inStep).trans (congrArg Host.Outcome.next (if_pos trainedPanel_connected))

/-- Refutes O51 by its clause on step 8, which says that the step leaves the module as it is or fails start-up: of a panel in start-up that holds
a composition of a function beyond R369's, a report during training raises MGMT_ALERT#, and step 9 follows all the same. -/
theorem not_startupFollowsItsSteps : ¬ Obligations.StartupFollowsItsSteps := by
  unfold Obligations.StartupFollowsItsSteps
  rintro ⟨-, -, -, -, -, -, -, step8, -⟩
  obtain ⟨t, ht, hend, -⟩ := step8 columnPanel narrowLink columnPanel_inStep
  obtain rfl := Host.Outcome.next.inj (exec_columnPanel.symm.trans ht)
  obtain ⟨hmod, hstart, -⟩ := newRoutes_frame trainedPanel
  rcases hend with ⟨-, -, -, same_mod⟩ | ⟨failed, -⟩
  · rw [nextStep_mod, hmod] at same_mod
    exact absurd (trainedPanel_alerts.symm.trans (congrArg Module.alerts same_mod)) (by decide)
  · rw [nextStep_failed, hstart, trainedPanel_not_failed] at failed
    cases failed

end Sys2Proof.StartupSteps
end

section
/-! SUPPORT. The state after reset (O60), and the module's power-up and shutdowns (O50). -/

namespace Sys2Proof.ModulePower

open Sys2Proof Sys2Proof.Machine Sys2Proof.Claim

/-! ## Reset -/

/-- Table 21-1: no register is stored after reset, so each reads as its table says. -/
theorem reset_registers : ∀ e ∈ [(Reg.glbId, 0x24180100), (.xltPortMapNext, 0x22222222), (.xltEthertype, 0x88B5), (.xltRetxCfg, 0x1028),
    (.timPtpCfg, 0x100), (.timStepThr, 10000), (.timHoldLimit, 60), (.yokSchedCfg, 1), (.pwrCapHost, 1500), (.pwrCapBmc, 1500), (.pwrMargin, 20),
    (.rlyHayCfg, 1), (.hstFnCtrl, 0)], State.reset.reg e.1 0 0 = e.2 := by
  decide +kernel

/-- No die is listed after reset: each is as at power-up. -/
theorem die_reset (d : Nat) : State.reset.die d = Die.reset := rfl

/-- No core is listed after reset: each holds nothing. -/
theorem core_reset (k : Nat) : State.reset.core k = Core.reset := rfl

/-- Settles O60: nothing is listed in the state after reset, so every part reads as its own reset value. -/
theorem resetLeavesTheStatedState : Obligations.ResetLeavesTheStatedState := by
  refine ⟨⟨rfl, rfl, rfl, rfl, rfl, rfl, rfl, rfl, fun d => ?_, fun k => ?_, reset_registers⟩, rfl, rfl⟩
  · rw [die_reset]; exact ⟨rfl, rfl, rfl, rfl⟩
  · rw [core_reset]; exact ⟨rfl, rfl, rfl⟩

/-! ## Shutdown -/

/-- What every shutdown leaves (R39, R571, R572). -/
theorem shutDown_powerOff (s : State) (c : Code) : ShutDown s (s.powerOff c) c := ⟨rfl, rfl, rfl, rfl, rfl, rfl, rfl, rfl, rfl⟩

/-- Pins that change just before a shutdown make no difference to it: they hold no port-map record that is still to be stored (R559). -/
theorem shutDown_of_setMod {s t : State} {c : Code} {f : Module → Module} (hf : (f s.mod).mapOld = s.mod.mapOld) (h : ShutDown (s.setMod f) t c) :
    ShutDown s t c := by
  have unstored : (s.setMod f).mapUnstored = s.mapUnstored := by
    unfold State.mapUnstored
    rw [show (s.setMod f).mod.mapOld = s.mod.mapOld from hf]
    rfl
  have left : (s.setMod f).mapLeft = s.mapLeft := by unfold State.mapLeft; rw [unstored]; rfl
  unfold ShutDown at h ⊢
  rw [left] at h
  exact h

/-- Table 17-1: the input is in range. -/
theorem inputOk_iff (mv : Nat) : inputOk mv = true ↔ 46000 ≤ mv ∧ mv ≤ 56000 := by simp [inputOk]

/-- R569-R571: ENABLE starts the converters where the input is in range and ENABLE was low long enough; without a clock the module shuts down. -/
theorem exec_enableRise {s : State} (mv low : Nat) (sysclk : Bool) (h : s.mod.enable = false) :
    Machine.exec (.enableRise mv low sysclk) s = .next (
      let x := s.setMod fun m => { m with enable := true, inputMv := mv, conv := if inputOk mv = true ∧ 100 ≤ low then .starting else .blocked }
      if sysclk = true then x else x.powerOff 0xE11FF139) :=
  congrArg Host.Outcome.next (if_neg (by simp [h]))

/-- R464, R565: an input out of range lasts 1 ms, or lies beyond what the converters bear. -/
theorem exec_inputOutOfRange {s : State} (mv us fall : Nat) (h : s.mod.powered = true) :
    Machine.exec (.inputOutOfRange mv us fall) s = .next (
      if (¬ (46000 ≤ mv ∧ mv ≤ 56000) ∧ 1000 ≤ us) ∨ mv < 42000 ∨ 60000 < mv then
        (s.setMod fun m => { m with inputMv := mv }).powerOff (if mv < 20000 ∧ fall < 1000 then 0 else 0xE11FF138)
      else s.setMod fun m => { m with inputMv := mv }) := by
  have powered : (s.setMod fun m => { m with inputMv := mv }).mod.powered = true := h
  have out : ((!inputOk mv && decide (1000 ≤ us)) || decide (mv < 42000) || decide (60000 < mv)) = true ↔
      (¬ (46000 ≤ mv ∧ mv ≤ 56000) ∧ 1000 ≤ us) ∨ mv < 42000 ∨ 60000 < mv := by
    rw [← inputOk_iff]; simp [or_assoc]
  refine congrArg Host.Outcome.next ?_
  by_cases ho : (¬ (46000 ≤ mv ∧ mv ≤ 56000) ∧ 1000 ≤ us) ∨ mv < 42000 ∨ 60000 < mv
  · rw [if_pos ho]
    exact if_neg (by rw [powered, out.2 ho]; decide)
  · rw [if_neg ho]
    exact if_pos (.inr (by rw [Bool.eq_false_iff.2 (mt out.1 ho)]; rfl))

/-! ## The claim -/

/-- Settles O50, command by command: what powers up changes pins and the start-up step, and every shutdown is `State.powerOff` with its cause. -/
theorem modulePowersUpAndDown : Obligations.ModulePowersUpAndDown := by
  unfold Obligations.ModulePowersUpAndDown
  refine ⟨fun s mv low he => ?_, fun s mv low he => ?_, fun s hc => ?_, fun s mode addr hc he => ?_, fun s he => ?_, fun s mv us fall hp => ?_,
    fun s ns hp hn => ?_⟩
  · rw [exec_enableRise mv low true he]; simp [State.setMod, inputOk_iff, and_assoc]
  · exact ⟨_, exec_enableRise mv low false he, shutDown_of_setMod rfl (shutDown_powerOff _ _), rfl⟩
  · exact congrArg Host.Outcome.next (if_pos hc)
  · exact ⟨_, congrArg Host.Outcome.next (if_neg (by simp [hc, he])), rfl, rfl, rfl, rfl, rfl, rfl, rfl⟩
  · by_cases hc : s.mod.conv = .on
    · exact ⟨(s.powerOff 0).setMod fun m => { m with enable := false, conv := .off }, by simp [Machine.exec, execEnableFall, he, hc], rfl, rfl,
        fun _ => shutDown_powerOff s 0, fun h => absurd hc h⟩
    · exact ⟨s.setMod fun m => { m with enable := false, conv := .off }, by simp [Machine.exec, execEnableFall, he, hc], rfl, rfl,
        fun h => absurd h hc, fun _ => rfl⟩
  · rw [exec_inputOutOfRange mv us fall hp]
    split
    · exact ⟨_, rfl, shutDown_of_setMod rfl (shutDown_powerOff _ _)⟩
    · rfl
  · exact ⟨_, congrArg Host.Outcome.next (if_neg (by simp [hp, hn])), shutDown_powerOff _ _⟩

end Sys2Proof.ModulePower
end

section
/-! SUPPORT. The host port (O52). What the host interface's own work leaves alone: completions, events and resets of functions change neither the
pins nor the link, and the count of link events is no function's (R355-R378). -/

namespace Sys2Proof.HostPort

open Sys2Proof Sys2Proof.Machine Sys2Proof.Claim

/-- The offset of HST_LINK_EVENTS (Table 13-11). -/
abbrev eventsAt : Nat := 0x120004

/-- PERST# and the link are as before. -/
structure PinsKept (s t : State) : Prop where
  perst : t.mod.perst = s.mod.perst
  linkUp : t.mod.linkUp = s.mod.linkUp

/-- So are the number of VFs and the count of link events. -/
structure PortKept (s t : State) : Prop extends PinsKept s t where
  vfs : t.host.vfs = s.host.vfs
  events : t.regs.get eventsAt = s.regs.get eventsAt

/-- So are device memory, the cores and the compositions: what the host interface does by itself changes none of them. -/
structure HostSide (s t : State) : Prop extends PortKept s t where
  dram : t.mem.dram = s.mem.dram
  cores : t.cores = s.cores
  yoke : t.yoke = s.yoke

theorem PinsKept.refl (s : State) : PinsKept s s := ⟨rfl, rfl⟩

theorem PinsKept.trans {s t u : State} (h : PinsKept s t) (k : PinsKept t u) : PinsKept s u := ⟨k.perst.trans h.perst, k.linkUp.trans h.linkUp⟩

theorem PortKept.refl (s : State) : PortKept s s := ⟨.refl s, rfl, rfl⟩

theorem PortKept.trans {s t u : State} (h : PortKept s t) (k : PortKept t u) : PortKept s u :=
  ⟨h.toPinsKept.trans k.toPinsKept, k.vfs.trans h.vfs, k.events.trans h.events⟩

theorem PortKept.ite {s t u : State} {p : Prop} [Decidable p] (h : PortKept s t) (k : PortKept s u) : PortKept s (if p then t else u) := by
  split
  · exact h
  · exact k

/-- A fold of steps that each keep the port. -/
theorem PortKept.foldl {α : Type} {f : State → α → State} (hf : ∀ s a, PortKept s (f s a)) (l : List α) (s : State) : PortKept s (l.foldl f s) :=
  List.foldlRecOn l f (motive := PortKept s) (.refl s) fun _ ht a _ => ht.trans (hf _ a)

theorem HostSide.refl (s : State) : HostSide s s := ⟨.refl s, rfl, rfl, rfl⟩

theorem HostSide.trans {s t u : State} (h : HostSide s t) (k : HostSide t u) : HostSide s u :=
  ⟨h.toPortKept.trans k.toPortKept, k.dram.trans h.dram, k.cores.trans h.cores, k.yoke.trans h.yoke⟩

theorem HostSide.ite {s t u : State} {p : Prop} [Decidable p] (h : HostSide s t) (k : HostSide s u) : HostSide s (if p then t else u) := by
  split
  · exact h
  · exact k

/-- A fold of steps that each keep to the host's side. -/
theorem HostSide.foldl {α : Type} {f : State → α → State} (hf : ∀ s a, HostSide s (f s a)) (l : List α) (s : State) : HostSide s (l.foldl f s) :=
  List.foldlRecOn l f (motive := HostSide s) (.refl s) fun _ ht a _ => ht.trans (hf _ a)

/-- The same for a fold that gathers something beside the state. -/
theorem HostSide.foldl_fst {α β : Type} {f : State × β → α → State × β} (hf : ∀ p a, HostSide p.1 (f p a).1) (l : List α) (p : State × β) :
    HostSide p.1 (l.foldl f p).1 :=
  List.foldlRecOn l f (motive := fun q => HostSide p.1 q.1) (.refl p.1) fun _ ht a _ => ht.trans (hf _ a)

/-! ## Registers and logs -/

theorem hostSide_setReg (s : State) (r : Reg) (b i v : Nat) (h : r.off b i ≠ eventsAt) : HostSide s (s.setReg r b i v) :=
  ⟨⟨⟨rfl, rfl⟩, rfl, by simp [State.setReg, RegFile.get_set, h.symm]⟩, rfl, rfl, rfl⟩

theorem hostSide_count (s : State) (r : Reg) (b i n : Nat) (h : r.off b i ≠ eventsAt) : HostSide s (s.count r b i n) := hostSide_setReg _ _ _ _ _ h

theorem hostSide_alerts (s : State) (l : List Nat) : HostSide s { s with mod := { s.mod with alerts := l } } := ⟨⟨⟨rfl, rfl⟩, rfl, rfl⟩, rfl, rfl, rfl⟩

theorem hostSide_rel (s : State) (x : Rel) : HostSide s { s with rel := x } := ⟨⟨⟨rfl, rfl⟩, rfl, rfl⟩, rfl, rfl, rfl⟩

theorem hostSide_logCode (s : State) (c : Code) : HostSide s (s.logCode c) := by
  have errAt (i : Nat) : Reg.off .hstFnErr 0 i ≠ eventsAt := fun h => by
    have : 0x100024 + 4096 * i = 0x120004 := h
    omega
  refine .ite (HostSide.trans ?noted (hostSide_setReg _ _ _ _ _ (errAt _))) ?noted
  exact .ite ((hostSide_rel s _).trans (hostSide_alerts _ _)) (hostSide_rel s _)

theorem hostSide_logMctp (s : State) (c : Code) : HostSide s (s.logMctp c) := (hostSide_logCode s c).trans (hostSide_alerts _ _)

theorem hostSide_tst (s : State) (x : Tst) : HostSide s { s with tst := x } := ⟨⟨⟨rfl, rfl⟩, rfl, rfl⟩, rfl, rfl, rfl⟩

theorem hostSide_record (s : State) (c type : Nat) (payload : List Byte) : HostSide s (s.record c type payload) := by
  have lostAt : Reg.off .tstCapLost 0 c ≠ eventsAt := fun h => by
    have : 0x8018 + 16 * c = 0x120004 := h
    omega
  unfold State.record
  split
  · exact .refl s
  · split
    · exact .refl s
    · dsimp only
      split
      · exact hostSide_tst s _
      · exact (hostSide_tst s _).trans (hostSide_count _ _ _ _ _ lostAt)

/-! ## Host memory -/

theorem hostSide_modFn (s : State) (f : Nat) (g : Fn → Fn) : HostSide s (s.modFn f g) := ⟨⟨⟨rfl, rfl⟩, rfl, rfl⟩, rfl, rfl, rfl⟩

theorem hostSide_setFn (s : State) (f : Nat) (x : Fn) : HostSide s (s.setFn f x) := ⟨⟨⟨rfl, rfl⟩, rfl, rfl⟩, rfl, rfl, rfl⟩

theorem hostSide_out (s : State) (o : Out) : HostSide s (s.out o) := ⟨⟨⟨rfl, rfl⟩, rfl, rfl⟩, rfl, rfl, rfl⟩

theorem hostSide_eventId (s : State) (i : Word) : HostSide s { s with host := { s.host with eventId := i } } := ⟨⟨⟨rfl, rfl⟩, rfl, rfl⟩, rfl, rfl, rfl⟩

theorem hostSide_hostSend (s : State) (write : Bool) (pasid : Option Nat) (iova n : Nat) : HostSide s (s.hostSend write pasid iova n) :=
  have vfs : ((pagesOf iova n).foldl (fun h p => h.request write pasid iova n p) s.host).vfs = s.host.vfs :=
    List.foldlRecOn _ _ (motive := fun (h : HostIf) => h.vfs = s.host.vfs) rfl fun _ h _ _ => h
  ⟨⟨⟨rfl, rfl⟩, vfs, rfl⟩, rfl, rfl, rfl⟩

theorem hostSide_hostMem (s : State) (m : Memory) : HostSide s { s with mem := { s.mem with host := m } } := ⟨⟨⟨rfl, rfl⟩, rfl, rfl⟩, rfl, rfl, rfl⟩

theorem hostSide_hostPut {s t : State} {pasid : Option Nat} {iova : Nat} {bs : List Byte} (h : s.hostPut pasid iova bs = some t) : HostSide s t := by
  unfold State.hostPut at h
  split at h
  · obtain rfl := Option.some.inj h
    exact (hostSide_hostMem s _).trans (hostSide_hostSend _ _ _ _ _)
  · cases h

theorem hostSide_hostWrite {s t : State} {f : Nat} {pasid : Option Nat} {iova : Nat} {bs : List Byte} {due : Bool}
    (h : s.hostWrite f pasid iova bs = some (t, due)) : HostSide s t := by
  unfold State.hostWrite at h
  split at h
  · cases h
  · next s1 hput =>
    split at h
    · cases h; exact (hostSide_hostPut hput).trans (hostSide_modFn _ _ _)
    · cases h; exact hostSide_hostPut hput

/-! ## Completion queues -/

theorem hostSide_signal (s : State) (f q : Nat) : HostSide s (s.signal f q) := by
  unfold State.signal
  split
  · exact .refl s
  · exact .ite ((hostSide_modFn _ _ _).trans (hostSide_modFn _ _ _)) ((hostSide_modFn _ _ _).trans (hostSide_out _ _))

theorem hostSide_ringWrite (s : State) (f q : Nat) (e : Cqe) : HostSide s (s.ringWrite f q e).1 := by
  unfold State.ringWrite
  split
  · exact .refl s
  · dsimp only
    split
    · exact .ite ((hostSide_modFn _ _ _).trans (hostSide_modFn _ _ _)) (hostSide_modFn _ _ _)
    · next s1 _ hrec =>
      have recorded : HostSide s s1 := by
        revert hrec
        split
        · split
          · exact hostSide_hostWrite
          · rintro ⟨⟩; exact .refl s
        · rintro ⟨⟩; exact .refl s
      split
      · exact .ite ((hostSide_modFn _ _ _).trans (hostSide_modFn _ _ _)) (hostSide_modFn _ _ _)
      · next s2 _ hput =>
        have put (g : Fn → Fn) : HostSide s (s2.modFn f g) := (recorded.trans (hostSide_hostWrite hput)).trans (hostSide_modFn _ _ _)
        refine .ite (HostSide.trans ?captured (hostSide_signal _ _ _)) ?captured
        split
        · exact (HostSide.ite ((put _).trans (hostSide_record _ _ _ _)) (put _)).trans (hostSide_record _ _ _ _)
        · exact put _

theorem hostSide_cqPush (s : State) (f q : Nat) (e : Cqe) : HostSide s (s.cqPush f q e).1 := by
  have dropAt : Reg.off .hstCqDrop 0 f ≠ eventsAt := fun h => by
    have : 0x100028 + 4096 * f = 0x120004 := h
    omega
  unfold State.cqPush
  split
  · exact .refl s
  · split
    · exact .refl s
    · split
      · exact hostSide_ringWrite s f q e
      · split
        · dsimp only; exact hostSide_modFn s _ _
        · exact (hostSide_modFn s _ _).trans (hostSide_count _ _ _ _ _ dropAt)

theorem hostSide_replayOut (s : State) (c : Nat) (e : Cqe) : HostSide s (s.replayOut c e) := by
  unfold State.replayOut
  split
  · exact .refl s
  · exact hostSide_tst s _

theorem hostSide_deliver (n : Nat) (s : State) (ds : List Due) : HostSide s (State.deliver n s ds) := by
  induction n generalizing s ds with
  | zero => exact .refl s
  | succ n ih =>
    unfold State.deliver
    generalize hp : ds.foldl _ (s, ([] : List (Nat × Code))) = p
    have sent : HostSide s p.1 := by
      rw [← hp]
      refine HostSide.foldl_fst (fun a d => ?_) ds (s, [])
      dsimp only
      split
      · split
        · exact hostSide_replayOut _ _ _
        · exact hostSide_cqPush _ _ _ _
      · exact hostSide_cqPush _ _ _ _
    dsimp only
    split
    · exact sent
    · have reported := HostSide.foldl_fst (f := fun (a : State × List Due) (fc : Nat × Code) =>
          ({ a.1.logCode fc.2 with host := { (a.1.logCode fc.2).host with eventId := (a.1.logCode fc.2).host.eventId + 1 } },
            a.2 ++ [(a.1.logCode fc.2).adminDue fc.1 fc.2])) (fun a fc => (hostSide_logCode a.1 fc.2).trans (hostSide_eventId _ _)) p.2 (p.1, [])
      exact (sent.trans reported).trans (ih _ _)

/-- A code written to the log and sent on as an event. -/
theorem hostSide_logged_deliver (s : State) (c : Code) (i : Word) (ds : List Due) :
    HostSide s (State.deliver 4 { s.logCode c with host := { (s.logCode c).host with eventId := i } } ds) :=
  ((hostSide_logCode s c).trans (hostSide_eventId _ i)).trans (hostSide_deliver _ _ _)

theorem hostSide_dueCodes (s : State) (f : Nat) (cs : List Code) : HostSide s (s.dueCodes f cs) :=
  HostSide.foldl (fun t c => hostSide_logged_deliver t c _ _) cs s

theorem hostSide_reportPF (s : State) (c : Code) : HostSide s (s.reportPF c) := by
  unfold State.reportPF State.reportFn
  exact hostSide_logged_deliver s c _ _

/-! ## Commands -/

theorem hostSide_completeRaw (s : State) (e : EntryRef) (status w2 w3 : Nat) (code : Code) : HostSide s (s.completeRaw e status w2 w3 code) := by
  unfold State.completeRaw
  split
  · exact .refl s
  · dsimp only
    split
    · exact (hostSide_modFn s _ _).trans (hostSide_replayOut _ _ _)
    · exact ((hostSide_modFn s _ _).trans (hostSide_cqPush _ _ _ _)).trans (hostSide_dueCodes _ _ _)

theorem hostSide_settleReserved (n : Nat) (s : State) (f q : Nat) : HostSide s (State.settleReserved n s f q) := by
  induction n generalizing s with
  | zero => exact .refl s
  | succ n ih =>
    unfold State.settleReserved
    split
    · exact .refl s
    · exact (hostSide_completeRaw _ _ _ _ _ _).trans (ih _)

theorem hostSide_settleSq (s : State) (f q : Nat) : HostSide s (s.settleSq f q) := by
  have ctrlAt : Reg.off .hstFnCtrl 0 f ≠ eventsAt := fun h => by
    have : 0x100000 + 4096 * f = 0x120004 := h
    omega
  unfold State.settleSq
  split
  · exact .refl s
  · split
    · exact .refl s
    · split
      · exact (hostSide_modFn s _ _).trans (hostSide_completeRaw _ _ _ _ _ _)
      · exact .ite ((hostSide_modFn s _ _).trans (hostSide_setReg _ _ _ _ _ ctrlAt)) (.refl s)

theorem hostSide_settleQuiesce (s : State) (f : Nat) : HostSide s (s.settleQuiesce f) := by
  unfold State.settleQuiesce
  split
  · exact .refl s
  · exact .ite ((hostSide_modFn s _ _).trans (hostSide_completeRaw _ _ _ _ _ _)) (.refl s)

theorem hostSide_complete (s : State) (e : EntryRef) (status w2 w3 : Nat) (code : Code) : HostSide s (s.complete e status w2 w3 code) :=
  ((((hostSide_completeRaw s e status w2 w3 code).trans (hostSide_settleReserved _ _ _ _)).trans (hostSide_settleSq _ _ _)).trans
    (hostSide_settleSq _ _ _)).trans (hostSide_settleQuiesce _ _)

/-! ## Function resets (R370, R375, R376) -/

theorem portKept_modComp (s : State) (c : Nat) (f : Comp → Comp) : PortKept s (s.modComp c f) :=
  ⟨⟨by simp, by simp⟩, by simp, by simp⟩

theorem portKept_modGsec (s : State) (n : Nat) (f : GSec → GSec) : PortKept s (s.modGsec n f) := by
  unfold State.modGsec
  split
  · exact .refl s
  · split
    · exact .refl s
    · exact ⟨⟨rfl, rfl⟩, rfl, rfl⟩

theorem portKept_abortChanges (s : State) (c : Nat) : PortKept s (s.abortChanges c) := by
  unfold State.abortChanges
  split
  · exact .refl s
  · have completed (o : Option EpochChange) : PortKept s (match o with
        | some ch => match ch.entry, ch.rebind with
          | some e, true => s.complete e 6
          | _, _ => s
        | none => s) := by
      split
      · split
        · exact (hostSide_complete _ _ _ _ _ _).toPortKept
        · exact .refl s
      · exact .refl s
    dsimp only
    split
    · exact (completed _).trans (portKept_modComp _ _ _)
    · refine (PortKept.trans (.ite (PortKept.trans (completed _) (.foldl (fun t i => ?_) _ _)) (completed _))
        (hostSide_complete _ _ _ _ _ _).toPortKept).trans (portKept_modComp _ _ _)
      split
      · exact portKept_modGsec _ _ _
      · exact ⟨⟨rfl, rfl⟩, rfl, rfl⟩

theorem portKept_beginTeardown (s : State) (c : Nat) (unbind restart : Bool) : PortKept s (s.beginTeardown c unbind restart) := by
  unfold State.beginTeardown
  split
  · exact .refl s
  · split
    · exact .refl s
    · split
      · exact ⟨⟨rfl, rfl⟩, rfl, rfl⟩
      · exact ⟨⟨rfl, rfl⟩, rfl, rfl⟩

/-- What a function reset ends first: the entries in flight. -/
def endEntries (s : State) (f : Nat) : State := s.modFn f fun x => { x with entries := [], quiescing := none }

/-- Then the function's compositions, one by one: what changes them is aborted, their contexts are torn down. -/
def endComps (s : State) (f : Nat) : State :=
  ((s.yoke.comps.filter fun c => decide (c.2.fn = f)).map (·.1)).foldl (fun (s : State) c =>
    ((s.abortChanges c).modComp c fun x => { x with unbinding := true, unbindEntry := none }).beginTeardown c true false) s

theorem portKept_endComps (s : State) (f : Nat) : PortKept s (endComps s f) :=
  PortKept.foldl (fun t c => ((portKept_abortChanges t c).trans (portKept_modComp _ _ _)).trans (portKept_beginTeardown _ _ _ _)) _ s

/-- An entry that a filter keeps is found in the filtered table as in the whole one. -/
theorem find?_filter_of_keep {α : Type} {p : Nat × α → Bool} {k : Nat} (hp : ∀ a, p (k, a) = true) (m : List (Nat × α)) :
    find? (m.filter p) k = find? m k := by
  induction m with
  | nil => rfl
  | cons e m ih =>
    obtain ⟨i, a⟩ := e
    by_cases hi : i = k
    · subst hi; simp [hp, find?]
    · by_cases he : p (i, a) = true <;> simp [he, find?, hi, ih]

/-- The pages of the functions that exist do not hold HST_LINK_EVENTS. -/
theorem get_resetFn_events (r : RegFile) {f : Nat} (hf : f ≤ 24) : (r.resetFn f).get eventsAt = r.get eventsAt := by
  have kept : find? (r.resetFn f).vals eventsAt = find? r.vals eventsAt := by
    refine find?_filter_of_keep (fun a => ?_) r.vals
    by_cases h0 : f = 0
    · subst h0; rfl
    · simp [h0, eventsAt]; omega
  unfold RegFile.get
  rw [kept]

/-- Last, unless the function was quiesced, the teardown is reported (R375). -/
def endReported (s : State) (f : Nat) : State :=
  if (s.fn f).quiesced then endComps (endEntries s f) f
  else
    let t := (endComps (endEntries s f) f).reportPF (mkCode 0x20D000F3 f)
    { t with mod := { t.mod with alerts := addOnce ((endComps (endEntries s f) f).rel.head % 256) t.mod.alerts } }

theorem hostSide_endReported (s : State) (f : Nat) : HostSide (endComps (endEntries s f) f) (endReported s f) :=
  .ite (.refl _) ((hostSide_reportPF _ _).trans (hostSide_alerts _ _))

theorem portKept_endReported (s : State) (f : Nat) : PortKept s (endReported s f) :=
  ((hostSide_modFn s f _).toPortKept.trans (portKept_endComps (endEntries s f) f)).trans (hostSide_endReported s f).toPortKept

/-- What is left of a function reset takes the function's registers and captures away (Table 21-4). -/
theorem hostSide_resetOne (s : State) {f : Nat} (hf : f ≤ 24) : HostSide (endReported s f) (s.resetOne f) := by
  have regs (t : State) (x : Tst) : HostSide t { t with regs := t.regs.resetFn f, tst := x, host := t.host.dropBar f } :=
    ⟨⟨⟨rfl, rfl⟩, rfl, get_resetFn_events t.regs hf⟩, rfl, rfl, rfl⟩
  exact (regs _ _).trans (hostSide_setFn _ _ _)

theorem portKept_resetOne (s : State) {f : Nat} (hf : f ≤ 24) : PortKept s (s.resetOne f) :=
  (portKept_endReported s f).trans (hostSide_resetOne s hf).toPortKept

/-- No function's reset, whatever its number, moves the pins. -/
theorem pinsKept_resetOne (s : State) (f : Nat) : PinsKept s (s.resetOne f) :=
  have reported := portKept_endReported s f
  ⟨reported.perst, reported.linkUp⟩

/-- With no composition bound there is nothing to tear down. -/
theorem hostSide_resetOne_of_no_comps {s : State} {f : Nat} (hf : f ≤ 24) (h : s.yoke.comps = []) : HostSide s (s.resetOne f) := by
  have none_ended : endComps (endEntries s f) f = endEntries s f := by unfold endComps; simp [endEntries, h]
  have reported := hostSide_endReported s f
  rw [none_ended] at reported
  exact ((hostSide_modFn s f _).trans reported).trans (hostSide_resetOne s hf)

/-- A function that has been reset holds no queue. -/
theorem fn_resetOne (s : State) (f : Nat) : ((s.resetOne f).fn f).sqs = [] ∧ ((s.resetOne f).fn f).cqs = [] ∧ ((s.resetOne f).fn f).aqEn = false := by
  unfold State.resetOne
  dsimp only
  rw [State.fn_setFn]
  exact ⟨rfl, rfl, rfl⟩

/-- The same state with VF Enable 0 (R369). -/
def noVfs (s : State) : State := { s with host := { s.host with vfs := 0 } }

theorem pinsKept_removeVfs (s : State) : PinsKept s s.removeVfs :=
  have vfs_reset : PinsKept s ((upto s.host.vfs).foldl (fun (s : State) v => s.resetOne (v + 1)) s) :=
    List.foldlRecOn _ _ (motive := PinsKept s) (.refl s) fun t ht v _ => ht.trans (pinsKept_resetOne t (v + 1))
  ⟨vfs_reset.perst, vfs_reset.linkUp⟩

theorem portKept_removeVfs {s : State} (h : s.host.vfs ≤ 24) : PortKept (noVfs s) s.removeVfs := by
  have vfs_reset : PortKept s ((upto s.host.vfs).foldl (fun (s : State) v => s.resetOne (v + 1)) s) :=
    List.foldlRecOn _ _ (motive := PortKept s) (.refl s) fun t ht v hv => ht.trans (portKept_resetOne t (by have := List.mem_range.1 hv; omega))
  exact ⟨⟨vfs_reset.perst, vfs_reset.linkUp⟩, rfl, vfs_reset.events⟩

theorem hostSide_removeVfs_of_no_comps {s : State} (h : s.host.vfs ≤ 24) (hc : s.yoke.comps = []) : HostSide (noVfs s) s.removeVfs := by
  have vfs_reset : HostSide s ((upto s.host.vfs).foldl (fun (s : State) v => s.resetOne (v + 1)) s) :=
    List.foldlRecOn _ _ (motive := HostSide s) (.refl s) fun t ht v hv =>
      ht.trans (hostSide_resetOne_of_no_comps (by have := List.mem_range.1 hv; omega) (by rw [ht.yoke]; exact hc))
  exact ⟨portKept_removeVfs h, vfs_reset.dram, vfs_reset.cores, vfs_reset.yoke⟩

/-! ## The host port's resets (R376) -/

theorem get_count_events (s : State) : (s.count .hstLinkEvents 0 0 1).reg .hstLinkEvents 0 0 = min 0xFFFFFFFF (s.reg .hstLinkEvents 0 0 + 1) := by
  have := RegFile.get_set s.regs eventsAt eventsAt (BitVec.ofNat 64 (min 0xFFFFFFFF (s.reg .hstLinkEvents 0 0 + 1)))
  rw [if_pos rfl] at this
  refine (congrArg BitVec.toNat this).trans ?_
  rw [BitVec.toNat_ofNat]
  omega

theorem logCode_host (s : State) (c : Code) : (s.logCode c).host = s.host := by
  unfold State.logCode
  dsimp only
  split <;> split <;> rfl

/-- The function-level reset of the PF, reported. -/
def pfResetReported (s : State) : State := (s.removeVfs.resetOne 0).logMctp 0x20DFF0F6

theorem portKept_pfReset {s : State} (h : s.host.vfs ≤ 24) : PortKept (noVfs s) (pfResetReported s) :=
  ((portKept_removeVfs h).trans (portKept_resetOne _ (Nat.zero_le _))).trans (hostSide_logMctp _ _).toPortKept

theorem hostSide_pfReset_of_no_comps {s : State} (h : s.host.vfs ≤ 24) (hc : s.yoke.comps = []) : HostSide (noVfs s) (pfResetReported s) := by
  have removed := hostSide_removeVfs_of_no_comps h hc
  exact (removed.trans (hostSide_resetOne_of_no_comps (Nat.zero_le _) (by rw [removed.yoke]; exact hc))).trans (hostSide_logMctp _ _)

/-- A reset of the host port leaves the pins and the link alone. -/
theorem pinsKept_hostReset (s : State) : PinsKept s s.hostReset := by
  unfold State.hostReset
  split
  · exact .refl s
  · have counted : PinsKept s (s.count .hstLinkEvents 0 0 1) := ⟨rfl, rfl⟩
    exact ((counted.trans (pinsKept_removeVfs _)).trans (pinsKept_resetOne _ 0)).trans (hostSide_logMctp _ _).toPinsKept

/-- During start-up it changes nothing more. -/
theorem hostReset_of_not_done {s : State} (hd : s.start.done = false) : s.hostReset = s := by simp [State.hostReset, hd]

/-- After start-up it counts a link event and resets the PF with every VF. -/
theorem pfReset_hostReset {s : State} (hd : s.start.done = true) (hv : s.host.vfs ≤ 24) : PfReset s s.hostReset := by
  have done : s.hostReset = pfResetReported (s.count .hstLinkEvents 0 0 1) := by simp [State.hostReset, hd, State.resetFn, pfResetReported]
  rw [done]
  have kept := portKept_pfReset (s := s.count .hstLinkEvents 0 0 1) hv
  have fn_eq : (pfResetReported (s.count .hstLinkEvents 0 0 1)).fn 0 = ((s.count .hstLinkEvents 0 0 1).removeVfs.resetOne 0).fn 0 :=
    State.fn_congr (logCode_host _ _) 0
  obtain ⟨sqs, cqs, aqEn⟩ := fn_resetOne (s.count .hstLinkEvents 0 0 1).removeVfs 0
  refine ⟨fn_eq ▸ sqs, fn_eq ▸ cqs, fn_eq ▸ aqEn, kept.vfs, (congrArg BitVec.toNat kept.events).trans (get_count_events s), fun hc => ?_⟩
  have side := hostSide_pfReset_of_no_comps (s := s.count .hstLinkEvents 0 0 1) hv hc
  exact ⟨side.dram, side.cores, side.yoke⟩

/-! ## Configuration requests (R33-R35) -/

/-- What answers a configuration request over a link that trains. -/
theorem exec_configRequest {s : State} (f : Nat) (r : ConfigReq) (hp : s.mod.pwrgd = true) (hn : s.mod.perst = false)
    (hl : linkTrains s.mod.partner = true) : Machine.exec (.configRequest f r) s = .next (
      let u := s.setMod fun m => { m with linkUp := true }
      if s.mod.crs = true then u.out (.config f true)
      else if (!s.fnExists f) = true then u.out .unsupported
      else if (s.fn f).resetting = true then u.out (.config f true)
      else (u.configure f r).out (.config f false)) :=
  congrArg Host.Outcome.next (if_neg (by simp [hp, hn, hl]))

/-- A configuration write changes the host interface alone, and sends nothing (Tables 13-1, 13-2). -/
theorem configure_frame (s : State) (f : Nat) (r : ConfigReq) : Aside s (s.configure f r) ∧ (s.configure f r).mod = s.mod ∧
    (s.configure f r).host.outs = s.host.outs := by
  cases r with
  | other => exact ⟨⟨rfl, rfl, rfl⟩, rfl, rfl⟩
  | toD3hot => exact ⟨⟨rfl, rfl, rfl⟩, rfl, rfl⟩
  | bar4Window g =>
    unfold State.configure
    dsimp only
    split
    · exact ⟨⟨rfl, rfl, rfl⟩, rfl, rfl⟩
    · exact ⟨⟨rfl, rfl, rfl⟩, rfl, rfl⟩

/-- What it does change. -/
theorem configure_effect (s : State) (f : Nat) (r : ConfigReq) : (r = .toD3hot → ((s.configure f r).fn f).d3hot = true) ∧
    ∀ g, r = .bar4Window g → f = 0 → g ≤ 6 → (s.configure f r).host.bar4Window = g := by
  constructor
  · rintro rfl; simp [State.configure]
  · rintro g rfl rfl hg; simp [State.configure, hg]

/-- Settles O52: a configuration request by its four answers, and each reset of the port by `State.hostReset`, which is the PF's function-level reset
once start-up is over. -/
theorem hostPortAnswersAndResets : Obligations.HostPortAnswersAndResets := by
  unfold Obligations.HostPortAnswersAndResets
  refine ⟨fun s f r hp hn hl => ?_, fun s f r hp hn hl => ?_, fun s hp hn => ?_, fun s p hp => ?_, fun s hp hn => ?_, fun s hp hn hl hd hv => ?_⟩
  · exact congrArg Host.Outcome.next (if_pos (.inr (.inr (by simp [hl]))))
  · rw [exec_configRequest f r hp hn hl]
    refine ⟨_, rfl, ?_⟩
    cases hcrs : s.mod.crs with
    | true => exact ⟨⟨rfl, rfl, rfl⟩, rfl, rfl, nofun⟩
    | false =>
      cases hex : s.fnExists f with
      | false => exact ⟨⟨rfl, rfl, rfl⟩, rfl, rfl, nofun⟩
      | true =>
        cases hres : (s.fn f).resetting with
        | true => exact ⟨⟨rfl, rfl, rfl⟩, rfl, rfl, nofun⟩
        | false =>
          obtain ⟨aside, mod, outs⟩ := configure_frame (s.setMod fun m => { m with linkUp := true }) f r
          exact ⟨aside, congrArg Module.linkUp mod, congrArg (· ++ [Out.config f false]) outs, fun _ _ _ => configure_effect _ f r⟩
  · obtain ⟨perst, link⟩ := pinsKept_hostReset (s.setMod fun m => { m with perst := true, linkUp := false })
    exact ⟨_, congrArg Host.Outcome.next (if_neg (by simp [hp, hn])), perst, link, fun hd => hostReset_of_not_done hd,
      fun hd hv => pfReset_hostReset (s := s.setMod fun m => { m with perst := true, linkUp := false }) hd hv⟩
  · exact congrArg Host.Outcome.next (if_neg (by simp [hp]))
  · exact ⟨_, congrArg Host.Outcome.next (if_neg (by simp [hp, hn])), hostReset_of_not_done, pfReset_hostReset⟩
  · obtain ⟨-, link⟩ := pinsKept_hostReset (s.setMod fun m => { m with linkUp := false })
    exact ⟨_, congrArg Host.Outcome.next (if_neg (by simp [hp, hn, hl, hd])), link,
      pfReset_hostReset (s := s.setMod fun m => { m with linkUp := false }) hd hv⟩

end Sys2Proof.HostPort
end

section
/-! SUPPORT. Floating formats (O3): what decoding an encoding can give, and that encoding such a value rounds nothing and gives the encoding back
(R41, R49, Table 02-1). -/

namespace Sys2Proof.Formats

open Sys2Proof Sys2Proof.Machine

/-! ## The fields of an encoding -/

/-- The mantissa, the exponent field and the sign of bit pattern `b`. -/
def man (f : Fmt) (b : Nat) : Nat := b % 2 ^ f.m
def expo (f : Fmt) (b : Nat) : Nat := (b >>> f.m) % 2 ^ f.e
def sign (f : Fmt) (b : Nat) : Bool := decide ((b >>> (f.m + f.e)) % 2 = 1)

/-- Its magnitude bits: all but the sign. -/
def mag (f : Fmt) (b : Nat) : Nat := b % 2 ^ (f.m + f.e)

theorem man_lt (f : Fmt) (b : Nat) : man f b < 2 ^ f.m := Nat.mod_lt _ (Nat.two_pow_pos _)

theorem expo_lt (f : Fmt) (b : Nat) : expo f b < 2 ^ f.e := Nat.mod_lt _ (Nat.two_pow_pos _)

theorem mag_lt (f : Fmt) (b : Nat) : mag f b < 2 ^ (f.m + f.e) := Nat.mod_lt _ (Nat.two_pow_pos _)

/-- The magnitude bits hold the mantissa below the exponent field. -/
theorem mag_eq (f : Fmt) (b : Nat) : mag f b = expo f b * 2 ^ f.m + man f b := by
  rw [mag, Nat.pow_add, Nat.mod_mul, expo, man, Nat.shiftRight_eq_div_pow, Nat.mul_comm, Nat.add_comm]

/-- The exponent field of Inf is all ones, its mantissa 0. -/
theorem infBits_eq (f : Fmt) : f.infBits = (2 ^ f.e - 1) * 2 ^ f.m := Nat.shiftLeft_eq _ _

theorem mag_lt_infBits {f : Fmt} {b : Nat} (h : expo f b ≠ 2 ^ f.e - 1) : mag f b < f.infBits := by
  have below : expo f b + 1 ≤ 2 ^ f.e - 1 := by have := expo_lt f b; omega
  calc mag f b < (expo f b + 1) * 2 ^ f.m := by rw [mag_eq, Nat.add_mul]; have := man_lt f b; omega
    _ ≤ f.infBits := infBits_eq f ▸ Nat.mul_le_mul_right _ below

/-- All magnitude bits are ones only where both fields are. -/
theorem mag_add_one_lt {f : Fmt} {b : Nat} (h : ¬ (expo f b = 2 ^ f.e - 1 ∧ man f b = 2 ^ f.m - 1)) : mag f b + 1 < 2 ^ (f.m + f.e) := by
  have whole : 2 ^ (f.m + f.e) = f.infBits + 2 ^ f.m := by
    rw [infBits_eq, Nat.sub_mul, Nat.add_comm f.m, Nat.pow_add, Nat.one_mul]
    exact (Nat.sub_add_cancel (Nat.le_mul_of_pos_left _ (Nat.two_pow_pos _))).symm
  have hm := man_lt f b
  by_cases top : expo f b = 2 ^ f.e - 1
  · rw [whole, mag_eq, top, ← infBits_eq]; omega
  · have := mag_lt_infBits top; omega

/-- An encoding is its magnitude bits with its sign. -/
theorem signed_mag {f : Fmt} {b : Nat} (hb : b < 2 ^ (1 + f.e + f.m)) : f.signed (sign f b) (mag f b) = b := by
  have width : 2 ^ (1 + f.e + f.m) = 2 ^ (f.m + f.e) * 2 := by rw [← Nat.pow_succ]; congr 1; omega
  have high : b / 2 ^ (f.m + f.e) < 2 := Nat.div_lt_of_lt_mul (width ▸ hb)
  have parts := Nat.mod_add_div b (2 ^ (f.m + f.e))
  rw [Fmt.signed, sign, mag, Nat.shiftRight_eq_div_pow, Nat.mod_eq_of_lt high]
  obtain h | h := Nat.le_one_iff_eq_zero_or_eq_one.1 (Nat.le_of_lt_succ high)
  · rw [h] at parts ⊢; simpa using parts
  · rw [h] at parts ⊢; simpa using parts

/-! ## Decoding -/

/-- The finite value that the fields of `b` spell. -/
def finiteOf (f : Fmt) (b : Nat) : FVal :=
  if expo f b = 0 then .fin (sign f b) (man f b) f.qmin else .fin (sign f b) (man f b + 2 ^ f.m) (f.qmin + expo f b - 1)

theorem decode_none {f : Fmt} (h : f.nan = .none_) (b : Nat) : f.decode b = finiteOf f b := by
  unfold Fmt.decode; rw [h]; rfl

theorem decode_e4m3 {f : Fmt} (h : f.nan = .e4m3) (b : Nat) :
    f.decode b = if expo f b = 2 ^ f.e - 1 ∧ man f b = 2 ^ f.m - 1 then .nan else finiteOf f b := by
  unfold Fmt.decode; rw [h]; rfl

theorem decode_ieee {f : Fmt} (h : f.nan = .ieee) (b : Nat) :
    f.decode b = if expo f b = 2 ^ f.e - 1 ∧ man f b ≠ 0 then .nan
      else if expo f b = 2 ^ f.e - 1 ∧ f.inf = true then .inf (sign f b) else finiteOf f b := by
  unfold Fmt.decode; rw [h]; rfl

/-- Table 02-1: the largest finite magnitude stands just below the encodings that Inf and NaN take. -/
def MaxBelowSpecials (f : Fmt) : Prop :=
  match f.nan with
  | .none_ => f.maxBits + 1 = 2 ^ (f.m + f.e)
  | .e4m3 => f.maxBits + 2 = 2 ^ (f.m + f.e)
  | .ieee => f.inf = true ∧ f.maxBits + 1 = f.infBits

/-- What an encoding that is not a NaN decodes to: an Inf, or a finite value within the format's range. -/
theorem decode_of_ne_nan {f : Fmt} {b : Nat} (hf : MaxBelowSpecials f) (hn : f.decode b ≠ .nan) :
    (f.inf = true ∧ f.decode b = .inf (sign f b) ∧ mag f b = f.infBits) ∨ (f.decode b = finiteOf f b ∧ mag f b ≤ f.maxBits) := by
  unfold MaxBelowSpecials at hf
  cases hk : f.nan with
  | none_ =>
    rw [hk] at hf
    have := mag_lt f b
    exact .inr ⟨decode_none hk b, by omega⟩
  | e4m3 =>
    rw [hk] at hf
    rw [decode_e4m3 hk] at hn ⊢
    have hs : ¬ (expo f b = 2 ^ f.e - 1 ∧ man f b = 2 ^ f.m - 1) := fun h => hn (if_pos h)
    have := mag_add_one_lt hs
    exact .inr ⟨if_neg hs, by omega⟩
  | ieee =>
    rw [hk] at hf
    obtain ⟨hinf, hmax⟩ := hf
    rw [decode_ieee hk] at hn ⊢
    have hs : ¬ (expo f b = 2 ^ f.e - 1 ∧ man f b ≠ 0) := fun h => hn (if_pos h)
    rw [if_neg hs]
    by_cases top : expo f b = 2 ^ f.e - 1
    · have zero : man f b = 0 := by by_contra h; exact hs ⟨top, h⟩
      exact .inl ⟨hinf, if_pos ⟨top, hinf⟩, by rw [mag_eq, top, zero, infBits_eq, Nat.add_zero]⟩
    · have := mag_lt_infBits top
      exact .inr ⟨if_neg fun h => top h.1, by omega⟩

/-! ## Encoding -/

/-- A magnitude that fits in `p` bits at its own exponent, which is no lower than `qmin`, is not rounded. -/
theorem roundMag_exact {p m : Nat} {qmin e : Int} (r : Rnd) (neg : Bool) (hm : m ≠ 0) (hp : m < 2 ^ p) (he : qmin ≤ e) :
    roundMag p qmin r neg m e =
      (m <<< (e - max (e + (Nat.log2 m + 1 : Nat) - p) qmin).toNat, max (e + (Nat.log2 m + 1 : Nat) - p) qmin) := by
  have fits : Nat.log2 m < p := (Nat.log2_lt hm).2 hp
  unfold roundMag
  rw [if_neg hm]
  exact if_pos (by omega)

/-- The magnitude bits of a subnormal or zero mantissa are the mantissa. -/
theorem magBits_subnormal {f : Fmt} {m : Nat} (r : Rnd) (neg : Bool) (hm : m < 2 ^ f.m) : f.magBits r neg m f.qmin = m := by
  unfold Fmt.magBits
  by_cases h0 : m = 0
  · subst h0; simp [roundMag]
  · have small : Nat.log2 m < f.m := (Nat.log2_lt h0).2 hm
    rw [roundMag_exact r neg h0 (hm.trans (Nat.pow_lt_pow_right (by decide) (Nat.lt_succ_self _))) le_rfl,
      max_eq_right (by omega)]
    simp

/-- The magnitude bits of a normal value are its exponent field above its mantissa without the leading one. -/
theorem magBits_normal {f : Fmt} {m x : Nat} (r : Rnd) (neg : Bool) (hm : m < 2 ^ f.m) (hx : x ≠ 0) :
    f.magBits r neg (m + 2 ^ f.m) (f.qmin + x - 1) = x * 2 ^ f.m + m := by
  have pos := Nat.two_pow_pos f.m
  have lead : Nat.log2 (m + 2 ^ f.m) = f.m := (Nat.log2_eq_iff (by omega)).2 ⟨by omega, by rw [Nat.pow_succ]; omega⟩
  obtain ⟨y, rfl⟩ := Nat.exists_eq_succ_of_ne_zero hx
  unfold Fmt.magBits
  rw [roundMag_exact r neg (by omega) (by rw [Nat.pow_succ]; omega) (by omega), lead, max_eq_left (by omega)]
  dsimp only
  rw [show (f.qmin + (y.succ : Nat) - 1 + (f.m + 1 : Nat) - (f.m + 1 : Nat) - f.qmin).toNat = y by omega,
    show (f.qmin + (y.succ : Nat) - 1 - (f.qmin + (y.succ : Nat) - 1 + (f.m + 1 : Nat) - (f.m + 1 : Nat))).toNat = 0 by omega,
    Nat.shiftLeft_zero, Nat.shiftLeft_eq, Nat.succ_mul]
  omega

/-- A finite value within the format's range is encoded by its magnitude bits and its sign. -/
theorem bitsOf_fin {f : Fmt} {m : Nat} {e : Int} (r : Rnd) (sat neg : Bool) (h : f.magBits r neg m e ≤ f.maxBits) :
    f.bitsOf r sat (.fin neg m e) = f.signed neg (f.magBits r neg m e) := by
  unfold Fmt.bitsOf Fmt.encode
  dsimp only
  rw [if_neg (by omega)]

theorem bitsOf_finiteOf {f : Fmt} {b : Nat} (r : Rnd) (sat : Bool) (h : mag f b ≤ f.maxBits) :
    f.bitsOf r sat (finiteOf f b) = f.signed (sign f b) (mag f b) := by
  unfold finiteOf
  split
  · next h0 =>
    have bits : f.magBits r (sign f b) (man f b) f.qmin = mag f b := by
      rw [magBits_subnormal r _ (man_lt f b), mag_eq, h0]; simp
    rw [bitsOf_fin r sat _ (bits ▸ h), bits]
  · next h0 =>
    have bits : f.magBits r (sign f b) (man f b + 2 ^ f.m) (f.qmin + expo f b - 1) = mag f b := by
      rw [magBits_normal r _ (man_lt f b) h0, mag_eq]
    rw [bitsOf_fin r sat _ (bits ▸ h), bits]

theorem bitsOf_inf {f : Fmt} (r : Rnd) (neg : Bool) (h : f.inf = true) : f.bitsOf r false (.inf neg) = f.signed neg f.infBits := by
  simp [Fmt.bitsOf, Fmt.encode, h]

/-! ## The round trip -/

/-- Encoding after decoding gives the encoding back, in any format whose largest finite magnitude stands below its special encodings. -/
theorem bitsOf_decode {f : Fmt} {b : Nat} (hf : MaxBelowSpecials f) (r : Rnd) (hb : b < 2 ^ (1 + f.e + f.m)) (hn : f.decode b ≠ .nan) :
    f.bitsOf r false (f.decode b) = b := by
  obtain ⟨hinf, hd, hmag⟩ | ⟨hd, hmag⟩ := decode_of_ne_nan hf hn
  · rw [hd, bitsOf_inf r _ hinf, ← hmag, signed_mag hb]
  · rw [hd, bitsOf_finiteOf r false hmag, signed_mag hb]

/-- The formats of Table 02-1. -/
theorem maxBelowSpecials_of_table : ∀ f ∈ [Fmt.fp4, Fmt.e2m3, Fmt.e3m2, Fmt.e4m3, Fmt.e5m2, Fmt.bf16, Fmt.fp32], MaxBelowSpecials f := by
  simp [MaxBelowSpecials, Fmt.infBits, Fmt.fp4, Fmt.e2m3, Fmt.e3m2, Fmt.e4m3, Fmt.e5m2, Fmt.bf16, Fmt.fp32]

/-- Settles O3, for every format whose special encodings stand above its finite ones, as those of Table 02-1 do. -/
theorem representableValuesConvertExactly : Obligations.RepresentableValuesConvertExactly := by
  unfold Obligations.RepresentableValuesConvertExactly
  exact fun f hf r b hb hn => bitsOf_decode (maxBelowSpecials_of_table f hf) r hb hn

end Sys2Proof.Formats
end

section
/-! SUPPORT. The end of an array instruction (O15): the rows of outputs in the seedbed, the token and the failed drill, and the recompute of a canary
pass (R65-R68, R93, R95, R97). -/

namespace Sys2Proof.ArrayEnd

open Sys2Proof Sys2Proof.Machine Sys2Proof.Claim Sys2Proof.HostPort

/-! ## Bytes and rows of bytes -/

theorem readBytes_congr {m m' : Memory} {a n : Nat} (h : ∀ c, a ≤ c → c < a + n → readByte m c = readByte m' c) :
    readBytes m a n = readBytes m' a n := by
  induction n generalizing a with
  | zero => rfl
  | succ n ih =>
    rw [readBytes, readBytes, h a (by omega) (by omega), ih fun c hl hu => h c (by omega) (by omega)]

/-- A read of what was just written. -/
theorem readBytes_writeBytes_same (m : Memory) (a : Nat) (bs : List Byte) : readBytes (writeBytes m a bs) a bs.length = bs := by
  induction bs generalizing m a with
  | nil => rfl
  | cons b bs ih =>
    rw [writeBytes, List.length_cons, readBytes, ih, readByte_writeBytes_below _ _ _ _ (Nat.lt_succ_self a), readByte_writeByte_same]

/-- A read of bytes that the write leaves alone. -/
theorem readBytes_writeBytes_apart (m : Memory) {a c n : Nat} {bs : List Byte} (h : c + n ≤ a ∨ a + bs.length ≤ c) :
    readBytes (writeBytes m a bs) c n = readBytes m c n :=
  readBytes_congr fun k hl hu => by rw [readByte_writeBytes, if_neg (by omega)]

/-- The memory after row `row b` has been written at `base b`, for each `b` of the list in turn. -/
def writeRows (base : Nat → Nat) (row : Nat → List Byte) (l : List Nat) (m : Memory) : Memory :=
  l.foldl (fun m b => writeBytes m (base b) (row b)) m

theorem writeRows_range_succ (base : Nat → Nat) (row : Nat → List Byte) (n : Nat) (m : Memory) :
    writeRows base row (List.range (n + 1)) m = writeBytes (writeRows base row (List.range n) m) (base n) (row n) := by
  rw [writeRows, List.range_succ, List.foldl_append]; rfl

/-- Bytes outside every row stay. -/
theorem readByte_writeRows_outside {base : Nat → Nat} {row : Nat → List Byte} {c : Nat} (m : Memory) (n : Nat)
    (h : ∀ b, b < n → c < base b ∨ base b + (row b).length ≤ c) : readByte (writeRows base row (List.range n) m) c = readByte m c := by
  induction n with
  | zero => rfl
  | succ n ih =>
    have := h n (Nat.lt_succ_self n)
    rw [writeRows_range_succ, readByte_writeBytes, if_neg (by omega), ih fun b hb => h b (Nat.lt_succ_of_lt hb)]

/-- Rows that follow each other without overlap all stand in memory at the end. -/
theorem readBytes_writeRows {base : Nat → Nat} {row : Nat → List Byte} (m : Memory) {n : Nat}
    (apart : ∀ b c, b < c → c < n → base b + (row b).length ≤ base c) {b : Nat} (hb : b < n) :
    readBytes (writeRows base row (List.range n) m) (base b) (row b).length = row b := by
  induction n with
  | zero => omega
  | succ n ih =>
    rw [writeRows_range_succ]
    obtain hb | rfl : b < n ∨ b = n := by omega
    · rw [readBytes_writeBytes_apart _ (.inl (apart b n hb (Nat.lt_succ_self n))),
        ih (fun b c hbc hc => apart b c hbc (Nat.lt_succ_of_lt hc)) hb]
    · exact readBytes_writeBytes_same _ _ _

/-! ## What the steps of an ending instruction leave alone -/

/-- Metering touches only a core's meters. -/
theorem meter_core (s : State) (k i n j : Nat) : ∃ m, (s.meter k i n).core j = { s.core j with meters := m } := by
  unfold State.meter
  split
  · by_cases h : j = k
    · subst h; exact ⟨_, State.core_modCore _ _ _⟩
    · exact ⟨_, State.core_modCore_other _ _ h⟩
  · exact ⟨_, rfl⟩

theorem meter_seedbed (s : State) (k i n j : Nat) : ((s.meter k i n).core j).seedbed = (s.core j).seedbed := by
  obtain ⟨m, h⟩ := meter_core s k i n j; rw [h]

theorem meter_drills (s : State) (k i n j : Nat) : ((s.meter k i n).core j).drills = (s.core j).drills := by
  obtain ⟨m, h⟩ := meter_core s k i n j; rw [h]

theorem meter_canaries (s : State) (k i n j : Nat) : ((s.meter k i n).core j).canaries = (s.core j).canaries := by
  obtain ⟨m, h⟩ := meter_core s k i n j; rw [h]

@[simp] theorem sbWrite_seedbed (c : Core) (a : Nat) (bs : List Byte) (bad : Bool) :
    (c.sbWrite a bs bad).seedbed = writeBytes c.seedbed a bs := by
  unfold Core.sbWrite; dsimp only; split <;> rfl

@[simp] theorem sbWrite_drills (c : Core) (a : Nat) (bs : List Byte) (bad : Bool) : (c.sbWrite a bs bad).drills = c.drills := by
  unfold Core.sbWrite; dsimp only; split <;> rfl

theorem countEvents_cores (s : State) (slice : Nat) (a : ArrayInstr) (n : Nat) : (s.countEvents slice a n).cores = s.cores := by
  simp [State.countEvents]
theorem countEvents_mem (s : State) (slice : Nat) (a : ArrayInstr) (n : Nat) : (s.countEvents slice a n).mem = s.mem := by
  simp [State.countEvents]
theorem countEvents_yoke (s : State) (slice : Nat) (a : ArrayInstr) (n : Nat) : (s.countEvents slice a n).yoke = s.yoke := by
  simp [State.countEvents]

/-! ## The drain (R45, R51, R93) -/

/-- The output bytes and the scale bytes of vector `b`. -/
def outRow (a : ArrayInstr) (b : Nat) : List Byte := (drainVector a.d.ofmt ((List.range a.d.nc).map fun j => accEntry a b j)).1
def outScales (a : ArrayInstr) (b : Nat) : List Byte := (drainVector a.d.ofmt ((List.range a.d.nc).map fun j => accEntry a b j)).2.1

/-- The drain of one vector, in `State.drainOutputs`. -/
def drainStep (slice : Nat) (a : ArrayInstr) (r : State × ArrayInstr) (b : Nat) : State × ArrayInstr :=
  let (bs, sc, sat, ufl, nan) := drainVector a.d.ofmt (outputsOf a b)
  (r.1.modCore slice fun c =>
    let c := c.sbWrite (32 * (a.d.oaddr + b * a.d.ostride)) bs false
    if sc.isEmpty then c else c.sbWrite (32 * (a.d.osaddr + b * a.d.osGran)) sc false,
   { r.2 with sat := r.2.sat + sat, ufl := r.2.ufl + ufl, nan := r.2.nan + nan })

theorem drainOutputs_eq (s : State) (slice : Nat) (a : ArrayInstr) : s.drainOutputs slice a = a.vectors.foldl (drainStep slice a) (s, a) := rfl

/-- A vector without scales writes its row, and nothing else of the seedbed or of memory. -/
theorem drainStep_seedbed {slice b : Nat} {a : ArrayInstr} (r : State × ArrayInstr)
    (hs : outScales a b = []) :
    ((drainStep slice a r b).1.core slice).seedbed = writeBytes (r.1.core slice).seedbed (outAt a.d b) (outRow a b) := by
  have hs' : (drainVector a.d.ofmt (outputsOf a b)).2.1 = [] := hs
  simp only [drainStep, State.core_modCore, hs', List.isEmpty_nil, if_true, sbWrite_seedbed]
  rfl

theorem drainStep_mem (slice b : Nat) (a : ArrayInstr) (r : State × ArrayInstr) : (drainStep slice a r b).1.mem = r.1.mem := rfl

theorem drainStep_token (slice b : Nat) (a : ArrayInstr) (r : State × ArrayInstr) : (drainStep slice a r b).2.token = r.2.token := rfl

/-- The drain of an unscaled output writes the rows of the vectors in turn. -/
theorem drainOutputs_seedbed {s : State} {slice : Nat} {a : ArrayInstr}
    (hs : ∀ b, b < a.d.nb → outScales a b = []) :
    ((s.drainOutputs slice a).1.core slice).seedbed = writeRows (outAt a.d) (outRow a) (List.range a.d.nb) (s.core slice).seedbed := by
  have fold (l : List Nat) (hl : ∀ b ∈ l, b < a.d.nb) (r : State × ArrayInstr) :
      ((l.foldl (drainStep slice a) r).1.core slice).seedbed = writeRows (outAt a.d) (outRow a) l (r.1.core slice).seedbed := by
    induction l generalizing r with
    | nil => rfl
    | cons b l ih =>
      rw [List.foldl_cons, ih fun c hc => hl c (List.mem_cons_of_mem _ hc), drainStep_seedbed r (hs b (hl b List.mem_cons_self))]
      rfl
  exact fold _ (fun b hb => List.mem_range.1 hb) (s, a)

theorem drainOutputs_mem (s : State) (slice : Nat) (a : ArrayInstr) : (s.drainOutputs slice a).1.mem = s.mem :=
  List.foldlRecOn a.vectors (drainStep slice a) (motive := fun r => r.1.mem = s.mem) rfl
    fun r h b _ => (drainStep_mem slice b a r).trans h

theorem drainOutputs_token (s : State) (slice : Nat) (a : ArrayInstr) : (s.drainOutputs slice a).2.token = a.token :=
  List.foldlRecOn a.vectors (drainStep slice a) (motive := fun r => r.2.token = a.token) rfl
    fun r h b _ => (drainStep_token slice b a r).trans h

/-- Rows of outputs do not overlap where one vector is written, or each row ends before the next begins. -/
theorem outAt_apart {d : ArrayDesc} {b c : Nat} (hd : d.nb = 1 ∨ outLen d ≤ 32 * d.ostride) (hbc : b < c) (hc : c < d.nb) :
    outAt d b + outLen d ≤ outAt d c := by
  obtain h | h := hd
  · omega
  · have := Nat.mul_le_mul_right d.ostride hbc
    rw [Nat.succ_mul] at this
    unfold outAt
    omega

/-! ## Leaving the queue (R93, R95) -/

/-- The head instruction is gone from the queue, and its token is the latest complete one. -/
def leave (s : State) (slice : Nat) (a : ArrayInstr) : State :=
  s.modCore slice fun c => { c with queue := c.queue.filter fun b => decide (b.token ≠ a.token), arrayDone := a.token }

theorem endArray_ok (s : State) (slice : Nat) (a : ArrayInstr) : s.endArray slice a 0 = (leave s slice a).modCore slice fun c => c.releaseWaits := rfl

theorem endArray_poisoned (s : State) (slice : Nat) (a : ArrayInstr) :
    s.endArray slice a 4 = ((leave s slice a).noteFailure a 4).modCore slice fun c => c.releaseWaits := rfl

theorem find?_mapVals {α : Type} (f : Nat → α → α) (m : List (Nat × α)) (k : Nat) : find? (mapVals f m) k = (find? m k).map (f k) := by
  induction m with
  | nil => rfl
  | cons e m ih =>
    obtain ⟨i, a⟩ := e
    by_cases h : i = k
    · subst h; simp [mapVals, find?]
    · simpa [mapVals, find?, h] using ih

/-- Waiting paths go on; of a drill only its paths and their bookkeeping change. -/
theorem releaseWaits_drill {s : State} {d : DrillRef} {x : Drill} (h : s.drill? d = some x) :
    ∃ z, (s.modCore d.slice fun c => c.releaseWaits).drill? d = some z ∧ x.SameRegs z := by
  unfold State.drill? at h ⊢
  rw [State.core_modCore, Core.releaseWaits, find?_mapVals, h]
  exact ⟨_, rfl, Drill.release_same x _⟩

/-- The drill of a failed instruction that lives is told the token and the status. -/
theorem noteFailure_active {s : State} {a : ArrayInstr} {x : Drill} (status : Nat) (h : s.drill? a.drill = some x) (hc : x.context = a.context)
    (hx : x.status = .active) : s.noteFailure a status = s.setDrill a.drill { x with failed := x.failed ++ [(a.token, status)] } := by
  have takes : s.takesFailure a = true := by simp [State.takesFailure, h, hc, hx]
  simp [State.noteFailure, takes, State.modDrill, h]

/-- Completion with status 0: the token, the queue, and what stays. -/
theorem endArray_ok_effect (s : State) (slice : Nat) (a : ArrayInstr) :
    ((s.endArray slice a 0).core slice).arrayDone = a.token ∧ (∀ b ∈ ((s.endArray slice a 0).core slice).queue, b.token ≠ a.token) ∧
      ((s.endArray slice a 0).core slice).seedbed = (s.core slice).seedbed ∧ (s.endArray slice a 0).mem = s.mem := by
  rw [endArray_ok, leave, State.core_modCore, State.core_modCore]
  exact ⟨rfl, fun b hb => of_decide_eq_true (List.mem_filter.1 hb).2, rfl, rfl⟩

/-- Completion with status 4 of an instruction whose drill lives: the token, the queue, the drill, and what stays. -/
theorem endArray_poisoned_effect {s : State} {a : ArrayInstr} {x : Drill} (h : s.drill? a.drill = some x) (hc : x.context = a.context)
    (hx : x.status = .active) :
    ((s.endArray a.drill.slice a 4).core a.drill.slice).arrayDone = a.token ∧
      (∀ b ∈ ((s.endArray a.drill.slice a 4).core a.drill.slice).queue, b.token ≠ a.token) ∧
      (∃ z, (s.endArray a.drill.slice a 4).drill? a.drill = some z ∧ z.failed = x.failed ++ [(a.token, 4)]) ∧
      (s.endArray a.drill.slice a 4).mem = s.mem := by
  have left : (leave s a.drill.slice a).drill? a.drill = some x := by
    unfold State.drill? at h ⊢; rw [leave, State.core_modCore]; exact h
  rw [endArray_poisoned, noteFailure_active 4 left hc hx]
  refine ⟨?_, ?_, ?_, rfl⟩
  · rw [State.core_modCore, State.setDrill, State.core_modCore, leave, State.core_modCore]; rfl
  · rw [State.core_modCore, State.setDrill, State.core_modCore, leave, State.core_modCore]
    exact fun b hb => of_decide_eq_true (List.mem_filter.1 hb).2
  · obtain ⟨z, hz, same⟩ := releaseWaits_drill (s := (leave s a.drill.slice a).setDrill a.drill { x with failed := x.failed ++ [(a.token, 4)] })
      (d := a.drill) (by rw [State.drill?_setDrill, if_pos ⟨rfl, rfl⟩])
    exact ⟨z, hz, by rw [Drill.SameRegs] at same; rw [same]⟩

/-! ## ARRAY_INSTR_COMPLETE -/

/-- Free outputs change the seedbed of their core, and no drill and no memory (Table 03-7). -/
theorem freeOutputs_keeps (s : State) (slice : Nat) (a : ArrayInstr) :
    (s.freeOutputs slice a).mem = s.mem ∧ ((s.freeOutputs slice a).core slice).drills = (s.core slice).drills := by
  unfold State.freeOutputs
  refine List.foldlRecOn a.vectors _ (motive := fun t : State => t.mem = s.mem ∧ (t.core slice).drills = (s.core slice).drills) ⟨rfl, rfl⟩
    fun t ht b _ => ⟨ht.1, ?_⟩
  rw [State.core_modCore]
  split
  · rw [sbWrite_drills, sbWrite_drills]; exact ht.2
  · rw [sbWrite_drills]; exact ht.2

/-- What the drain gives: the metered state with the outputs in the seedbed, and the instruction with the drain's events counted (R63). -/
def drained (s : State) (slice : Nat) (a : ArrayInstr) : State × ArrayInstr :=
  ({ s.meter slice 1 a.cycles with fresh := (s.meter slice 1 a.cycles).fresh + 1 } : State).drainOutputs slice a

/-- The operand bytes that the instruction still reads. -/
def readOps (c : Core) (a : ArrayInstr) : Memory :=
  c.seedbed.filter fun e => a.reads.any fun sp => decide (sp.lo ≤ e.1) && decide ((e.1 : Int) < sp.hi)

/-- A canary pass keeps the completed instruction with its operand bytes (R66). -/
def keepForCanary (slice : Nat) (ops : Memory) (a : ArrayInstr) (t : State) : State :=
  if t.canaryPass a.comp then t.modCore slice fun c => { c with canaries := c.canaries ++ [⟨a, ops, a.canary⟩] } else t

theorem keepForCanary_mem (slice : Nat) (ops : Memory) (a : ArrayInstr) (t : State) : (keepForCanary slice ops a t).mem = t.mem := by
  unfold keepForCanary; split <;> rfl

theorem keepForCanary_seedbed (slice : Nat) (ops : Memory) (a : ArrayInstr) (t : State) :
    ((keepForCanary slice ops a t).core slice).seedbed = (t.core slice).seedbed := by
  unfold keepForCanary; split
  · rw [State.core_modCore]
  · rfl

theorem drained_mem (s : State) (slice : Nat) (a : ArrayInstr) : (drained s slice a).1.mem = s.mem :=
  (drainOutputs_mem _ _ _).trans (State.meter_mem _ _ _ _)

theorem drained_token (s : State) (slice : Nat) (a : ArrayInstr) : (drained s slice a).2.token = a.token := drainOutputs_token _ _ _

theorem drained_seedbed {s : State} {slice : Nat} {a : ArrayInstr}
    (hs : ∀ b, b < a.d.nb → outScales a b = []) :
    ((drained s slice a).1.core slice).seedbed = writeRows (outAt a.d) (outRow a) (List.range a.d.nb) (s.core slice).seedbed := by
  rw [drained, drainOutputs_seedbed hs]
  exact congrArg _ (meter_seedbed s slice 1 a.cycles slice)

section
variable {s : State} {slice : Nat} {a : ArrayInstr} {rest : List ArrayInstr} (hu : SliceUp s slice) (hq : (s.core slice).queue = a :: rest)
  (hp : a.phase = .streaming (a.d.kt - 1))
include hu hq hp

/-- Poison met: the outputs are free values, and the token completes with status 4. -/
theorem exec_complete_poisoned (hb : a.poisonMet = true) : Machine.exec (.arrayInstrComplete slice) s =
    .next ((((s.meter slice 1 a.cycles).freeOutputs slice a).countEvents slice a 0).endArray slice a 4) := by
  refine congrArg Host.Outcome.next ?_
  simp [hu.1, dieOf, hu.2, hq, hp, hb]

/-- No check and no poison: the outputs are drained, a canary pass keeps the instruction, and its token completes with status 0. -/
theorem exec_complete_clean (hb : a.poisonMet = false) (hk : a.chkAction = 0) : Machine.exec (.arrayInstrComplete slice) s =
    .next ((keepForCanary slice (readOps (s.core slice) a) (drained s slice a).2
      ((drained s slice a).1.countEvents slice (drained s slice a).2 0)).endArray slice (drained s slice a).2 0) := by
  have unchecked (key : Nat) : a.checks key = ([], 0) := if_pos hk
  refine congrArg Host.Outcome.next ?_
  simp [hu.1, dieOf, hu.2, hq, hp, hb, unchecked, State.checkActions, keepForCanary, readOps, drained]

end

theorem arrayInstructionCompletes : Claim.ArrayInstructionCompletes := by
  refine ⟨fun s slice a rest hu hq hp hb hk hc hf hd hs hl => ?_, fun s slice a rest x hu hq hp hb hsl hx hctx hst => ?_⟩
  · obtain ⟨done, gone, seedbed, mem⟩ := endArray_ok_effect (keepForCanary slice (readOps (s.core slice) a) (drained s slice a).2
      ((drained s slice a).1.countEvents slice (drained s slice a).2 0)) slice (drained s slice a).2
    rw [drained_token] at done gone
    rw [keepForCanary_seedbed, State.core_congr (countEvents_cores _ _ _ _), drained_seedbed hs] at seedbed
    rw [keepForCanary_mem, countEvents_mem, drained_mem] at mem
    refine ⟨_, exec_complete_clean hu hq hp hb hk, done, gone, fun b hb => ?_, fun c hc => ?_, mem⟩
    · rw [seedbed, ← hl b hb]
      exact readBytes_writeRows _ (fun b c hbc hcn => (hl b (hbc.trans hcn)).symm ▸ outAt_apart hd hbc hcn) hb
    · rw [seedbed]
      exact readByte_writeRows_outside _ _ fun b hb => (hl b hb).symm ▸ hc b hb
  · subst hsl
    obtain ⟨mem, drills⟩ := freeOutputs_keeps (s.meter a.drill.slice 1 a.cycles) a.drill.slice a
    have hx' : (((s.meter a.drill.slice 1 a.cycles).freeOutputs a.drill.slice a).countEvents a.drill.slice a 0).drill? a.drill = some x := by
      unfold State.drill? at hx ⊢
      rw [State.core_congr (countEvents_cores _ _ _ _), drills, meter_drills, hx]
    obtain ⟨done, gone, ⟨z, hz, failed⟩, mem'⟩ := endArray_poisoned_effect hx' hctx hst
    exact ⟨_, z, exec_complete_poisoned hu hq hp hb, done, gone, hz, failed, by rw [mem', countEvents_mem, mem, State.meter_mem]⟩

/-! ## CANARY_RECOMPUTE (R65-R68) -/

/-- What counting and acting on checks leaves alone: the cores, and of each composition all but the pass flag CHK (R433). -/
structure PassFlags (s t : State) : Prop where
  cores : t.cores = s.cores
  comp : ∀ c x, s.comp? c = some x → ∃ v, t.comp? c = some { x with serve := { x.serve with chk := v } }

theorem PassFlags.refl (s : State) : PassFlags s s := ⟨rfl, fun _ x h => ⟨x.serve.chk, h⟩⟩

theorem PassFlags.trans {s t u : State} (h : PassFlags s t) (k : PassFlags t u) : PassFlags s u :=
  ⟨k.cores.trans h.cores, fun c x hx => by
    obtain ⟨v, hv⟩ := h.comp c x hx
    obtain ⟨w, hw⟩ := k.comp c _ hv
    exact ⟨w, hw⟩⟩

theorem passFlags_of_eq {s t : State} (hc : t.cores = s.cores) (hy : t.yoke = s.yoke) : PassFlags s t :=
  ⟨hc, fun c x hx => ⟨x.serve.chk, (State.comp?_congr hy c).trans hx⟩⟩

theorem passFlags_of_hostSide {s t : State} (h : HostSide s t) : PassFlags s t := passFlags_of_eq h.cores h.yoke

theorem hostSide_reportComps (s : State) (code : Code) (cs : List Nat) : HostSide s (s.reportComps code cs) :=
  hostSide_logged_deliver s code _ _

theorem comp?_modServe (s : State) (c e : Nat) (f : Serve → Serve) :
    (s.modServe c f).comp? e = if e = c then (s.comp? e).map fun x => { x with serve := f x.serve } else s.comp? e := by
  unfold State.modServe State.modComp
  split
  · next x hx =>
    by_cases he : e = c
    · subst he; simp [hx]
    · rw [State.comp?_setComp_other _ _ he, if_neg he]
  · next hx =>
    by_cases he : e = c
    · subst he; simp [hx]
    · rw [if_neg he]

theorem passFlags_markChecked (s : State) (c : Nat) :
    PassFlags s (s.modServe c fun v => if v.st.running then { v with chk := true } else v) := by
  refine ⟨State.modComp_cores _ _ _, fun e x hx => ?_⟩
  rw [comp?_modServe, hx]
  by_cases he : e = c
  · cases hr : x.serve.st.running with
    | true => exact ⟨true, by simp [he, hr]⟩
    | false => exact ⟨x.serve.chk, by simp [he, hr]⟩
  · exact ⟨x.serve.chk, if_neg he⟩

/-- Acting on failed checks (R61, R62). -/
theorem passFlags_checkActions (s : State) (slice : Nat) (a : ArrayInstr) (fails : List Nat) : PassFlags s (s.checkActions slice a fails) := by
  unfold State.checkActions
  refine List.foldlRecOn fails _ (motive := PassFlags s) (.refl s) fun t ht j _ => ht.trans ?_
  have counted : PassFlags t ((t.count .rlyArrChk (dieOf slice) (slice % 8) 1).setReg .rlyArrLastchk (dieOf slice) (slice % 8) j) :=
    passFlags_of_eq rfl rfl
  dsimp only
  split
  · exact counted
  · exact (counted.trans (passFlags_markChecked _ _)).trans (passFlags_of_hostSide (hostSide_reportComps _ _ _))

/-- The report counts as made, and changes nothing else of the composition and no core (R68). -/
theorem canaryReport_effect {s : State} {c : Nat} {x : Comp} (h : s.comp? c = some x) (slice index : Nat) (e : Word × Word) :
    (s.canaryReport c slice index e).comp? c = some { x with serve := { x.serve with canaryDone := true } } ∧
      (s.canaryReport c slice index e).cores = s.cores := by
  unfold State.canaryReport
  rw [h]
  dsimp only
  generalize hd : State.deliver 4 s _ = u
  have sent : HostSide s u := hd ▸ hostSide_deliver _ _ _
  have noted : (u.modServe c fun v => { v with canaryDone := true }).comp? c = some { x with serve := { x.serve with canaryDone := true } } := by
    rw [comp?_modServe, State.comp?_congr sent.yoke, h]; simp
  have cores : (u.modServe c fun v => { v with canaryDone := true }).cores = s.cores := (State.modComp_cores _ _ _).trans sent.cores
  split
  · have told := hostSide_reportComps (u.modServe c fun v => { v with canaryDone := true }) (mkCode 0x10300042 slice) [c]
    exact ⟨(State.comp?_congr told.yoke c).trans noted, told.cores.trans cores⟩
  · exact ⟨noted, cores⟩

/-- Whether a pass is a canary pass depends on the composition's safeguard word and its pass number alone (R65). -/
theorem canaryPass_congr {s t : State} {c : Nat} {x y : Comp} (hs : s.comp? c = some x) (ht : t.comp? c = some y) (hc : y.cur = x.cur)
    (hp : y.serve.pass = x.serve.pass) : t.canaryPass c = s.canaryPass c := by
  simp [State.canaryPass, hs, ht, hc, hp]

/-- The recompute of kept work and its checks. -/
def rerun (s : State) (k : CanaryWork) : ArrayInstr := canaryRun k.instr k.ops (2 ^ 40 * s.fresh)
def rerunChecks (s : State) (k : CanaryWork) : List Nat × Nat := (rerun s k).checks (2 ^ 40 * (s.fresh + k.instr.d.kt))

/-- The outputs of the instruction against those of its recompute (R68). -/
def outputPairs (s : State) (k : CanaryWork) : List (FVal × FVal) :=
  k.instr.vectors.flatMap fun b => ((outputsOf k.instr b).zip (outputsOf (rerun s k) b)).map fun e => (f32 e.1, f32 e.2)

/-- The recompute is counted, and its checks act. -/
def rechecked (s : State) (slice : Nat) (k : CanaryWork) : State :=
  (({ s with fresh := s.fresh + k.instr.d.kt + 1 } : State).countEvents slice (rerun s k) (rerunChecks s k).2).checkActions slice (rerun s k)
    (rerunChecks s k).1

/-- Then the core holds no instruction any more, and the recompute is metered. -/
def recomputed (s : State) (slice : Nat) (k : CanaryWork) : State :=
  ((rechecked s slice k).modCore slice fun z => { z with canaries := z.canaries.map fun w => { w with held := false } }).meter slice 1
    k.instr.canaryCycles

theorem passFlags_counted (s : State) (n slice : Nat) (a : ArrayInstr) (skipped : Nat) :
    PassFlags s (({ s with fresh := n } : State).countEvents slice a skipped) :=
  passFlags_of_eq (countEvents_cores { s with fresh := n } slice a skipped) (countEvents_yoke { s with fresh := n } slice a skipped)

theorem passFlags_rechecked (s : State) (slice : Nat) (k : CanaryWork) : PassFlags s (rechecked s slice k) := by
  unfold rechecked
  exact (passFlags_counted s _ _ _ _).trans (passFlags_checkActions _ _ _ _)

theorem recomputed_comp {s : State} {c : Nat} {x : Comp} (h : s.comp? c = some x) (slice : Nat) (k : CanaryWork) :
    ∃ v, (recomputed s slice k).comp? c = some { x with serve := { x.serve with chk := v } } := by
  obtain ⟨v, hv⟩ := (passFlags_rechecked s slice k).comp c x h
  exact ⟨v, (State.comp?_congr ((State.meter_yoke _ _ _ _).trans (State.modCore_yoke _ _ _)) c).trans hv⟩

theorem recomputed_core (s : State) (slice : Nat) (k : CanaryWork) : ((recomputed s slice k).core slice).canaryDue = false ∧
    ((recomputed s slice k).core slice).seedbed = (s.core slice).seedbed := by
  unfold Core.canaryDue recomputed
  rw [meter_canaries, meter_seedbed, State.core_modCore, State.core_congr (passFlags_rechecked s slice k).cores]
  exact ⟨by simp, rfl⟩

/-- The chosen instruction is recomputed, and reported where its pass still waits for the canary's report. -/
theorem exec_canaryRecompute {s : State} {slice : Nat} {k : CanaryWork} (hu : SliceUp s slice) (hk : s.canaryWork slice = some k) :
    Machine.exec (.canaryRecompute slice) s = .next (
      let t := recomputed s slice k
      if (t.canaryPass k.instr.comp && (t.comp? k.instr.comp).all fun x : Comp => !x.serve.canaryDone) = true
      then t.canaryReport k.instr.comp slice k.instr.index (canaryMeasures (outputPairs s k)) else t) := by
  refine congrArg Host.Outcome.next ((if_neg (by simp [hu.1, dieOf, hu.2])).trans ?_)
  rw [hk]
  rfl

theorem canaryRecomputesTheChosenInstruction : Claim.CanaryRecomputesTheChosenInstruction := by
  refine ⟨fun s slice c k x hu hk hc hx hp hd => ?_, fun s slice hd => ⟨?_, ?_⟩⟩
  · subst hc
    obtain ⟨v, hv⟩ := recomputed_comp hx slice k
    obtain ⟨due, seedbed⟩ := recomputed_core s slice k
    have he := exec_canaryRecompute hu hk
    have canary : (recomputed s slice k).canaryPass k.instr.comp = true := (canaryPass_congr hx hv rfl rfl).trans hp
    obtain ⟨hr, cores⟩ := canaryReport_effect hv slice k.instr.index (canaryMeasures (outputPairs s k))
    dsimp only at he
    rw [if_pos (by simp [canary, hv, hd])] at he
    exact ⟨_, _, he, hr, rfl, rfl, rfl, by rw [State.core_congr cores]; exact due, by rw [State.core_congr cores]; exact seedbed⟩
  · refine congrArg Host.Outcome.next ?_
    dsimp only
    split
    · rfl
    · exact if_pos (.inr (.inl hd))
  · exact congrArg Host.Outcome.next (if_pos (.inr (.inr hd)))

/-- Settles O15: an instruction completes by `State.endArray`, after the drain or with free outputs, and the recompute of a canary pass is `recomputed`
with its report. -/
theorem arrayInstructionsEnd : Obligations.ArrayInstructionsEnd := by
  unfold Obligations.ArrayInstructionsEnd
  exact ⟨arrayInstructionCompletes, canaryRecomputesTheChosenInstruction⟩

end Sys2Proof.ArrayEnd
end

section
/-! SUPPORT. Tokens of array instructions and transfers (O10): what an issuing instruction leaves, and when a wait goes on or blocks its path
(R91-R93, R95, R175, R176, R184). -/

namespace Sys2Proof.Tokens

open Sys2Proof Sys2Proof.Machine Sys2Proof.Claim

/-! ## Paths that wait (R119, R149) -/

/-- A path joins a list as itself or in the path of its PC and wait state. -/
theorem exists_mem_addPath (q : Path) (ps : List Path) :
    ∃ r ∈ addPath q ps, r.pc = q.pc ∧ r.wait = q.wait ∧ q.mask &&& r.mask = q.mask := by
  induction ps with
  | nil => exact ⟨q, List.mem_singleton_self q, rfl, rfl, BitVec.and_self⟩
  | cons p ps ih =>
    rw [addPath]
    split
    · next h =>
      refine ⟨_, List.mem_cons_self, h.1, h.2, ?_⟩
      ext i; simp +contextual
    · obtain ⟨r, hr, same⟩ := ih
      exact ⟨r, List.mem_cons_of_mem _ hr, same⟩

theorem runnable_of_lowestReady {ps : List Path} {q : Path} (h : lowestReady ps = some q) : q.wait = .runnable := by
  induction ps generalizing q with
  | nil => cases h
  | cons p ps ih =>
    rw [lowestReady] at h
    split at h <;> split at h
    · next hp => cases h; exact of_decide_eq_true hp
    · cases h
    · next hp => cases h; exact of_decide_eq_true (Bool.and_eq_true_iff.1 hp).1
    · next hq _ => cases h; exact ih hq

theorem mem_removeFirst {α : Type} {p : α → Bool} {a : α} {l : List α} (ha : a ∈ l) (hp : p a = false) : a ∈ removeFirst p l := by
  induction l with
  | nil => exact ha
  | cons b l ih =>
    rw [removeFirst]
    obtain rfl | h := List.mem_cons.1 ha
    · simp [hp]
    · split
      · exact h
      · exact List.mem_cons_of_mem _ (ih h)

theorem shelve_of_none {y : Drill} (h : y.cur = none) : y.shelve = y := by rw [Drill.shelve, h]

/-- Selecting the next path leaves a waiting one among the others (R122). -/
theorem mem_runLowest {y : Drill} {r : Path} (hc : y.cur = none) (hr : r ∈ y.paths) (hw : r.wait ≠ .runnable) : r ∈ y.runLowest.paths := by
  rw [Drill.runLowest, shelve_of_none hc]
  split
  · next q hq =>
    rw [Drill.run, shelve_of_none hc]
    refine mem_removeFirst hr ?_
    simp [runnable_of_lowestReady hq, hw]
  · exact hr

/-- A running path that waits as a whole runs no more, and its threads stand among the waiting ones. -/
theorem exists_mem_waitAt {x : Drill} {p : Path} (hx : x.cur = some p) (w : Wait) :
    (x.waitAt p.mask p.pc w).cur = none ∧
      ∃ q ∈ (x.waitAt p.mask p.pc w).paths, q.pc = p.pc ∧ q.wait = w ∧ p.mask &&& q.mask = p.mask := by
  have none_left : p.mask &&& ~~~p.mask = 0 := by ext i; simp
  rw [Drill.waitAt, hx]
  dsimp only
  rw [if_pos none_left]
  exact ⟨rfl, exists_mem_addPath _ x.paths⟩

/-! ## Results of a drill that goes on -/

theorem wrote_retire {w act : DWord} {n : Nat} {x z : Drill} {v : Nat → Nat → Word} (h : Wrote w act n x z v) : Wrote w act n x z.retire v := by
  unfold Wrote at h ⊢
  simpa only [Drill.retire_rd, Drill.retire_greg, Drill.retire_ureg, Drill.retire_preg] using h

theorem wrotePred_retire {act : DWord} {x z : Drill} {at_ : Nat → Prop} {v : Nat → Nat → Bool} (h : WrotePred act x z at_ v) :
    WrotePred act x z.retire at_ v := by
  unfold WrotePred at h ⊢
  simpa only [Drill.retire_pbit, Drill.retire_greg, Drill.retire_ureg] using h

/-- A drill-uniform destination is written once, and no other register. -/
theorem wrote_setU {w : DWord} (hu : iDU w = true) (act : DWord) (x : Drill) (v : Word) :
    Wrote w act 1 x (x.setU (iDst w) v) fun _ _ => v := by
  have once : x.writeEach w act (fun _ => v) = x.setU (iDst w) v := by simp [Drill.writeEach, execThreads, hu, Drill.wr]
  rw [← once]
  exact (x.writeEach_wrote w act fun _ => v).1

/-! ## Waiting for a token (R91, R184) -/

/-- The running path waits at the instruction, and no register changes. -/
def Blocks (i : Instr) (s : State) (d : DrillRef) (x : Drill) (p : Path) (w : Wait) : Prop :=
  ∃ t z q, Machine.exec i s = .next t ∧ t.drill? d = some z ∧ SameRegs x z ∧ q ∈ z.paths ∧ q.pc = p.pc ∧ q.wait = w ∧
    p.mask &&& q.mask = p.mask

section
variable {s : State} {d : DrillRef} {f : Fetched} {cls op : Nat} {x : Drill} {p : Path} {act : DWord}
  {body : Drill → Path → DWord → Option State} (h : Ready s d f cls op x p act)
include h

/-- An instruction that only gives the drill new registers does so, and the drill goes on. -/
theorem goesOn_of_body {z : Drill} (hb : body x p act = some (s.setDrill d z.retire)) (hz : z = { x with g := z.g, p := z.p, u := z.u }) :
    GoesOn s (s.issue d f cls op false body) d x p z.retire := by
  have computes : s.issue d f cls op false body = s.alu d f cls op fun _ _ => z := by
    rw [State.alu, State.issue_ready h, State.issue_ready h, hb]
  rw [computes]
  exact State.alu_ready h (fun _ _ => z) hz

theorem onlyGoesOn_of_body {i : Instr} (he : Machine.exec i s = .next (s.issue d f cls op false body))
    (hb : body x p act = some (s.setDrill d x.retire)) : OnlyGoesOn i s d x p :=
  ⟨_, _, he, goesOn_of_body h hb rfl, x.retire_g, x.retire_p, x.retire_u⟩

theorem blocks_of_body {i : Instr} {w : Wait} (he : Machine.exec i s = .next (s.issue d f cls op false body))
    (hb : body x p act = some (s.setDrill d (x.waitAt p.mask p.pc w).runLowest)) (hw : w ≠ .runnable) : Blocks i s d x p w := by
  obtain ⟨-, hcur, -⟩ := id h
  have same := (x.waitAt_same p.mask p.pc w).trans (Drill.runLowest_same _)
  obtain ⟨idle, q, hq, hpc, hwait, hmask⟩ := exists_mem_waitAt hcur w
  rw [State.issue_ready h, if_neg (by simp), hb] at he
  refine ⟨_, _, q, he, (drillOnly_setDrill s d _ 2 1).1, ?_, mem_runLowest idle hq (hwait ▸ hw), hpc, hwait, hmask⟩
  rw [same]
  exact ⟨rfl, rfl, rfl⟩

/-- A poll writes its predicate and goes on. -/
theorem polls_of_body {i : Instr} {v : Bool} (he : Machine.exec i s = .next (s.issue d f cls op false body))
    (hb : body x p act = some (s.setDrill d (x.writePred f.word act fun _ => v).retire)) :
    ∃ t z, Machine.exec i s = .next t ∧ GoesOn s t d x p z ∧ WrotePred act x z (· = iDst f.word) fun _ _ => v :=
  ⟨_, _, he, goesOn_of_body h hb rfl, wrotePred_retire (x.writePred_wrote f.word act fun _ => v)⟩

/-- A drill without failed tokens takes no deferred trap (R95). -/
theorem deferredTrap_of_no_failures (hf : x.failed = []) (mask word : DWord) : s.deferredTrap d mask word = none := by
  rw [State.deferredTrap, h.1]
  simp only [hf]

end

/-- The wait of XWAIT and XFENCE for a token. -/
theorem xferWait_eq (s : State) (d : DrillRef) (x : Drill) (p : Path) (t : Word) : s.xferWait d x p t =
    s.setDrill d (if reached (s.core d.slice).xferDone t then x.retire else (x.waitAt p.mask p.pc (.transfer t)).runLowest) := by
  unfold State.xferWait tokenDone
  by_cases h : reached (s.core d.slice).xferDone t
  · rw [if_pos (decide_eq_true h), if_pos h]
  · rw [if_neg (by simpa using h), if_neg h]

/-- A drill has no array instruction under way when none of the queue is its own. -/
theorem drillArrays_eq_nil {c : Core} {d : DrillRef} (h : ∀ a ∈ c.queue, a.drill ≠ d) : c.drillArrays d = [] :=
  List.filter_eq_nil_iff.2 fun a ha => by simpa using h a ha

theorem tokenWaitsEndAtCompletion : Claim.TokenWaitsEndAtCompletion := by
  refine ⟨?await, ?awaitBlocks, ?apoll, ?afence, ?xwait, ?xwaitBlocks, ?xpoll, ?xfence⟩
  case await =>
    intro s d f x p act h hf hr
    refine onlyGoesOn_of_body h rfl ?_
    rw [deferredTrap_of_no_failures h hf]
    exact if_pos (decide_eq_true hr)
  case awaitBlocks =>
    intro s d f x p act h hf hr
    refine blocks_of_body h rfl ?_ (w := .array (x.srcA f.word 0)) nofun
    rw [deferredTrap_of_no_failures h hf]
    exact if_neg (by simpa [tokenDone] using hr)
  case apoll =>
    intro s d f x p act h hf
    refine polls_of_body h rfl ?_
    rw [deferredTrap_of_no_failures h hf]
    rfl
  case afence =>
    intro s d f x p act h hf hq
    refine onlyGoesOn_of_body h rfl ?_
    rw [deferredTrap_of_no_failures h hf]
    exact if_pos (by rw [drillArrays_eq_nil hq]; rfl)
  case xwait =>
    intro s d f x p act h hr
    refine onlyGoesOn_of_body h rfl ?_
    rw [xferWait_eq, if_pos hr]
  case xwaitBlocks =>
    intro s d f x p act h hr
    refine blocks_of_body h rfl ?_ (w := .transfer (x.srcA f.word 0)) nofun
    rw [xferWait_eq, if_neg hr]
  case xpoll => exact fun s d f x p act h => polls_of_body h rfl rfl
  case xfence =>
    intro s d f x p act h hr
    refine onlyGoesOn_of_body h rfl ?_
    cases hl : x.lastXfer with
    | none => rfl
    | some t =>
      dsimp only
      rw [xferWait_eq, if_pos (hr t hl)]

/-! ## Taking the next token (R92, R93, R175, R176, R184) -/

/-- A legal word whose destination must be drill-uniform names a drill-uniform one (R143). -/
theorem iDU_of_ureg_dst {w : DWord} {sp : OpSpec} {n : Nat} (hl : legalWord w = true) (hs : opSpec w = some sp) (hd : sp.dst = .ureg n) :
    iDU w = true := by
  simp only [legalWord, hs, hd, opdOk, Bool.and_eq_true] at hl
  tauto

/-- The row of AMM and of XSUB: a drill-uniform destination and source (Table 05-11). -/
theorem opSpec_issue {w : DWord} (hc : iCls w = 0xA ∨ iCls w = 0xB) (ho : iOp w = 0x00) :
    opSpec w = some (mkSpec true false (.ureg 1) (.ureg 1) .unused .unused (decide (iMod w = 0))) := by
  unfold opSpec
  obtain hc | hc := hc <;> rw [hc, ho] <;> rfl

/-- An instruction that changes its core beside its drill: drill, memory and core after it. -/
theorem core_effect_of_body {i : Instr} {s : State} {d : DrillRef} {f : Fetched} {cls op : Nat} {x z : Drill} {p : Path} {act : DWord}
    {coll : Bool} {c : Core} {body : Drill → Path → DWord → Option State} (h : Ready s d f cls op x p act)
    (he : Machine.exec i s = .next (s.issue d f cls op coll body)) (hcoll : coll = true → act = x.live)
    (hb : body x p act = some ((s.setCore d.slice c).setDrill d z)) :
    ∃ t, Machine.exec i s = .next t ∧ t.drill? d = some z ∧ t.mem = s.mem ∧
      (t.core d.slice).queue = c.queue ∧ (t.core d.slice).arrayNext = c.arrayNext ∧ (t.core d.slice).xfers = c.xfers ∧
      (t.core d.slice).xferNext = c.xferNext := by
  rw [State.issue_ready h, if_neg fun hn => hn.2 (hcoll hn.1), hb] at he
  obtain ⟨drill, _, _, core, _⟩ := drillOnly_setDrill (s.setCore d.slice c) d z 2 1
  rw [State.core_setCore] at core
  refine ⟨_, he, drill, by simp [State.setDrill, State.modCore], ?_⟩
  rw [core]
  exact ⟨rfl, rfl, rfl, rfl⟩

theorem issueTakesTheNextToken : Claim.IssueTakesTheNextToken := by
  refine ⟨fun s d f x p h hud hlen htr => ?amm, fun s d f x p act h hud hlen htr => ?xsub⟩
  case amm =>
    obtain ⟨-, hcur, -, -, -, -, hcls, hop, -, -, hlegal, -⟩ := id h
    have uni := iDU_of_ureg_dst hlegal (opSpec_issue (.inl hcls) hop) rfl
    have free : ¬ (8 ≤ (s.core d.slice).queue.length ∨ s.tracked d.slice [granules (x.srcA f.word 0).toNat 1] [] = true) := by
      simp [htr, hlen]
    obtain ⟨t, he, drill, mem, queue, next, -⟩ := core_effect_of_body h (rfl : Machine.exec (.amm d f) s = execAmm d f s) (fun _ => rfl)
      ((if_neg (Nat.not_le.2 hud)).trans (if_neg free))
    have goes := Drill.retire_goes (x.setU (iDst f.word) ((s.core d.slice).arrayNext + 1)) p hcur
    exact ⟨t, _, _, he, drill, mem, wrote_retire (wrote_setU uni _ x _), goes.1, queue, next, rfl, rfl, rfl, rfl, rfl⟩
  case xsub =>
    obtain ⟨-, hcur, -, -, -, -, hcls, hop, -, -, hlegal, -⟩ := id h
    have uni := iDU_of_ureg_dst hlegal (opSpec_issue (.inr hcls) hop) rfl
    have free : ¬ (64 ≤ (s.core d.slice).xfers.length ∨ s.tracked d.slice [granules (x.srcA f.word 0).toNat 2] [] = true) := by
      simp [htr, hlen]
    obtain ⟨t, he, drill, mem, -, -, xfers, next⟩ := core_effect_of_body h (rfl : Machine.exec (.xsub d f) s = execXsub d f s) nofun
      ((if_neg (Nat.not_le.2 hud)).trans (if_neg free))
    have goes := Drill.retire_goes
      ({ x with lastXfer := some ((s.core d.slice).xferNext + 1) }.setU (iDst f.word) ((s.core d.slice).xferNext + 1)) p hcur
    exact ⟨t, _, _, he, drill, mem, wrote_retire (wrote_setU uni act { x with lastXfer := some _ } _), goes.1, congrArg Drill.lastXfer goes.2,
      xfers, next, rfl, rfl, rfl, rfl, rfl, rfl⟩

/-- Settles O10: AMM and XSUB by what issuing does to the core, the waits by whether their token is reached. -/
theorem tokensAreTakenAndAwaited : Obligations.TokensAreTakenAndAwaited := by
  unfold Obligations.TokensAreTakenAndAwaited
  exact ⟨issueTakesTheNextToken, tokenWaitsEndAtCompletion⟩

end Sys2Proof.Tokens
end

section
/-! SUPPORT. The start of an array instruction and the swap of a tile (O14): the first shadow load, the completion of a descriptor that cannot start,
and the column sums that a tile leaves in the accumulators (R76, R79, R80, R82, R84, R87, R95). -/

namespace Sys2Proof.ArrayStart

open Sys2Proof Sys2Proof.Machine Sys2Proof.Claim Sys2Proof.ArrayEnd

/-! ## The queue and the shadow set -/

theorem startable_of_queued {c : Core} {a : ArrayInstr} {rest : List ArrayInstr} (hq : c.queue = a :: rest) (hp : a.phase = .queued) :
    c.startable = some a := by
  rw [Core.startable, hq]
  exact if_pos hp

/-- Without the outlier path there is no table to check (R56). -/
theorem outliersOk_of_not_outl {d : ArrayDesc} (c : Core) (h : d.outl = false) : c.outliersOk d = (true, false) := by
  rw [Core.outliersOk, h]; rfl

/-- Replacing the head instruction leaves it the head. -/
theorem putInstr_queue {c : Core} {a b : ArrayInstr} {rest : List ArrayInstr} (hq : c.queue = a :: rest) (ht : b.token = a.token) :
    ∃ rest', (c.putInstr b).queue = b :: rest' := by
  rw [Core.putInstr]
  exact ⟨_, by rw [hq, List.map_cons, if_pos ht.symm]⟩

/-! ## ARRAY_INSTR_START (R79, R84, R87, R90) -/

/-- The instruction that has begun to load its first tile, and the core that holds it. -/
def loadingInstr (c : Core) (a : ArrayInstr) : ArrayInstr := { (c.loadTile a 0).2 with phase := .loading 0 }
def firstLoad (c : Core) (a : ArrayInstr) : Core := ({ c with shadow := some (c.loadTile a 0).1 } : Core).putInstr (loadingInstr c a)

section
variable {s : State} {slice : Nat} {a : ArrayInstr} {rest : List ArrayInstr} (hi : s.coreIssues slice = true)
  (hq : (s.core slice).queue = a :: rest) (hp : a.phase = .queued) (hc : (s.core slice).canaryDue = false)
  (hr : s.revokedCtx a.context = false)
include hi hq hp hc hr

/-- The head instruction of valid descriptor, with nothing in its way, loads its first tile. -/
theorem exec_start_valid (hb : a.descPoisoned = false) (hv : a.d.valid = true) (ho : a.d.outl = false) (hx : (s.core slice).xfers = [])
    (hw : ∀ b ∈ (s.core slice).queue, b.seq < a.seq → anyOverlap a.reads b.writes = false) :
    Machine.exec (.arrayInstrStart slice) s = .next (s.setCore slice (firstLoad (s.core slice) a)) := by
  have apart : ((s.core slice).queue.any fun b => decide (b.seq < a.seq) && anyOverlap a.reads b.writes) = false := by
    simpa using hw
  have clear : ((s.core slice).xfers.any fun x =>
      decide (x.seq < a.seq) && (anyOverlap (a.reads ++ a.writes) x.writes || anyOverlap a.writes x.reads)) = false := by
    rw [hx]; rfl
  refine congrArg Host.Outcome.next ?_
  simp only [startable_of_queued hq hp, outliersOk_of_not_outl _ ho, hi, hc, hr, hb, hv, apart, clear, Bool.not_true, Bool.false_eq_true,
    or_self, false_and, if_false, firstLoad, loadingInstr]

/-- The head instruction whose descriptor is poisoned or invalid completes with status 4 or 1. -/
theorem exec_start_failed (hd : a.descPoisoned = true ∨ a.d.valid = false) :
    Machine.exec (.arrayInstrStart slice) s = .next (s.endArray slice a (if a.descPoisoned then 4 else 1)) := by
  refine congrArg Host.Outcome.next ?_
  have head : decide (((s.core slice).queue.head?.map (·.token)) = some a.token) = true := by rw [hq]; simp
  simp only [startable_of_queued hq hp, hi, hc, hr, head]
  cases hb : a.descPoisoned with
  | true => rfl
  | false =>
    rw [hb] at hd
    simp [hd.resolve_left nofun]

end

/-- Completion with a status that the drill is told, of an instruction whose drill lives: token, queue, drill, and what stays. -/
theorem endArray_failed_effect {s : State} {a : ArrayInstr} {x : Drill} {status : Nat} (hs : ¬ (status = 0 ∨ status = 3))
    (h : s.drill? a.drill = some x) (hc : x.context = a.context) (hx : x.status = .active) :
    ∃ z, (s.endArray a.drill.slice a status).drill? a.drill = some z ∧ z.failed = x.failed ++ [(a.token, status)] ∧
      ((s.endArray a.drill.slice a status).core a.drill.slice).arrayDone = a.token ∧
      (∀ b ∈ ((s.endArray a.drill.slice a status).core a.drill.slice).queue, b.token ≠ a.token) ∧
      ((s.endArray a.drill.slice a status).core a.drill.slice).seedbed = (s.core a.drill.slice).seedbed ∧
      (s.endArray a.drill.slice a status).mem = s.mem := by
  have left : (leave s a.drill.slice a).drill? a.drill = some x := by
    unfold State.drill? at h ⊢; rw [leave, State.core_modCore]; exact h
  have ended : s.endArray a.drill.slice a status = ((leave s a.drill.slice a).setDrill a.drill
      { x with failed := x.failed ++ [(a.token, status)] }).modCore a.drill.slice fun c => c.releaseWaits := by
    rw [← noteFailure_active status left hc hx]
    exact congrArg (fun t : State => t.modCore a.drill.slice fun c => c.releaseWaits) (if_neg hs)
  obtain ⟨z, hz, same⟩ := releaseWaits_drill (s := (leave s a.drill.slice a).setDrill a.drill { x with failed := x.failed ++ [(a.token, status)] })
    (d := a.drill) (by rw [State.drill?_setDrill, if_pos ⟨rfl, rfl⟩])
  rw [ended]
  refine ⟨z, hz, by rw [Drill.SameRegs] at same; rw [same], ?_⟩
  rw [State.core_modCore, State.setDrill, State.core_modCore, leave, State.core_modCore]
  exact ⟨rfl, fun b hb => of_decide_eq_true (List.mem_filter.1 hb).2, rfl, rfl⟩

theorem arrayInstructionStarts : Claim.ArrayInstructionStarts := by
  refine ⟨fun s slice a rest hi hq hp hb hv ho hx hc hr hw => ?_, fun s slice a rest x hi hq hp hc hr hd hsl hx hctx hst => ?_⟩
  · obtain ⟨rest', queue⟩ : ∃ rest', (firstLoad (s.core slice) a).queue = loadingInstr (s.core slice) a :: rest' := putInstr_queue hq rfl
    refine ⟨_, ((s.core slice).loadTile a 0).1, loadingInstr (s.core slice) a, rest',
      exec_start_valid hi hq hp hc hr hb hv ho hx hw, ?_⟩
    rw [State.core_setCore]
    exact ⟨rfl, rfl, rfl, by simp [Core.loadTile, Core.granuleBytes], queue, rfl, rfl, rfl, rfl, rfl⟩
  · subst hsl
    have told : ¬ ((if a.descPoisoned then 4 else 1) = 0 ∨ (if a.descPoisoned then 4 else 1) = 3) := by split <;> decide
    obtain ⟨z, hz, failed, done, gone, seedbed, mem⟩ := endArray_failed_effect told hx hctx hst
    exact ⟨_, z, exec_start_failed hi hq hp hc hr hd, done, gone, hz, failed, seedbed, mem⟩

/-! ## A vector streams past a tile (R76, R80, R82) -/

/-- The entries of one vector after its first `n` columns have taken their sums: those columns changed, every other entry as it was. -/
theorem getD_columns (h : Nat → Word → Word) (b : Nat) (m : SMap Word) {n : Nat} (hn : n ≤ 2048) {b' j : Nat} (hj : j < 2048) :
    getD 0 ((List.range n).foldl (fun m i => setD 0 m (2048 * b + i) (h i (getD 0 m (2048 * b + i)))) m) (2048 * b' + j) =
      if b' = b ∧ j < n then h j (getD 0 m (2048 * b' + j)) else getD 0 m (2048 * b' + j) := by
  induction n with
  | zero => simp
  | succ n ih =>
    rw [List.range_succ, List.foldl_append, List.foldl_cons, List.foldl_nil, getD_setD]
    by_cases here : b' = b ∧ j = n
    · obtain ⟨rfl, rfl⟩ := here
      rw [if_pos rfl, if_pos ⟨rfl, Nat.lt_succ_self j⟩, ih (by omega), if_neg (by omega)]
    · rw [if_neg (by omega), ih (by omega)]
      exact if_congr (by omega) rfl rfl

/-- The blocks of vector `b` that meet tile `t`. -/
def tileActs (m : Memory) (d : ArrayDesc) (t b : Nat) : List (QBlock × List FVal) :=
  (List.range (d.kr / 32)).map fun g => actBlock d d.qfmt d.quantizes m b (t * (d.kr / 32) + g)

theorem map_blocks (m : Memory) (d : ArrayDesc) (t b : Nat) :
    ((d.blocks t).map fun g => actBlock d d.qfmt d.quantizes m b g) = tileActs m d t b := List.map_map

/-- The number of the column sum of entry `(b, j)`, whose order is free. -/
def sumKey (key b j : Nat) : Nat := key + 2 ^ 31 + 2048 * b + j

/-- The entry `(b, j)` after tile `t`, where `z` stood. -/
def entryAfter (m : Memory) (d : ArrayDesc) (t : Nat) (ws : WeightSet) (key b j : Nat) (z : Word) : Word :=
  columnSum (narrowPair d.wfmt d.streamFmt) (sumKey key b j) (tileOf d.kr d.nc d.wfmt ws) (tileActs m d t b) j z

/-- One vector of `Core.streamTile`. -/
def streamStep (c : Core) (a : ArrayInstr) (t : Nat) (ws : WeightSet) (key : Nat) (x : ArrayInstr) (b : Nat) : ArrayInstr :=
  let d := a.d
  let tile := tileOf d.kr d.nc d.wfmt ws
  let bytes := d.kr * fmtBits d.afmt / 8
  let bad := c.sbPoisoned (32 * (d.aaddr + b * d.astride) + t * bytes) bytes ||
    (fmtScaled d.afmt && c.sbPoisoned (32 * (d.asaddr + b * d.asGran) + t * (d.kr / 32)) (d.kr / 32))
  ({ x with poisonMet := x.poisonMet || bad } : ArrayInstr).streamVector key b (narrowPair d.wfmt d.streamFmt) tile (a.cells key tile)
    ((d.blocks t).map fun g => actBlock d d.qfmt d.quantizes c.seedbed b g)

/-- Every vector of the instruction in turn. -/
def streamAll (c : Core) (a : ArrayInstr) (t : Nat) (ws : WeightSet) (key : Nat) (n : Nat) : ArrayInstr :=
  (List.range n).foldl (streamStep c a t ws key) a

theorem streamTile_acc (c : Core) (a : ArrayInstr) (t : Nat) (ws : WeightSet) (key : Nat) :
    (c.streamTile a t ws key).acc = (streamAll c a t ws key a.d.nb).acc := rfl
theorem streamTile_token (c : Core) (a : ArrayInstr) (t : Nat) (ws : WeightSet) (key : Nat) :
    (c.streamTile a t ws key).token = (streamAll c a t ws key a.d.nb).token := rfl

/-- A tile has at most 2048 columns (Table 03-4), so no two entries share a place. -/
theorem nc_le (a : ArrayInstr) : a.d.nc ≤ 2048 := by
  have : bits (a.desc.getD 0 0) 26 21 < 64 := Nat.mod_lt _ (by decide)
  change (bits (a.desc.getD 0 0) 26 21 + 1) * 32 ≤ 2048
  omega

/-- One vector takes the sums of its columns. -/
theorem streamStep_acc (c : Core) (a x : ArrayInstr) (t : Nat) (ws : WeightSet) (key b : Nat) : (streamStep c a t ws key x b).acc =
    (List.range x.d.nc).foldl (fun m i => setD 0 m (2048 * b + i) (entryAfter c.seedbed a.d t ws key b i (getD 0 m (2048 * b + i)))) x.acc := by
  simp only [entryAfter, ← map_blocks]
  rfl

/-- What stands in the entries after the first `n` vectors: theirs have taken the tile's sums, the others are as before. -/
theorem streamAll_effect (c : Core) (a : ArrayInstr) (t : Nat) (ws : WeightSet) (key n : Nat) :
    (streamAll c a t ws key n).token = a.token ∧ (streamAll c a t ws key n).desc = a.desc ∧
      ∀ b j, j < a.d.nc → accEntry (streamAll c a t ws key n) b j =
        if b < n then entryAfter c.seedbed a.d t ws key b j (accEntry a b j) else accEntry a b j := by
  induction n with
  | zero => exact ⟨rfl, rfl, fun b j _ => rfl⟩
  | succ n ih =>
    obtain ⟨token, desc, entries⟩ := ih
    have last : streamAll c a t ws key (n + 1) = streamStep c a t ws key (streamAll c a t ws key n) n := by
      rw [streamAll, List.range_succ, List.foldl_append]; rfl
    have same : (streamAll c a t ws key n).d = a.d := congrArg arrayDesc desc
    rw [last]
    refine ⟨token, desc, fun b j hj => ?_⟩
    have hj' := hj.trans_le (nc_le a)
    rw [accEntry, streamStep_acc, same, getD_columns _ n _ (nc_le a) hj']
    change (if _ then entryAfter c.seedbed a.d t ws key n j (accEntry _ b j) else accEntry _ b j) = _
    rw [entries b j hj]
    obtain h | rfl | h := Nat.lt_trichotomy b n
    · rw [if_neg (by omega), if_pos h, if_pos (by omega)]
    · rw [if_pos ⟨rfl, hj⟩, if_neg (by omega), if_pos (by omega)]
    · rw [if_neg (by omega), if_neg (by omega), if_neg (by omega)]

/-! ## ARRAY_TILE_SWAP (R80) -/

/-- The next tile of the instruction, if it has one, begins to load. -/
def nextLoad (c : Core) (a : ArrayInstr) (k : Nat) : Option WeightSet × ArrayInstr :=
  if k + 1 < a.d.kt then (some (c.loadTile a (k + 1)).1, (c.loadTile a (k + 1)).2) else (none, a)

theorem nextLoad_effect (c : Core) (a : ArrayInstr) (k : Nat) : (nextLoad c a k).2.token = a.token ∧ (nextLoad c a k).2.acc = a.acc ∧
    ∀ w, (nextLoad c a k).1 = some w → w.token = a.token ∧ w.tile = k + 1 := by
  unfold nextLoad
  split
  · exact ⟨rfl, rfl, fun w hw => Option.some.inj hw ▸ ⟨rfl, rfl⟩⟩
  · exact ⟨rfl, rfl, nofun⟩

/-- The instruction after the swap of its tile `k`, and the core that holds it. -/
def swappedInstr (c : Core) (a : ArrayInstr) (k : Nat) (ws : WeightSet) (key : Nat) : ArrayInstr :=
  { (nextLoad c (c.streamTile a k ws key) k).2 with phase := .streaming k }
def swapped (c : Core) (a : ArrayInstr) (k : Nat) (ws : WeightSet) (key : Nat) : Core :=
  ({ c with active := some ws, shadow := (nextLoad c (c.streamTile a k ws key) k).1 } : Core).putInstr (swappedInstr c a k ws key)

/-- The swap of the tile that is due, whose weights stand in the shadow set, of an instruction without ACC. -/
theorem exec_swap {s : State} {slice k : Nat} {a : ArrayInstr} {rest : List ArrayInstr} {ws : WeightSet} (hu : SliceUp s slice)
    (hq : (s.core slice).queue = a :: rest) (hn : a.nextTile = some k) (hs : (s.core slice).shadow = some ws) (ht : ws.token = a.token)
    (hk : ws.tile = k) (ha : a.d.acc = false) (hc : (s.core slice).canaryDue = false) :
    Machine.exec (.arrayTileSwap slice) s =
      .next (({ s with fresh := s.fresh + 1 } : State).setCore slice (swapped (s.core slice) a k ws (2 ^ 40 * s.fresh))) := by
  have init (key : Nat) : (s.core slice).readInit a key = a := if_pos (by simp [ha])
  refine congrArg Host.Outcome.next ?_
  simp [hu.1, dieOf, hu.2, hq, hn, hs, ht, hk, hc, init, swapped, swappedInstr, nextLoad]

theorem arraySwapStreamsTheTile : Claim.ArraySwapStreamsTheTile := by
  intro s slice a rest k ws hu hq hn hs ht hk ha hc
  obtain ⟨streamedToken, -, entries⟩ := streamAll_effect (s.core slice) a k ws (2 ^ 40 * s.fresh) a.d.nb
  obtain ⟨token, acc, shadow⟩ := nextLoad_effect (s.core slice) ((s.core slice).streamTile a k ws (2 ^ 40 * s.fresh)) k
  rw [streamTile_token, streamedToken] at token shadow
  obtain ⟨rest', queue⟩ : ∃ rest', (swapped (s.core slice) a k ws (2 ^ 40 * s.fresh)).queue =
      swappedInstr (s.core slice) a k ws (2 ^ 40 * s.fresh) :: rest' := putInstr_queue hq token
  refine ⟨_, swappedInstr (s.core slice) a k ws (2 ^ 40 * s.fresh), rest', sumKey (2 ^ 40 * s.fresh), exec_swap hu hq hn hs ht hk ha hc, ?_⟩
  rw [State.core_setCore]
  refine ⟨rfl, queue, token, rfl, rfl, rfl, shadow, fun b j hb hj => ?_⟩
  have entry := entries b j hj
  rw [if_pos hb] at entry
  rw [accEntry, swappedInstr, acc, streamTile_acc]
  exact entry

/-- Settles O14: the start is the first shadow load or a failed completion, and the swap folds the tile's column sums into the entries, vector by
vector. -/
theorem arrayInstructionsStartAndStream : Obligations.ArrayInstructionsStartAndStream := by
  unfold Obligations.ArrayInstructionsStartAndStream
  exact ⟨arrayInstructionStarts, arraySwapStreamsTheTile⟩

end Sys2Proof.ArrayStart
end

section
/-! SUPPORT. Paths of a drill: where threads stand after path selection, and what making waiting paths ready does (R119-R127). -/

namespace Sys2Proof.DrillPaths

open Sys2Proof Sys2Proof.Machine Sys2Proof.Claim Sys2Proof.Tokens

/-! ## Masks and threads -/

theorem mem_threads {m : DWord} {k : Nat} : k ∈ threads m ↔ k < 64 ∧ bit m k = true := by simp [threads, upto]

theorem bit_thread {k j : Nat} (hk : k < 64) : bit (BitVec.ofNat 64 (2 ^ k)) j = decide (j = k) := by
  rw [bit, BitVec.getLsbD_ofNat, Nat.testBit_two_pow]
  by_cases h : j = k
  · subst h; simp [hk]
  · simp [h, Ne.symm h]

theorem thread_ne_zero {k : Nat} (hk : k < 64) : BitVec.ofNat 64 (2 ^ k) ≠ 0 := fun h => by
  have : bit (BitVec.ofNat 64 (2 ^ k)) k = bit (0 : DWord) k := by rw [h]
  rw [bit_thread hk] at this
  simp [bit] at this

theorem covers_of_bits {a m : DWord} (h : ∀ k, k < 64 → bit m k = true → bit a k = true) : a &&& m = m := by
  ext i hi
  have := h i hi
  simp only [bit, BitVec.getLsbD_eq_getElem hi] at this
  rw [BitVec.getElem_and]
  cases hm : m[i] <;> simp_all

theorem bit_of_covers {a m : DWord} (h : a &&& m = m) {k : Nat} (hk : bit m k = true) : bit a k = true := by
  rw [← h, bit, BitVec.getLsbD_and, Bool.and_eq_true] at hk
  exact hk.1

theorem exists_bit {m : DWord} (h : m ≠ 0) : ∃ k, k < 64 ∧ bit m k = true := by
  by_contra none
  refine h (BitVec.eq_of_getLsbD_eq fun i hi => ?_)
  exact (Bool.eq_false_iff.2 fun hb => none ⟨i, hi, hb⟩).trans BitVec.getLsbD_zero.symm

theorem bit_or {a b : DWord} {k : Nat} : bit (a ||| b) k = (bit a k || bit b k) := BitVec.getLsbD_or

theorem covers_trans {a b c : DWord} (hab : a &&& b = b) (hbc : b &&& c = c) : a &&& c = c := by
  rw [← hbc, ← BitVec.and_assoc, hab]

theorem or_covers_left (a b : DWord) : (a ||| b) &&& a = a := by ext i; simp +contextual
theorem or_covers_right (a b : DWord) : (a ||| b) &&& b = b := by ext i; simp +contextual

theorem or_apart {a b c : DWord} (ha : a &&& c = 0) (hb : b &&& c = 0) : (a ||| b) &&& c = 0 := by
  have : (a ||| b) &&& c = (a &&& c) ||| (b &&& c) := by ext i; simp [Bool.and_or_distrib_right]
  rw [this, ha, hb, BitVec.or_self]

/-! ## Lists of paths -/

/-- Some path of the list has the PC and a wait that satisfies `P`, and takes in the threads `m`. -/
def Among (P : Wait → Prop) (ps : List Path) (m : DWord) (pc : BitVec 48) : Prop :=
  ∃ r ∈ ps, r.pc = pc ∧ P r.wait ∧ r.mask &&& m = m

section
variable {P : Wait → Prop} {ps : List Path} {m : DWord} {pc : BitVec 48}

theorem among_addPath_self {p : Path} (hw : P p.wait) (hm : p.mask &&& m = m) : Among P (addPath p ps) m p.pc := by
  obtain ⟨r, hr, hpc, hwait, hmask⟩ := exists_mem_addPath p ps
  exact ⟨r, hr, hpc, hwait ▸ hw, covers_trans (by rw [BitVec.and_comm]; exact hmask) hm⟩

theorem among_addPath (p : Path) (h : Among P ps m pc) : Among P (addPath p ps) m pc := by
  induction ps with
  | nil => obtain ⟨r, hr, -⟩ := h; cases hr
  | cons q qs ih =>
    obtain ⟨r, hr, hpc, hw, hm⟩ := h
    rw [addPath]
    obtain rfl | hr := List.mem_cons.1 hr
    · split
      · exact ⟨_, List.mem_cons_self, hpc, hw, covers_trans (or_covers_left _ _) hm⟩
      · exact ⟨r, List.mem_cons_self, hpc, hw, hm⟩
    · split
      · exact ⟨r, List.mem_cons_of_mem _ hr, hpc, hw, hm⟩
      · obtain ⟨s, hs, rest⟩ := ih ⟨r, hr, hpc, hw, hm⟩
        exact ⟨s, List.mem_cons_of_mem _ hs, rest⟩

theorem among_foldl_addPath (f : Path → Path) (new : List Path) (h : Among P ps m pc) :
    Among P (new.foldl (fun ps q => addPath (f q) ps) ps) m pc :=
  List.foldlRecOn new _ (motive := fun ps => Among P ps m pc) h fun _ h q _ => among_addPath (f q) h

/-- Each path that joins the list stands in it at the end. -/
theorem among_foldl_addPath_of_mem (f : Path → Path) {new : List Path} {q : Path} (hq : q ∈ new) (hw : P (f q).wait) (hm : (f q).mask &&& m = m) :
    Among P (new.foldl (fun ps q => addPath (f q) ps) ps) m (f q).pc := by
  induction new generalizing ps with
  | nil => cases hq
  | cons p new ih =>
    rw [List.foldl_cons]
    obtain rfl | hq := List.mem_cons.1 hq
    · exact among_foldl_addPath f new (among_addPath_self hw hm)
    · exact ih hq

end

/-- What is in a list after a path has joined it: the path, or the one it joined, or what was there. -/
theorem mem_addPath {p r : Path} {ps : List Path} (h : r ∈ addPath p ps) :
    r ∈ ps ∨ r.pc = p.pc ∧ r.wait = p.wait ∧ (r.mask = p.mask ∨ ∃ q ∈ ps, r.mask = q.mask ||| p.mask) := by
  induction ps with
  | nil => obtain rfl := List.mem_singleton.1 h; exact .inr ⟨rfl, rfl, .inl rfl⟩
  | cons q qs ih =>
    rw [addPath] at h
    split at h
    · next same =>
      obtain rfl | h := List.mem_cons.1 h
      · exact .inr ⟨same.1, same.2, .inr ⟨q, List.mem_cons_self, rfl⟩⟩
      · exact .inl (List.mem_cons_of_mem _ h)
    · obtain rfl | h := List.mem_cons.1 h
      · exact .inl List.mem_cons_self
      · obtain h | ⟨hpc, hw, hm⟩ := ih h
        · exact .inl (List.mem_cons_of_mem _ h)
        · exact .inr ⟨hpc, hw, hm.imp_right fun ⟨q, hq, hm⟩ => ⟨q, List.mem_cons_of_mem _ hq, hm⟩⟩

/-- The threads of some paths together. -/
def masks (ps : List Path) : DWord := ps.foldl (fun m p => m ||| p.mask) 0

theorem foldl_or_mask (ps : List Path) (a : DWord) : ps.foldl (fun m p => m ||| p.mask) a = a ||| masks ps := by
  induction ps generalizing a with
  | nil => exact BitVec.or_zero.symm
  | cons p ps ih =>
    rw [masks, List.foldl_cons, List.foldl_cons, ih, ih (0 ||| p.mask), ← BitVec.or_assoc, ← BitVec.or_assoc]
    exact congrArg (· ||| p.mask ||| masks ps) BitVec.or_zero.symm

theorem masks_cons (p : Path) (ps : List Path) : masks (p :: ps) = p.mask ||| masks ps := by
  rw [masks, List.foldl_cons, foldl_or_mask]; exact congrArg (· ||| masks ps) BitVec.zero_or

theorem masks_addPath (p : Path) (ps : List Path) : masks (addPath p ps) = masks ps ||| p.mask := by
  induction ps with
  | nil => rw [addPath, masks_cons, BitVec.or_comm]
  | cons q qs ih =>
    rw [addPath, masks_cons]
    split
    · rw [masks_cons, BitVec.or_assoc, BitVec.or_assoc, BitVec.or_comm p.mask]
    · rw [masks_cons, ih, BitVec.or_assoc]

theorem masks_covers {ps : List Path} {q : Path} (h : q ∈ ps) : masks ps &&& q.mask = q.mask := by
  induction ps with
  | nil => cases h
  | cons p ps ih =>
    rw [masks_cons]
    obtain rfl | h := List.mem_cons.1 h
    · exact or_covers_left _ _
    · exact covers_trans (or_covers_right _ _) (ih h)

theorem live_of_cur {x : Drill} {p : Path} (h : x.cur = some p) : x.live = masks x.paths ||| p.mask := by rw [Drill.live, h]; rfl
theorem live_of_none {x : Drill} (h : x.cur = none) : x.live = masks x.paths := by rw [Drill.live, h]; exact BitVec.or_zero

theorem mem_of_mem_removeFirst {α : Type} {p : α → Bool} {a : α} {l : List α} (h : a ∈ removeFirst p l) : a ∈ l := by
  induction l with
  | nil => cases h
  | cons b l ih =>
    rw [removeFirst] at h
    split at h
    · exact List.mem_cons_of_mem _ h
    · exact List.mem_cons.2 ((List.mem_cons.1 h).imp_right ih)

/-- Taking the first element that satisfies `p` out of a list loses no element. -/
theorem find?_or_mem_removeFirst {α : Type} (p : α → Bool) {a : α} {l : List α} (h : a ∈ l) : l.find? p = some a ∨ a ∈ removeFirst p l := by
  induction l with
  | nil => cases h
  | cons b l ih =>
    rw [removeFirst, List.find?_cons]
    cases hb : p b with
    | true =>
      obtain rfl | h := List.mem_cons.1 h
      · exact .inl rfl
      · exact .inr h
    | false =>
      obtain rfl | h := List.mem_cons.1 h
      · exact .inr List.mem_cons_self
      · exact (ih h).imp_right (List.mem_cons_of_mem _)

theorem mem_of_lowestReady {ps : List Path} {q : Path} (h : lowestReady ps = some q) : q ∈ ps := by
  induction ps generalizing q with
  | nil => cases h
  | cons p ps ih =>
    rw [lowestReady] at h
    split at h <;> split at h
    · cases h; exact List.mem_cons_self
    · cases h
    · cases h; exact List.mem_cons_self
    · next hq _ => cases h; exact List.mem_cons_of_mem _ (ih hq)

theorem runnable_of_longestWaiting {ps : List Path} {q : Path} (h : longestWaiting ps = some q) : q.wait = .runnable := by
  induction ps generalizing q with
  | nil => cases h
  | cons p ps ih =>
    rw [longestWaiting] at h
    split at h <;> split at h
    · next hp => cases h; exact of_decide_eq_true hp
    · cases h
    · next hp => cases h; exact of_decide_eq_true (Bool.and_eq_true_iff.1 hp).1
    · next hq _ => cases h; exact ih hq

/-! ## Branches of a whole path (R122) -/

/-- The running path `p` moved to `t`, with the rotation window `w`. -/
def moved (x : Drill) (p : Path) (t : BitVec 48) (w : Option Nat) : Drill := { x with cur := some { p with pc := t }, window := w }

/-- All that a branch of the whole path does after it has moved and arrived: it goes on, gives way by rotation, or lets a lower path run. -/
theorem jump_cases {x : Drill} {p : Path} (hc : x.cur = some p) (t : BitVec 48) :
    ∃ w b, x.jump t = { (moved x p t w).arrive with budget := b } ∨ x.jump t = { (moved x p t w).arrive with budget := b }.rotate ∨
      ∃ q, q.wait = .runnable ∧ x.jump t = (moved x p t w).arrive.run q none := by
  by_cases ht : t.toNat ≤ p.pc.toNat
  · have back : x.jump t = if (moved x p t none).arrive.budget ≤ 1 then { (moved x p t none).arrive with budget := 0 }.rotate
        else { (moved x p t none).arrive with budget := (moved x p t none).arrive.budget - 1 } := by
      unfold Drill.jump; rw [hc]; exact if_pos ht
    by_cases hb : (moved x p t none).arrive.budget ≤ 1
    · exact ⟨none, 0, .inr (.inl (back.trans (if_pos hb)))⟩
    · exact ⟨none, _, .inl (back.trans (if_neg hb))⟩
  · obtain ⟨w, forth⟩ : ∃ w, x.jump t = match lowestReady (moved x p t w).arrive.paths with
        | some q => if (moved x p t w).arrive.window.isNone && decide (q.pc.toNat < t.toNat) then (moved x p t w).arrive.run q none
          else (moved x p t w).arrive
        | none => (moved x p t w).arrive := by
      refine ⟨x.countWindow.window, ?_⟩; unfold Drill.jump; rw [hc]; exact if_neg ht
    refine ⟨w, (moved x p t w).arrive.budget, ?_⟩
    cases hq : lowestReady (moved x p t w).arrive.paths with
    | none => rw [hq] at forth; exact .inl forth
    | some q =>
      rw [hq] at forth
      dsimp only at forth
      split at forth
      · exact .inr (.inr ⟨q, runnable_of_lowestReady hq, forth⟩)
      · exact .inl forth

/-! ## Where threads stand (R119-R124) -/

/-- Threads `m` stand at `pc` in the running path or in another, whose wait satisfies `P`; so does the running path's. -/
structure Stands (P : Wait → Prop) (z : Drill) (m : DWord) (pc : BitVec 48) : Prop where
  runs : ∀ q, z.cur = some q → P q.wait
  somewhere : (∃ q, z.cur = some q ∧ q.pc = pc ∧ q.mask &&& m = m) ∨ Among P z.paths m pc

theorem Stands.at_ {z : Drill} {m : DWord} {pc : BitVec 48} (h : Stands (· = .runnable) z m pc) : At z m pc := by
  obtain ⟨q, hq, hpc, hm⟩ | ⟨q, hq, hpc, hw, hm⟩ := h.somewhere
  · exact ⟨q, .inl hq, hpc, h.runs q hq, hm⟩
  · exact ⟨q, .inr hq, hpc, hw, hm⟩

section
variable {P : Wait → Prop} {z : Drill} {m : DWord} {pc : BitVec 48}

theorem stands_shelve (h : Stands P z m pc) : z.shelve.cur = none ∧ Among P z.shelve.paths m pc := by
  unfold Drill.shelve
  split
  · next hc => exact ⟨hc, h.somewhere.resolve_left fun ⟨q, hq, _⟩ => by simp [hc] at hq⟩
  · next p hc =>
    refine ⟨rfl, ?_⟩
    obtain ⟨q, hq, hpc, hm⟩ | h' := h.somewhere
    · obtain rfl : p = q := Option.some.inj (hc ▸ hq)
      exact hpc ▸ among_addPath_self (p := { p with since := z.stamp }) (h.runs p hc) hm
    · exact among_addPath _ h'

theorem stands_run (hP : P .runnable) (h : Stands P z m pc) {q : Path} (hq : q.wait = .runnable) (w : Option Nat) : Stands P (z.run q w) m pc := by
  obtain ⟨-, r, hr, hpc, hw, hm⟩ := stands_shelve h
  refine ⟨fun c hc => ?_, ?_⟩
  · obtain rfl : ((z.shelve.paths.find? fun p => decide (p.pc = q.pc) && decide (p.wait = q.wait)).getD q) = c := Option.some.inj hc
    cases hf : z.shelve.paths.find? fun p => decide (p.pc = q.pc) && decide (p.wait = q.wait) with
    | none => exact hq ▸ hP
    | some p =>
      have found := List.find?_some hf
      simp only [Bool.and_eq_true, decide_eq_true_eq] at found
      exact (found.2.trans hq) ▸ hP
  · obtain found | left := find?_or_mem_removeFirst (fun p => decide (p.pc = q.pc) && decide (p.wait = q.wait)) hr
    · exact .inl ⟨r, by rw [Drill.run]; simp only [found]; rfl, hpc, hm⟩
    · exact .inr ⟨r, left, hpc, hw, hm⟩

theorem stands_runLowest (hP : P .runnable) (h : Stands P z m pc) : Stands P z.runLowest m pc := by
  obtain ⟨idle, among⟩ := stands_shelve h
  have shelved : Stands P z.shelve m pc := ⟨fun q hq => by simp [idle] at hq, .inr among⟩
  unfold Drill.runLowest
  dsimp only
  split
  · next q hq => exact stands_run hP shelved (runnable_of_lowestReady hq) none
  · exact shelved

theorem stands_rotate (hP : P .runnable) (h : Stands P z m pc) : Stands P z.rotate m pc := by
  unfold Drill.rotate
  split <;> split
  · next hq => exact stands_run hP h (runnable_of_longestWaiting hq) _
  · exact h
  · next hq => exact stands_run hP h (runnable_of_longestWaiting hq) _
  · exact ⟨h.runs, h.somewhere⟩

theorem stands_arrive (h : Stands P z m pc) : Stands P z.arrive m pc := by
  unfold Drill.arrive
  split
  · exact h
  · next p hc =>
    split
    · exact h
    · next q hf =>
      have here : q.pc = p.pc := by
        have found := List.find?_some hf
        simp only [Bool.and_eq_true, decide_eq_true_eq] at found
        exact found.2
      refine ⟨fun c hcur => ?_, ?_⟩
      · cases hcur; exact h.runs p hc
      · obtain ⟨c, hcur, hpc, hm⟩ | ⟨r, hr, hpc, hw, hm⟩ := h.somewhere
        · obtain rfl : p = c := Option.some.inj (hc ▸ hcur)
          exact .inl ⟨_, rfl, hpc, covers_trans (or_covers_left _ _) hm⟩
        · obtain found | left := find?_or_mem_removeFirst (fun r => r.ready && decide (r.pc = p.pc)) hr
          · obtain rfl : q = r := Option.some.inj (hf ▸ found)
            exact .inl ⟨_, rfl, here ▸ hpc, covers_trans (or_covers_right _ _) hm⟩
          · exact .inr ⟨r, left, hpc, hw, hm⟩

theorem stands_wake (hP : P .runnable) (h : Stands P z m pc) : Stands P z.wake m pc := by
  unfold Drill.wake
  split
  · exact stands_arrive h
  · exact stands_runLowest hP h

/-- A branch of the whole path leaves every other path's threads where they are. -/
theorem stands_jump (hP : P .runnable) {p : Path} (hc : z.cur = some p) (hp : P p.wait) {t : BitVec 48}
    (h : t = pc ∧ p.mask &&& m = m ∨ Among P z.paths m pc) : Stands P (z.jump t) m pc := by
  obtain ⟨w, b, jumped⟩ := jump_cases hc t
  have arrived : Stands P (moved z p t w).arrive m pc :=
    stands_arrive ⟨fun q hq => by cases hq; exact hp, h.imp_left fun ⟨hpc, hm⟩ => ⟨_, rfl, hpc, hm⟩⟩
  have budgeted : Stands P { (moved z p t w).arrive with budget := b } m pc := ⟨arrived.runs, arrived.somewhere⟩
  obtain h | h | ⟨q, hq, h⟩ := jumped <;> rw [h]
  · exact budgeted
  · exact stands_rotate hP budgeted
  · exact stands_run hP arrived hq none

end

/-- The path of a part of a path that splits. -/
def partPath (x : Drill) (e : DWord × BitVec 48) : Path := { mask := e.1, pc := e.2, wait := .runnable, since := x.stamp }

/-- The threads of a part stand at its PC after the running path has split. -/
theorem stands_split {x : Drill} {p : Path} (hc : x.cur = some p) (hp : p.wait = .runnable) {parts : List (DWord × BitVec 48)} {e : DWord × BitVec 48}
    (he : e ∈ parts) {m : DWord} (hm : e.1 &&& m = m) : Stands (· = .runnable) (x.split parts) m e.2 := by
  have among : Among (· = .runnable) ((parts.map (partPath x)).foldl (fun ps q => addPath q ps) x.paths) m e.2 :=
    among_foldl_addPath_of_mem id (List.mem_map_of_mem he) rfl hm
  have shelved (c : Option Path) (h : ∀ q, c = some q → q.wait = .runnable) : Stands (· = .runnable)
      { x with cur := c, paths := (parts.map (partPath x)).foldl (fun ps q => addPath q ps) x.paths, stamp := x.stamp + 1 } m e.2 :=
    ⟨h, .inr among⟩
  unfold Drill.split
  rw [hc]
  dsimp only
  split
  · split
    · next q hq r hr =>
      have found := List.find?_some hr
      simp only [Bool.and_eq_true] at found
      exact stands_run (P := (· = .runnable)) rfl (shelved none nofun) (of_decide_eq_true found.1) none
    · exact shelved (some p) fun q hq => Option.some.inj hq ▸ hp
  · exact shelved none nofun

/-! ## What path selection leaves of the drill -/

theorem jump_same (x : Drill) (t : BitVec 48) : x.SameRegs (x.jump t) := by
  cases hc : x.cur with
  | none => unfold Drill.jump; rw [hc]; exact .refl x
  | some p =>
    obtain ⟨w, b, jumped⟩ := jump_cases hc t
    have arrived : x.SameRegs (moved x p t w).arrive := Drill.SameRegs.trans (Drill.SameRegs.refl' _ rfl) (Drill.arrive_same _)
    have budgeted : x.SameRegs { (moved x p t w).arrive with budget := b } := arrived.trans (Drill.SameRegs.refl' _ rfl)
    obtain h | h | ⟨q, -, h⟩ := jumped <;> rw [h]
    · exact budgeted
    · exact budgeted.trans (Drill.rotate_same _)
    · exact arrived.trans (Drill.run_same _ _ _)

theorem split_same (x : Drill) (parts : List (DWord × BitVec 48)) : x.SameRegs (x.split parts) := by
  unfold Drill.split
  split
  · rfl
  · dsimp only
    split
    · split
      · exact Drill.SameRegs.trans (Drill.SameRegs.refl' _ rfl) (Drill.run_same _ _ _)
      · rfl
    · rfl

/-- The registers of a drill whose paths alone have changed. -/
theorem claimSameRegs {x z : Drill} (h : x.SameRegs z) : Claim.SameRegs x z := by rw [h]; exact ⟨rfl, rfl, rfl⟩

theorem status_of_same {x z : Drill} (h : x.SameRegs z) : z.status = x.status := by rw [h]
theorem mem_of_same {x z : Drill} (h : x.SameRegs z) : z.mem = x.mem := by rw [h]

/-- The running path keeps its PC when it takes in a path that has become ready. -/
theorem arrive_cur {x : Drill} {p : Path} (h : x.cur = some p) : ∃ q, x.arrive.cur = some q ∧ q.pc = p.pc := by
  unfold Drill.arrive
  split
  · exact ⟨p, h, rfl⟩
  · next c hc =>
    obtain rfl : p = c := Option.some.inj (h ▸ hc)
    split
    · exact ⟨p, h, rfl⟩
    · exact ⟨_, rfl, rfl⟩

theorem wake_cur {x : Drill} {p : Path} (h : x.cur = some p) : ∃ q, x.wake.cur = some q ∧ q.pc = p.pc := by
  unfold Drill.wake
  rw [h]
  exact arrive_cur h

/-- Selecting a path adds none to the others, where none runs. -/
theorem mem_of_mem_runLowest {x : Drill} (h : x.cur = none) {r : Path} (hr : r ∈ x.runLowest.paths) : r ∈ x.paths := by
  rw [Drill.runLowest, shelve_of_none h] at hr
  split at hr
  · rw [Drill.run, shelve_of_none h] at hr; exact mem_of_mem_removeFirst hr
  · exact hr

/-- The path that runs is one of them. -/
theorem cur_mem_of_runLowest {x : Drill} (h : x.cur = none) {q : Path} (hq : x.runLowest.cur = some q) : q ∈ x.paths := by
  rw [Drill.runLowest, shelve_of_none h] at hq
  split at hq
  · next r hr =>
    rw [Drill.run, shelve_of_none h] at hq
    obtain rfl := Option.some.inj hq
    cases hf : x.paths.find? fun p => decide (p.pc = r.pc) && decide (p.wait = r.wait) with
    | none => exact mem_of_lowestReady hr
    | some p => exact List.mem_of_find?_eq_some hf
  · rw [h] at hq; cases hq

theorem mem_of_mem_wake {x : Drill} {r : Path} (hr : r ∈ x.wake.paths) : r ∈ x.paths := by
  unfold Drill.wake at hr
  split at hr
  · unfold Drill.arrive at hr
    split at hr
    · exact hr
    · split at hr
      · exact hr
      · exact mem_of_mem_removeFirst hr
  · next h => exact mem_of_mem_runLowest h hr

/-! ## Making waiting paths ready (R125, R132, R137) -/

/-- The drill after those of its paths for which `hit` holds have become ready, if it is active. -/
def freed (x : Drill) (hit : Path → Bool) : Drill :=
  if decide (x.status = .active) && x.paths.any hit then
    let kept := x.paths.filter fun q => !hit q
    { x with paths := (x.paths.filter hit).foldl (fun (ps : List Path) (q : Path) => addPath { q with wait := .runnable } ps) kept }.wake
  else x

theorem release_eq (x : Drill) (p : Wait → Bool) : x.release p = freed x fun q => p q.wait := rfl
theorem unlock_eq (x : Drill) (p : Path → Bool) : x.unlock p = freed x fun q => q.wait.isLock && p q := rfl

theorem freed_same (x : Drill) (hit : Path → Bool) : x.SameRegs (freed x hit) := by
  unfold freed
  split
  · exact Drill.SameRegs.trans (Drill.SameRegs.refl' _ rfl) (Drill.wake_same _)
  · rfl

theorem freed_cur {x : Drill} {p : Path} (h : x.cur = some p) (hit : Path → Bool) : ∃ q, (freed x hit).cur = some q ∧ q.pc = p.pc := by
  unfold freed
  split
  · exact wake_cur h
  · exact ⟨p, h, rfl⟩

/-- Of an active drill no path that waits as `hit` says is left. -/
theorem not_hit_of_mem_freed {x : Drill} {hit : Path → Bool} (ha : x.status = .active) (hrun : ∀ r : Path, r.wait = .runnable → hit r = false)
    {r : Path} (hr : r ∈ (freed x hit).paths) : hit r = false := by
  have left : ∀ (woken kept : List Path), (∀ r ∈ kept, hit r = false) →
      ∀ r ∈ woken.foldl (fun ps q => addPath { q with wait := Wait.runnable } ps) kept, hit r = false := fun woken kept hk =>
    List.foldlRecOn woken _ (motive := fun ps => ∀ r ∈ ps, hit r = false) hk fun ps h q _ r hr =>
      (mem_addPath hr).elim (h r) fun h => hrun r h.2.1
  unfold freed at hr
  split at hr
  · exact left _ _ (fun r hr => by simpa using (List.mem_filter.1 hr).2) r (mem_of_mem_wake hr)
  · next h =>
    simp only [ha, decide_true, Bool.true_and, List.any_eq_true, not_exists, not_and] at h
    exact Bool.eq_false_iff.2 (h r hr)

/-- The threads of a path that has become ready stand at its PC. -/
theorem stands_freed {x : Drill} {hit : Path → Bool} (ha : x.status = .active) {q : Path} (hq : q ∈ x.paths) (hh : hit q = true) :
    Stands (fun _ => True) (freed x hit) q.mask q.pc := by
  have some_hit : (decide (x.status = .active) && x.paths.any hit) = true := by simp [ha]; exact ⟨q, hq, hh⟩
  rw [freed, if_pos some_hit]
  exact stands_wake trivial ⟨fun _ _ => trivial, .inr
    (among_foldl_addPath_of_mem (fun q => { q with wait := .runnable }) (List.mem_filter.2 ⟨hq, hh⟩) trivial BitVec.and_self)⟩

end Sys2Proof.DrillPaths
end

section
/-! SUPPORT. Instructions of a drill: the state after one that only changes its drill, after a trap, and the registers that writing several words
changes (R133-R136, R145, R146). -/

namespace Sys2Proof.DrillIssue

open Sys2Proof Sys2Proof.Machine Sys2Proof.Claim Sys2Proof.Tokens Sys2Proof.ArrayEnd Sys2Proof.DrillPaths

/-! ## Changes of one drill -/

theorem meter_drill? (s : State) (k i n : Nat) (d : DrillRef) : (s.meter k i n).drill? d = s.drill? d := by
  rw [State.drill?, meter_drills]; rfl

theorem drill?_setDrill_same (s : State) (d : DrillRef) (x : Drill) : (s.setDrill d x).drill? d = some x := by
  rw [State.drill?_setDrill, if_pos ⟨rfl, rfl⟩]

/-- The fields of a core but its drills. -/
theorem core_setDrill (s : State) (d : DrillRef) (x : Drill) :
    (s.setDrill d x).core d.slice = { s.core d.slice with drills := insert (s.core d.slice).drills (slotKey d) x } :=
  State.core_modCore _ _ _

theorem core_setDrill_other (s : State) (d : DrillRef) (x : Drill) {k : Nat} (h : k ≠ d.slice) : (s.setDrill d x).core k = s.core k :=
  State.core_modCore_other _ _ h

theorem setDrill_drillOnly (s : State) (d : DrillRef) (z : Drill) : DrillOnly s (s.setDrill d z) d := by
  refine ⟨rfl, fun k hk => core_setDrill_other _ _ _ hk, by rw [core_setDrill], fun e he hk => ?_, fun _ => rfl, fun _ => rfl, fun k a => ?_⟩
  · rw [State.drill?_setDrill, if_neg fun h => hk h.2]
  · by_cases hk : k = d.slice
    · rw [hk, core_setDrill]
    · rw [core_setDrill_other _ _ _ hk]

theorem drillOnly_trans {s t u : State} {d : DrillRef} (h : DrillOnly s t d) (k : DrillOnly t u d) : DrillOnly s u d := by
  obtain ⟨state, cores, core, drills, dram, host, seedbed⟩ := h
  obtain ⟨state', cores', core', drills', dram', host', seedbed'⟩ := k
  refine ⟨?_, fun k hk => (cores' k hk).trans (cores k hk), ?_, fun e he hk => (drills' e he hk).trans (drills e he hk),
    fun a => (dram' a).trans (dram a), fun a => (host' a).trans (host a), fun k a => (seedbed' k a).trans (seedbed k a)⟩
  · rw [state', state]
  · rw [core', core]

section
variable {s : State} {d : DrillRef} {f : Fetched} {cls op : Nat} {x : Drill} {p : Path} {act : DWord} {coll : Bool}
  {body : Drill → Path → DWord → Option State} (h : Ready s d f cls op x p act) (hcoll : coll = true → act = x.live)
include h hcoll

/-- An instruction that is not held takes the effect of its body, metered. -/
theorem exec_of_body {i : Instr} {t : State} (he : Machine.exec i s = .next (s.issue d f cls op coll body)) (hb : body x p act = some t) :
    Machine.exec i s = .next (t.meter d.slice 2 1) := by
  rw [he, State.issue_ready h, if_neg fun hn => hn.2 (hcoll hn.1), hb]

/-- An instruction that is held changes nothing. -/
theorem exec_of_held {i : Instr} (he : Machine.exec i s = .next (s.issue d f cls op coll body)) (hb : body x p act = none) :
    Machine.exec i s = .next s := by
  rw [he, State.issue_ready h, if_neg fun hn => hn.2 (hcoll hn.1), hb]

/-- An instruction that only changes its drill. -/
theorem drill_effect_of_body {i : Instr} {z : Drill} (he : Machine.exec i s = .next (s.issue d f cls op coll body))
    (hb : body x p act = some (s.setDrill d z)) : ∃ t, Machine.exec i s = .next t ∧ t.drill? d = some z ∧ DrillOnly s t d :=
  ⟨_, exec_of_body h hcoll he hb, drillOnly_setDrill s d z 2 1⟩

end

/-- The threads that a path's guard leaves active are threads of the path (R148). -/
theorem activeMask_covered (x : Drill) (w m : DWord) : m &&& activeMask x w m = activeMask x w m := by
  unfold activeMask
  dsimp only
  split
  · rw [← BitVec.and_assoc, BitVec.and_self]
  · exact BitVec.and_self

/-! ## Traps (R133-R136) -/

/-- What the core records of a trap at the running path `p`. -/
def trapRec (p : Path) (tr : Trap) (mask detail word : DWord) : TrapRec :=
  { trap := tr, pc := p.pc, faultMask := mask, pathMask := p.mask, instr := word, detail := detail }

/-- A record enters the die's queue of 256, or waits behind those that wait (R136). -/
theorem pushRecord_die (s : State) (d : DrillRef) (x : Drill) (r : TrapRec) : (s.pushRecord d x r).die (dieOf d.slice) =
    if (s.die (dieOf d.slice)).faults.length < 256 ∧ (s.die (dieOf d.slice)).faultWait = [] then
      { s.die (dieOf d.slice) with faults := (s.die (dieOf d.slice)).faults ++ [{ w := faultWords d x r s.time.now, slice := d.slice }] }
    else { s.die (dieOf d.slice) with faultWait := (s.die (dieOf d.slice)).faultWait ++ [{ w := faultWords d x r s.time.now, slice := d.slice }] } := by
  rw [State.pushRecord, State.die_modDie]
  simp only [List.isEmpty_iff]

/-- The drill as a trap leaves it. -/
def parkedDrill (x : Drill) (r : TrapRec) : Drill := { x with status := .parked r, mem := none }

section
variable {s : State} {d : DrillRef} {x : Drill} {p : Path} (hx : s.drill? d = some x) (hc : x.cur = some p) (tr : Trap) (mask detail word : DWord)
include hx hc

theorem park_eq : s.park d tr mask detail word =
    (s.setDrill d (parkedDrill x (trapRec p tr mask detail word))).pushRecord d x (trapRec p tr mask detail word) := by
  rw [State.park, hx]
  simp only [hc, parkedDrill, trapRec]

/-- A state whose drills, memory and dies are those after the trap shows what a trap leaves. -/
theorem parks_of_park {i : Instr} {t : State} (he : Machine.exec i s = .next t) (hd : t.drill? d = (s.park d tr mask detail word).drill? d)
    (hm : t.mem = (s.park d tr mask detail word).mem) (hdies : t.dies = (s.park d tr mask detail word).dies) :
    Parks i s d x p tr mask detail word := by
  rw [park_eq hx hc] at hd hm hdies
  refine ⟨t, _, trapRec p tr mask detail word, he, hd.trans (drill?_setDrill_same _ _ _), ⟨rfl, rfl, rfl⟩, hc, rfl, rfl, rfl, hm, ?_⟩
  have queued := pushRecord_die (s.setDrill d (parkedDrill x (trapRec p tr mask detail word))) d x (trapRec p tr mask detail word)
  have same : (s.setDrill d (parkedDrill x (trapRec p tr mask detail word))).die (dieOf d.slice) = s.die (dieOf d.slice) := rfl
  rw [same] at queued
  dsimp only
  rw [State.die_congr hdies, queued]
  split
  · rfl
  · exact ⟨rfl, rfl⟩

/-- The barriers, the queue and all else of the core but its drills is as before. -/
theorem park_core : (s.park d tr mask detail word).core d.slice =
    (s.setDrill d (parkedDrill x (trapRec p tr mask detail word))).core d.slice := by
  rw [park_eq hx hc]; rfl

end

/-- An instruction whose body traps. -/
theorem parks_of_body {i : Instr} {s : State} {d : DrillRef} {f : Fetched} {cls op : Nat} {x : Drill} {p : Path} {act : DWord} {coll : Bool}
    {body : Drill → Path → DWord → Option State} {tr : Trap} {mask detail word : DWord} (h : Ready s d f cls op x p act)
    (hcoll : coll = true → act = x.live) (he : Machine.exec i s = .next (s.issue d f cls op coll body))
    (hb : body x p act = some (s.park d tr mask detail word)) : Parks i s d x p tr mask detail word :=
  parks_of_park h.1 h.2.1 tr mask detail word (exec_of_body h hcoll he hb) (meter_drill? _ _ _ _ _) (State.meter_mem _ _ _ _)
    (State.meter_dies _ _ _ _)

/-! ## Translation (R390, R394) -/

/-- Translation reads the compositions alone. -/
theorem sharedPlace_congr {s t : State} (h : t.yoke = s.yoke) (n c b : Nat) : t.sharedPlace n c b = s.sharedPlace n c b := by
  induction n generalizing c b with
  | zero => rfl
  | succ n ih =>
    rw [State.sharedPlace, State.sharedPlace, State.comp?_congr h]
    simp only [ih]

theorem translate_congr {s t : State} (h : t.yoke = s.yoke) (c : Nat) (e : Byte) (a : Nat) : t.translate c e a = s.translate c e a := by
  simp only [State.translate, State.comp?_congr h, sharedPlace_congr h]

/-! ## Several words of a destination (R145, R146) -/

/-- Word `j` of a number. -/
abbrev wordAt (v j : Nat) : Word := BitVec.ofNat 32 (v / 2 ^ (32 * j))

theorem wordAt_succ (v j : Nat) : wordAt (v / 2 ^ 32) j = wordAt v (j + 1) := by
  rw [wordAt, Nat.div_div_eq_div_mul, ← Nat.pow_add, Nat.add_comm, ← Nat.mul_succ]

theorem wrN_regs (u : Bool) (n : Nat) (x : Drill) (t i v : Nat) : x.wrN u t i n v = { x with g := (x.wrN u t i n v).g, u := (x.wrN u t i n v).u } := by
  induction n generalizing x i v with
  | zero => rfl
  | succ n ih =>
    rw [Drill.wrN, ih]
    have wrote := x.wr_regs u t i (BitVec.ofNat 32 v)
    rw [wrote]

/-- General registers after a write of `n` words. -/
theorem greg_wrN (n : Nat) (x : Drill) {t i v k r : Nat} (hi : i + n ≤ 64) (hr : r < 64) :
    (x.wrN false t i n v).greg k r = if k = t ∧ i ≤ r ∧ r < i + n then wordAt v (r - i) else x.greg k r := by
  induction n generalizing x i v with
  | zero => rw [if_neg (by omega)]; rfl
  | succ n ih =>
    rw [Drill.wrN, ih _ (by omega)]
    have first : (x.wr false t i (BitVec.ofNat 32 v)).greg k r = if k = t ∧ r = i then BitVec.ofNat 32 v else x.greg k r :=
      x.greg_setG t i k r _ (by omega) hr
    by_cases later : k = t ∧ i + 1 ≤ r ∧ r < i + 1 + n
    · rw [if_pos later, if_pos (by omega), wordAt_succ, show r - i = r - (i + 1) + 1 by omega]
    · rw [if_neg later, first]
      by_cases here : k = t ∧ r = i
      · rw [if_pos here, if_pos (by omega), here.2, Nat.sub_self, wordAt, Nat.mul_zero, Nat.pow_zero, Nat.div_one]
      · rw [if_neg here, if_neg (by omega)]

/-- Drill-uniform registers after a write of `n` words. -/
theorem ureg_wrN (n : Nat) (x : Drill) {t i v r : Nat} :
    (x.wrN true t i n v).ureg r = if i ≤ r ∧ r < i + n then wordAt v (r - i) else x.ureg r := by
  induction n generalizing x i v with
  | zero => rw [if_neg (by omega)]; rfl
  | succ n ih =>
    rw [Drill.wrN, ih]
    have first : (x.wr true t i (BitVec.ofNat 32 v)).ureg r = if r = i then BitVec.ofNat 32 v else x.ureg r := x.ureg_setU i r _
    by_cases later : i + 1 ≤ r ∧ r < i + 1 + n
    · rw [if_pos later, if_pos (by omega), wordAt_succ, show r - i = r - (i + 1) + 1 by omega]
    · rw [if_neg later, first]
      by_cases here : r = i
      · rw [if_pos here, if_pos (by omega), here, Nat.sub_self, wordAt, Nat.mul_zero, Nat.pow_zero, Nat.div_one]
      · rw [if_neg here, if_neg (by omega)]

theorem ureg_wrN_false (n : Nat) (x : Drill) (t i v r : Nat) : (x.wrN false t i n v).ureg r = x.ureg r := by
  induction n generalizing x i v with
  | zero => rfl
  | succ n ih => rw [Drill.wrN, ih]; rfl

theorem greg_wrN_true (n : Nat) (x : Drill) (t i v k r : Nat) : (x.wrN true t i n v).greg k r = x.greg k r := by
  induction n generalizing x i v with
  | zero => rfl
  | succ n ih => rw [Drill.wrN, ih]; rfl

/-- The drill after each thread of a list has written its `n` words. -/
def writeWords (u : Bool) (i n : Nat) (v : Nat → Nat) (ts : List Nat) (x : Drill) : Drill := ts.foldl (fun y t => y.wrN u t i n (v t)) x

theorem writeWords_regs (u : Bool) (i n : Nat) (v : Nat → Nat) (ts : List Nat) (x : Drill) :
    writeWords u i n v ts x = { x with g := (writeWords u i n v ts x).g, u := (writeWords u i n v ts x).u } := by
  refine List.foldlRecOn ts _ (motive := fun y : Drill => y = { x with g := y.g, u := y.u }) rfl fun y hy t _ => ?_
  rw [wrN_regs, hy]

theorem greg_writeWords {i n : Nat} (v : Nat → Nat) (ts : List Nat) (x : Drill) {k r : Nat} (hi : i + n ≤ 64) (hr : r < 64) :
    (writeWords false i n v ts x).greg k r = if k ∈ ts ∧ i ≤ r ∧ r < i + n then wordAt (v k) (r - i) else x.greg k r := by
  induction ts generalizing x with
  | nil => simp [writeWords]
  | cons t ts ih =>
    change (writeWords false i n v ts (x.wrN false t i n (v t))).greg k r = _
    rw [ih, greg_wrN n x hi hr]
    by_cases hin : i ≤ r ∧ r < i + n <;> by_cases hk : k ∈ ts <;> by_cases ht : k = t <;> simp_all

theorem ureg_writeWords_false (i n : Nat) (v : Nat → Nat) (ts : List Nat) (x : Drill) (r : Nat) :
    (writeWords false i n v ts x).ureg r = x.ureg r :=
  List.foldlRecOn ts _ (motive := fun y => y.ureg r = x.ureg r) rfl fun y hy t _ => (ureg_wrN_false n y t i (v t) r).trans hy

/-- All that writing `n` words in every executing thread does, in whichever order (R146). -/
theorem writeWords_wrote_of_mem (x : Drill) (w act : DWord) {n : Nat} (hd : iDst w + n ≤ 64) (v : Nat → Nat) {ts : List Nat}
    (hone : iDU w = true → ts = [0]) (hts : ∀ k, k ∈ ts ↔ k ∈ execThreads w act) :
    Wrote w act n x (writeWords (iDU w) (iDst w) n v ts x) fun k j => wordAt (v k) j := by
  have preds : ∀ r, (writeWords (iDU w) (iDst w) n v ts x).preg r = x.preg r := fun r => by rw [writeWords_regs]; rfl
  cases hu : iDU w with
  | true =>
    have once : writeWords true (iDst w) n v ts x = x.wrN true 0 (iDst w) n (v 0) := by rw [hone hu]; rfl
    rw [hu] at preds
    refine ⟨fun k hk j hj => ?_, fun k r _ _ => ?_, fun r hr => ?_, preds⟩
    · have hk0 : k = 0 := by rw [execThreads, hu] at hk; simpa using hk
      rw [once, hu, Drill.rd, if_pos rfl, ureg_wrN, if_pos (by omega), hk0, Nat.add_sub_cancel_left]
    · rw [once, greg_wrN_true]
    · rw [once, ureg_wrN, if_neg]
      obtain h | h := hr
      · rw [hu] at h; cases h
      · omega
  | false =>
    have each : execThreads w act = threads act := by rw [execThreads, hu]; rfl
    rw [hu] at preds
    refine ⟨fun k hk j hj => ?_, fun k r hr h => ?_, fun r _ => ureg_writeWords_false _ _ _ _ _ r, preds⟩
    · rw [hu, Drill.rd, if_neg Bool.false_ne_true, greg_writeWords v _ x hd (by omega), if_pos ⟨(hts k).2 hk, by omega, by omega⟩, Nat.add_sub_cancel_left]
    · rw [greg_writeWords v _ x hd hr, if_neg]
      rintro ⟨hk, hlo, hhi⟩
      rw [hu] at h
      obtain h | h | h | h := h
      · cases h
      · exact h (each ▸ (hts k).1 hk)
      · omega
      · omega

theorem writeWords_wrote (x : Drill) (w act : DWord) {n : Nat} (hd : iDst w + n ≤ 64) (v : Nat → Nat) :
    Wrote w act n x (writeWords (iDU w) (iDst w) n v (execThreads w act) x) fun k j => wordAt (v k) j :=
  writeWords_wrote_of_mem x w act hd v (fun hu => by rw [execThreads, hu]; rfl) fun _ => Iff.rfl

theorem getD_of_mem_nodup {l : List (Nat × Nat)} (hl : (l.map (·.1)).Nodup) {e : Nat × Nat} (he : e ∈ l) : getD 0 l e.1 = e.2 := by
  induction l with
  | nil => cases he
  | cons b l ih =>
    rw [List.map_cons, List.nodup_cons] at hl
    obtain rfl | he := List.mem_cons.1 he
    · simp [getD, find?]
    · have other : b.1 ≠ e.1 := fun h => hl.1 (h ▸ List.mem_map_of_mem he)
      rw [getD, find?, if_neg other]
      exact ih hl.2 he

/-- Path selection leaves the results. -/
theorem wrote_of_same {w act : DWord} {n : Nat} {x y z : Drill} {v : Nat → Nat → Word} (h : Wrote w act n x y v) (same : y.SameRegs z) :
    Wrote w act n x z v := by
  rw [same]; exact h

/-- Results by thread, each thread once, are written as a function of the thread. -/
theorem foldl_wrN_pairs (u : Bool) (i n : Nat) (l : List (Nat × Nat)) (hl : (l.map (·.1)).Nodup) (x : Drill) :
    l.foldl (fun y e => y.wrN u e.1 i n e.2) x = writeWords u i n (getD 0 l) (l.map (·.1)) x := by
  rw [writeWords, List.foldl_map]
  refine List.foldl_ext _ _ _ fun y e he => ?_
  rw [getD_of_mem_nodup hl he]

theorem extractLsb'_word (v : DWord) (j : Nat) : v.extractLsb' (32 * j) 32 = wordAt v.toNat j := by
  rw [wordAt, BitVec.extractLsb', Nat.shiftRight_eq_div_pow]

/-- A pair of registers. -/
theorem writePair_eq (x : Drill) (w act : DWord) (v : Nat → DWord) :
    x.writePair w act v = writeWords (iDU w) (iDst w) 2 (fun t => (v t).toNat) (execThreads w act) x := rfl

/-- All that writing a pair in every executing thread does (R145). -/
theorem writePair_wrote (x : Drill) (w act : DWord) (hd : iDst w + 2 ≤ 64) (v : Nat → DWord) :
    Wrote w act 2 x (x.writePair w act v) (fun k j => (v k).extractLsb' (32 * j) 32) ∧
      x.writePair w act v = { x with g := (x.writePair w act v).g, u := (x.writePair w act v).u } := by
  simp only [extractLsb'_word]
  exact ⟨writeWords_wrote x w act hd fun k => (v k).toNat, writeWords_regs _ _ _ _ _ _⟩

/-- A register operand of `n` words, `n` dividing 64, ends within the registers. -/
theorem iDst_add_le {w : DWord} {sp : OpSpec} {n : Nat} (hl : legalWord w = true) (hs : opSpec w = some sp) (hd : sp.dst = .reg n ∨ sp.dst = .data n)
    (hn : n ∣ 64) : iDst w + n ≤ 64 := by
  have aligned : n ∣ iDst w := by
    simp only [legalWord, hs, Bool.and_eq_true] at hl
    obtain hd | hd := hd <;> simp only [hd, opdOk, Bool.and_eq_true, decide_eq_true_eq] at hl <;> exact Nat.dvd_of_mod_eq_zero (by tauto)
  obtain ⟨a, ha⟩ := aligned
  obtain ⟨b, hb⟩ := hn
  have hlt := iDst_lt w
  rw [ha, hb] at hlt
  have := Nat.lt_of_mul_lt_mul_left hlt
  rw [ha, ← Nat.mul_succ, hb]
  exact Nat.mul_le_mul_left n this

end Sys2Proof.DrillIssue
end

section
/-! SUPPORT. The control class (O11): where branches take a path's threads, how EXIT ends them, and the special values (R121, R144, R149, R162). -/

namespace Sys2Proof.Control

open Sys2Proof Sys2Proof.Machine Sys2Proof.Claim Sys2Proof.Tokens Sys2Proof.DrillPaths Sys2Proof.DrillIssue

/-! ## The parts of a path by next PC (R122) -/

/-- One thread joins the parts. -/
def partStep (ps : List (DWord × BitVec 48)) (e : Nat × BitVec 48) : List (DWord × BitVec 48) :=
  if ps.any fun p => decide (p.2 = e.2) then ps.map fun p => if p.2 = e.2 then (p.1 ||| BitVec.ofNat 64 (2 ^ e.1), p.2) else p
  else ps ++ [(BitVec.ofNat 64 (2 ^ e.1), e.2)]

theorem partsOf_eq (es : List (Nat × BitVec 48)) : partsOf es = es.foldl partStep [] := rfl

/-- The parts hold thread `e.1`, whose next PC is `e.2`: some part has this PC, and every part that has it has the thread. -/
def HasThread (ps : List (DWord × BitVec 48)) (e : Nat × BitVec 48) : Prop :=
  (∃ q ∈ ps, q.2 = e.2) ∧ ∀ q ∈ ps, q.2 = e.2 → bit q.1 e.1 = true

theorem any_pc_iff {ps : List (DWord × BitVec 48)} {pc : BitVec 48} : (ps.any fun p => decide (p.2 = pc)) = true ↔ ∃ q ∈ ps, q.2 = pc := by simp

theorem hasThread_partStep_self (ps : List (DWord × BitVec 48)) {e : Nat × BitVec 48} (he : e.1 < 64) : HasThread (partStep ps e) e := by
  unfold partStep
  split
  · next h =>
    obtain ⟨q, hq, hpc⟩ := any_pc_iff.1 h
    refine ⟨⟨_, List.mem_map_of_mem hq, by rw [if_pos hpc]; exact hpc⟩, fun r hr hrpc => ?_⟩
    obtain ⟨q, hq, rfl⟩ := List.mem_map.1 hr
    by_cases hqpc : q.2 = e.2
    · rw [if_pos hqpc, bit_or, bit_thread he]; simp
    · rw [if_neg hqpc] at hrpc; exact absurd hrpc hqpc
  · next h =>
    refine ⟨⟨_, List.mem_append_right _ (List.mem_singleton_self _), rfl⟩, fun q hq hpc => ?_⟩
    obtain hq | hq := List.mem_append.1 hq
    · exact absurd (any_pc_iff.2 ⟨q, hq, hpc⟩) h
    · rw [List.mem_singleton.1 hq, bit_thread he]; simp

theorem hasThread_partStep {ps : List (DWord × BitVec 48)} {e : Nat × BitVec 48} (f : Nat × BitVec 48) (h : HasThread ps e) :
    HasThread (partStep ps f) e := by
  obtain ⟨⟨q, hq, hpc⟩, all⟩ := h
  unfold partStep
  split
  · refine ⟨⟨_, List.mem_map_of_mem hq, by split <;> exact hpc⟩, fun r hr hrpc => ?_⟩
    obtain ⟨q, hq, rfl⟩ := List.mem_map.1 hr
    split at hrpc
    · next hf => rw [if_pos hf, bit_or, all q hq hrpc, Bool.true_or]
    · next hf => rw [if_neg hf]; exact all q hq hrpc
  · next none =>
    refine ⟨⟨q, List.mem_append_left _ hq, hpc⟩, fun r hr hrpc => ?_⟩
    obtain hr | hr := List.mem_append.1 hr
    · exact all r hr hrpc
    · rw [List.mem_singleton.1 hr] at hrpc
      exact absurd (any_pc_iff.2 ⟨q, hq, hpc.trans hrpc.symm⟩) none

theorem hasThread_partsOf {es : List (Nat × BitVec 48)} (hes : ∀ e ∈ es, e.1 < 64) {e : Nat × BitVec 48} (he : e ∈ es) : HasThread (partsOf es) e := by
  have fold (l : List (Nat × BitVec 48)) (hl : ∀ e ∈ l, e.1 < 64) (ps : List (DWord × BitVec 48)) (h : e ∈ l ∨ HasThread ps e) :
      HasThread (l.foldl partStep ps) e := by
    induction l generalizing ps with
    | nil => exact h.resolve_left List.not_mem_nil
    | cons f l ih =>
      refine ih (fun e he => hl e (List.mem_cons_of_mem _ he)) _ ?_
      obtain h | h := h
      · obtain rfl | h := List.mem_cons.1 h
        · exact .inr (hasThread_partStep_self ps (hl _ List.mem_cons_self))
        · exact .inl h
      · exact .inr (hasThread_partStep f h)
  exact fold es hes [] (.inl he)

/-- Threads that all go on at one PC are in one part. -/
theorem exists_part {es : List (Nat × BitVec 48)} (hes : ∀ e ∈ es, e.1 < 64) {m : DWord} {pc : BitVec 48} (hm : m ≠ 0)
    (h : ∀ k, k < 64 → bit m k = true → (k, pc) ∈ es) : ∃ q ∈ partsOf es, q.2 = pc ∧ q.1 &&& m = m := by
  obtain ⟨k, hk, hb⟩ := exists_bit hm
  obtain ⟨⟨q, hq, hpc⟩, -⟩ := hasThread_partsOf hes (h k hk hb)
  exact ⟨q, hq, hpc, covers_of_bits fun j hj hbj => (hasThread_partsOf hes (h j hj hbj)).2 q hq hpc⟩

/-! ## Branches (R122, R144, R149, R162) -/

/-- Where thread `k` of the path goes. -/
def nextPc (p : Path) (act : DWord) (target : Nat → BitVec 48) (k : Nat) : BitVec 48 := if bit act k then target k else p.pc + 8

/-- The parts of the path by next PC. -/
def nextParts (p : Path) (act : DWord) (target : Nat → BitVec 48) : List (DWord × BitVec 48) :=
  partsOf ((threads p.mask).map fun t => (t, nextPc p act target t))

theorem targetTrap_of_good {s : State} {x : Drill} {t : BitVec 48} (h : GoodTarget s x t) : s.targetTrap x t = none := by
  obtain ⟨aligned, code⟩ := h
  rw [State.targetTrap, if_neg (not_not_intro aligned)]
  cases hy : s.translate x.comp x.epoch t.toNat with
  | none => rw [hy] at code; cases code
  | some y => rw [hy] at code; exact if_pos (Option.some.inj code)

/-- Whether a target traps depends on the drill's composition and epoch, not on the drill's registers. -/
theorem targetTrap_setDrill (s : State) (d : DrillRef) {x y : Drill} (hc : y.comp = x.comp) (he : y.epoch = x.epoch) (t : BitVec 48) :
    (s.setDrill d y).targetTrap y t = s.targetTrap x t := by
  rw [State.targetTrap, State.targetTrap, hc, he, translate_congr (s := s) (t := s.setDrill d y) rfl]

/-- A branch that traps in no thread takes the path as a whole where it has one next PC, and splits it where it has several. -/
theorem branch_cases {s : State} {x : Drill} {act : DWord} {target : Nat → BitVec 48} (ht : ∀ k ∈ threads act, s.targetTrap x (target k) = none)
    (d : DrillRef) (p : Path) (w : DWord) {parts : List (DWord × BitVec 48)}
    (hparts : nextParts p act target = parts) :
    (∃ a t, parts = [(a, t)] ∧ s.branch d x p act w target = s.setDrill d (x.jump t)) ∨
      s.branch d x p act w target = s.setDrill d (x.split parts) := by
  have fine : ((threads act).filterMap fun t => (s.targetTrap x (target t)).map fun k => (t, (target t).setWidth 64, k)) = [] :=
    List.filterMap_eq_nil_iff.2 fun k hk => by rw [ht k hk]; rfl
  have byPc : partsOf ((threads p.mask).map fun t => (t, if bit act t then target t else p.pc + 8)) = parts := hparts
  rw [State.branch, fine]
  simp only [pickTrap, lowestTrap, byPc]
  match parts with
  | [(a, t)] => exact .inl ⟨a, t, rfl, rfl⟩
  | [] => exact .inr rfl
  | _ :: _ :: _ => exact .inr rfl

/-- A branch whose targets are good changes its drill alone, and its paths alone: every thread stands at its next PC. -/
theorem branch_effect {s : State} {d : DrillRef} {x : Drill} {p : Path} {act : DWord} {target : Nat → BitVec 48} (w : DWord) (hc : x.cur = some p)
    (hp : p.wait = .runnable) (ht : ∀ k ∈ threads act, s.targetTrap x (target k) = none) :
    ∃ z, s.branch d x p act w target = s.setDrill d z ∧ x.SameRegs z ∧ ∀ m pc, m ≠ 0 → p.mask &&& m = m →
      (∀ k, k < 64 → bit m k = true → nextPc p act target k = pc) → At z m pc := by
  have inPart (m : DWord) (pc : BitVec 48) (hm : m ≠ 0) (hsub : p.mask &&& m = m)
      (hn : ∀ k, k < 64 → bit m k = true → nextPc p act target k = pc) :
      ∃ q ∈ nextParts p act target, q.2 = pc ∧ q.1 &&& m = m := by
    refine exists_part (fun e he => ?_) hm fun k hk hb => List.mem_map.2 ⟨k, mem_threads.2 ⟨hk, bit_of_covers hsub hb⟩, by rw [hn k hk hb]⟩
    obtain ⟨t, ht, rfl⟩ := List.mem_map.1 he
    exact (mem_threads.1 ht).1
  obtain ⟨a, t, hparts, branched⟩ | branched := branch_cases ht d p w rfl
  · refine ⟨_, branched, jump_same x t, fun m pc hm hsub hn => ?_⟩
    obtain ⟨q, hq, hpc, -⟩ := inPart m pc hm hsub hn
    rw [hparts] at hq
    rw [List.mem_singleton.1 hq] at hpc
    exact (stands_jump (P := (· = .runnable)) rfl hc hp (.inl ⟨hpc, hsub⟩)).at_
  · refine ⟨_, branched, split_same x _, fun m pc hm hsub hn => ?_⟩
    obtain ⟨q, hq, rfl, hcov⟩ := inPart m pc hm hsub hn
    exact (stands_split hc hp hq hcov).at_

/-- The active threads of one target stand there, the others at the next word. -/
theorem at_of_branch {z : Drill} {p : Path} {act : DWord} {target : Nat → BitVec 48} (hact : act ≠ 0) (hsub : p.mask &&& act = act)
    (h : ∀ m pc, m ≠ 0 → p.mask &&& m = m → (∀ k, k < 64 → bit m k = true → nextPc p act target k = pc) → At z m pc) :
    (∀ t, (∀ k, target k = t) → At z act t) ∧ (∀ k ∈ threads act, At z (BitVec.ofNat 64 (2 ^ k)) (target k)) ∧
      (p.mask &&& ~~~ act ≠ 0 → At z (p.mask &&& ~~~ act) (p.pc + 8)) := by
  refine ⟨fun t ht => h act t hact hsub fun k _ hb => (if_pos hb).trans (ht k), fun k hk => ?_, fun rest => ?_⟩
  · obtain ⟨hk, hb⟩ := mem_threads.1 hk
    refine h _ _ (thread_ne_zero hk) (covers_of_bits fun j _ hj => ?_) fun j _ hj => ?_
    all_goals
      rw [bit_thread hk] at hj
      obtain rfl := of_decide_eq_true hj
    · exact bit_of_covers hsub hb
    · exact if_pos hb
  · refine h _ _ rest (by rw [← BitVec.and_assoc, BitVec.and_self]) fun k hk hb => if_neg ?_
    rw [bit, BitVec.getLsbD_and, BitVec.getLsbD_not] at hb
    simp only [hk, decide_true, Bool.true_and, Bool.and_eq_true, Bool.not_eq_true'] at hb
    exact Bool.eq_false_iff.1 hb.2

theorem relTarget_eq (pc : BitVec 48) (w : DWord) : relTarget pc w = pc + 8 * (w.extractLsb' 0 24 : BitVec 24).signExtend 48 := by
  have imm : BitVec.ofNat 24 (iImm w) = w.extractLsb' 0 24 := BitVec.eq_of_toNat_eq (by simp [iImm, bits])
  rw [relTarget, imm]

/-- The row of CALL. -/
theorem opSpec_call {w : DWord} (hc : iCls w = 0xC) (ho : iOp w = 0x02) :
    opSpec w = some (mkSpec false true (.reg 2) .unused .unused .unused (decide (iMod w = 0))) := by
  unfold opSpec; rw [hc, ho]; rfl

section
variable (d : DrillRef) (f : Fetched) (s : State)

theorem exec_bra : Machine.exec (.bra d f) s =
    .next (s.issue d f 0xC 0x00 false fun x p act => some (s.branch d x p act f.word fun _ => relTarget p.pc f.word)) := rfl

theorem exec_brind : Machine.exec (.brind d f) s = .next (s.issue d f 0xC 0x01 false fun x p act =>
    some (s.branch d x p act f.word fun t => (x.rdPair (iAU f.word) t (iA f.word)).setWidth 48)) := rfl

/-- CALL after its trap check: the link first, then the branch. -/
def callBody (x : Drill) (p : Path) (act : DWord) : Option State :=
  match s.targetTrap x (relTarget p.pc f.word) with
  | some k => some (s.park d k act ((relTarget p.pc f.word).setWidth 64) f.word)
  | none => some ((s.setDrill d (x.writePair f.word act fun _ => (p.pc + 8).setWidth 64)).branch d
      (x.writePair f.word act fun _ => (p.pc + 8).setWidth 64) p act f.word fun _ => relTarget p.pc f.word)

theorem exec_call : Machine.exec (.call d f) s = .next (s.issue d f 0xC 0x02 false (callBody d f s)) := rfl

end

theorem branchesMoveTheActiveThreads : Claim.BranchesMoveTheActiveThreads := by
  refine ⟨?bra, ?brind, ?call⟩
  case bra =>
    intro s d f x p act h hp target good
    obtain ⟨-, hcur, -, -, -, -, -, -, hmask, hact, -⟩ := id h
    have hsub := hmask ▸ activeMask_covered x f.word p.mask
    obtain ⟨z, hz, same, stands⟩ := branch_effect (s := s) (d := d) (act := act) (target := fun _ => relTarget p.pc f.word) f.word hcur hp
      fun k _ => targetTrap_of_good (relTarget_eq p.pc f.word ▸ good)
    obtain ⟨t, he, drill, only⟩ := drill_effect_of_body (coll := false) h nofun (exec_bra d f s) (congrArg some hz)
    obtain ⟨taken, -, rest⟩ := at_of_branch hact hsub stands
    exact ⟨t, z, he, drill, only, claimSameRegs same, taken _ fun _ => relTarget_eq _ _, rest⟩
  case brind =>
    intro s d f x p act h hp target good
    obtain ⟨-, hcur, -, -, -, -, -, -, hmask, hact, -⟩ := id h
    have hsub := hmask ▸ activeMask_covered x f.word p.mask
    obtain ⟨z, hz, same, stands⟩ := branch_effect (s := s) (d := d) (act := act) (target := target) f.word hcur hp
      fun k hk => targetTrap_of_good (good k hk)
    obtain ⟨t, he, drill, only⟩ := drill_effect_of_body (coll := false) h nofun (exec_brind d f s) (congrArg some hz)
    obtain ⟨-, taken, rest⟩ := at_of_branch hact hsub stands
    exact ⟨t, z, he, drill, only, claimSameRegs same, taken, rest⟩
  case call =>
    intro s d f x p act h hp target good
    obtain ⟨-, hcur, -, -, -, -, hcls, hop, hmask, hact, hlegal, -⟩ := id h
    have hsub := hmask ▸ activeMask_covered x f.word p.mask
    have fine : s.targetTrap x (relTarget p.pc f.word) = none := by rw [relTarget_eq]; exact targetTrap_of_good good
    obtain ⟨linked, frame⟩ := writePair_wrote x f.word act (iDst_add_le hlegal (opSpec_call hcls hop) (.inl rfl) (by decide))
      fun _ => (p.pc + 8).setWidth 64
    generalize hy : x.writePair f.word act (fun _ => (p.pc + 8).setWidth 64) = y at linked frame
    have ycur : y.cur = some p := by rw [frame]; exact hcur
    have yfine := (targetTrap_setDrill s d (congrArg Drill.comp frame) (congrArg Drill.epoch frame) (relTarget p.pc f.word)).trans fine
    obtain ⟨z, hz, same, stands⟩ := branch_effect (s := s.setDrill d y) (d := d) (act := act) (target := fun _ => relTarget p.pc f.word) f.word
      ycur hp fun k _ => yfine
    have body : callBody d f s x p act = some ((s.setDrill d y).setDrill d z) := by
      rw [callBody, fine]; dsimp only; rw [hy, hz]
    have he := exec_of_body (coll := false) h nofun (exec_call d f s) body
    obtain ⟨drill, only⟩ := drillOnly_setDrill (s.setDrill d y) d z 2 1
    obtain ⟨taken, -, rest⟩ := at_of_branch hact hsub stands
    refine ⟨_, z, he, drill, drillOnly_trans (setDrill_drillOnly s d y) only, wrote_of_same linked same, taken _ fun _ => relTarget_eq _ _, rest⟩

/-! ## EXIT (R121) -/

/-- The drill that EXIT leaves before it is settled: the active threads are gone, the others of the path stand at the next word. -/
def exited (x : Drill) (p : Path) (act : DWord) : Drill :=
  { x with cur := none, stamp := x.stamp + 1,
           paths := if p.mask &&& ~~~ act = 0 then x.paths
             else addPath { mask := p.mask &&& ~~~ act, pc := p.pc + 8, wait := .runnable, since := x.stamp } x.paths }

theorem exec_exit (d : DrillRef) (f : Fetched) (s : State) : Machine.exec (.exit d f) s =
    .next (s.issue d f 0xC 0x03 false fun x p act =>
      if (exited x p act).live = 0 then some (s.setDrill d { exited x p act with status := .draining p.pc act f.word })
      else some (s.syncSettle d (exited x p act))) := rfl

/-- A path after EXIT is an earlier one, or the rest of the path that ran, which an earlier one may have taken in. -/
theorem mem_exited {x : Drill} {p : Path} {act : DWord} {r : Path} (hr : r ∈ (exited x p act).paths) :
    r ∈ x.paths ∨ r.wait = .runnable ∧ (r.mask = p.mask &&& ~~~ act ∨ ∃ q ∈ x.paths, r.mask = q.mask ||| (p.mask &&& ~~~ act)) := by
  unfold exited at hr
  dsimp only at hr
  split at hr
  · exact .inl hr
  · exact (mem_addPath hr).imp_right fun h => h.2

/-- Threads covered by none are none. -/
theorem zero_of_covers {a m : DWord} (ha : a = 0) (h : a &&& m = m) : m = 0 := by
  rw [← h, ha]; exact BitVec.zero_and

/-- The threads of the waiting paths are still there after EXIT. -/
theorem masks_exited_covers (x : Drill) (p : Path) (act : DWord) : masks (exited x p act).paths &&& masks x.paths = masks x.paths := by
  unfold exited
  dsimp only
  split
  · exact BitVec.and_self
  · rw [masks_addPath]; exact or_covers_left _ _

/-- Paths of which none sync-waits have no sync mask. -/
theorem syncMask_of_none {y : Drill} (h : ∀ q ∈ y.paths, q.wait ≠ .sync) : y.syncMask none = 0 :=
  List.foldlRecOn y.paths _ (motive := fun m => m = (0 : DWord)) rfl fun _ hm q hq => (if_neg fun hn => h q hq hn.1).trans hm

/-- A drill with live threads of which none sync-waits goes on with its lowest path (R127). -/
theorem syncSettle_of_none {s : State} {d : DrillRef} {y : Drill} (hl : y.live ≠ 0) (h : ∀ q ∈ y.paths, q.wait ≠ .sync) :
    s.syncSettle d y = s.setDrill d y.runLowest := by
  have settled : y.syncCheck = (y.runLowest, none) := by
    rw [Drill.syncCheck]
    exact if_neg fun hn => hl (hn.2.symm.trans (syncMask_of_none h))
  rw [State.syncSettle, settled]

theorem exitEndsTheActiveThreads : Claim.ExitEndsTheActiveThreads := by
  refine ⟨fun s d f x p h hpaths => ?last, fun s d f x p act h hother hleft => ?others⟩
  case last =>
    have rest : p.mask &&& ~~~ p.mask = 0 := by ext i; simp
    have gone : (exited x p p.mask).paths = [] := (if_pos rest).trans hpaths
    have dead : (exited x p p.mask).live = 0 := by rw [live_of_none rfl, gone]; rfl
    obtain ⟨t, he, drill, only⟩ := drill_effect_of_body (coll := false) h nofun (exec_exit d f s) (if_pos dead)
    exact ⟨t, _, he, drill, only, ⟨rfl, rfl, rfl⟩, rfl, rfl, gone⟩
  case others =>
    obtain ⟨-, hcur, -, hactive, -⟩ := id h
    have apart : (p.mask &&& ~~~ act) &&& act = 0 := by ext i; simp
    have noSync (q : Path) (hq : q ∈ (exited x p act).paths) : q.wait ≠ .sync := by
      obtain hq | ⟨hw, -⟩ := mem_exited hq
      · exact (hother q hq).2
      · rw [hw]; nofun
    have among (hr : p.mask &&& ~~~ act ≠ 0) : Among (· = .runnable) (exited x p act).paths (p.mask &&& ~~~ act) (p.pc + 8) := by
      rw [exited, if_neg hr]
      exact among_addPath_self (P := (· = .runnable)) rfl BitVec.and_self
    have live : (exited x p act).live ≠ 0 := by
      rw [live_of_none rfl]
      intro none
      obtain hr | ⟨q, hq, hm⟩ := hleft
      · obtain ⟨q, hq, -, -, hm⟩ := among hr
        exact hr (zero_of_covers none (covers_trans (masks_covers hq) hm))
      · exact hm (zero_of_covers none (covers_trans (masks_exited_covers x p act) (masks_covers hq)))
    have same := Drill.SameRegs.trans (Drill.SameRegs.refl' (x := x) (exited x p act) rfl) (Drill.runLowest_same _)
    obtain ⟨t, he, drill, only⟩ := drill_effect_of_body (coll := false) h nofun (exec_exit d f s)
      ((if_neg live).trans (congrArg some (syncSettle_of_none live noSync)))
    refine ⟨t, _, he, drill, only, claimSameRegs same, (status_of_same same).trans hactive, fun q hq => ?_, fun hr =>
      (stands_runLowest (P := (· = .runnable)) rfl ⟨fun _ hq => (Option.some_ne_none _ hq.symm).elim, .inr (among hr)⟩).at_⟩
    have hq : q ∈ (exited x p act).paths := hq.elim (cur_mem_of_runLowest rfl) (mem_of_mem_runLowest rfl)
    obtain hq | ⟨-, hm | ⟨r, hr, hm⟩⟩ := mem_exited hq
    · exact (hother q hq).1
    · rw [hm]; exact apart
    · rw [hm]; exact or_apart (hother r hr).1 apart

/-! ## NOP and SREG (Table 05-13) -/

/-- The row of SREG. -/
theorem opSpec_sreg {w : DWord} (hc : iCls w = 0xC) (ho : iOp w = 0x07) : opSpec w =
    some { mkSpec false true (.reg (if [1, 2, 10, 11].contains (iImm w) then 2 else 1)) .unused .unused .unused (decide (iMod w = 0)) with
      immOk := decide (iImm w ≤ 11) && !(decide (iImm w = 0) && iDU w) } := by
  unfold opSpec; rw [hc, ho]; rfl

/-- A legal SREG names one of the twelve values. -/
theorem sreg_selector {w : DWord} (hc : iCls w = 0xC) (ho : iOp w = 0x07) (hl : legalWord w = true) : iImm w ≤ 11 := by
  simp only [legalWord, opSpec_sreg hc ho, mkSpec] at hl
  cases hf : iImmForm w <;> simp [hf] at hl
  tauto

theorem setWidth_word (v : DWord) : v.setWidth 32 = v.extractLsb' (32 * 0) 32 := by
  ext i; simp

/-- The drill after SREG has written `v`: the pairs of Table 05-13 take both words. -/
def sregWrite (x : Drill) (w act : DWord) (v : Nat → DWord) : Drill :=
  if [1, 2, 10, 11].contains (iImm w) then x.writePair w act v else x.writeEach w act fun t => (v t).setWidth 32

/-- SREG writes the low word of its value, or both words (Table 05-13). -/
theorem sregWrite_wrote {x : Drill} {w act : DWord} (hc : iCls w = 0xC) (ho : iOp w = 0x07) (hl : legalWord w = true) (v : Nat → DWord) :
    Wrote w act (if iImm w ∈ [1, 2, 10, 11] then 2 else 1) x (sregWrite x w act v) (fun k j => (v k).extractLsb' (32 * j) 32) ∧
      sregWrite x w act v = { x with g := (sregWrite x w act v).g, u := (sregWrite x w act v).u } := by
  have room := iDst_add_le hl (opSpec_sreg hc ho) (.inl rfl) (by split <;> decide)
  simp only [List.contains_iff_mem] at room
  unfold sregWrite
  simp only [List.contains_iff_mem]
  by_cases pair : iImm w ∈ [1, 2, 10, 11]
  · simp only [if_pos pair] at room ⊢
    exact writePair_wrote x w act room v
  · simp only [if_neg pair]
    obtain ⟨⟨results, rest⟩, frame⟩ := x.writeEach_wrote w act fun t => (v t).setWidth 32
    refine ⟨⟨fun k hk j hj => ?_, rest⟩, frame⟩
    rw [results k hk j hj, Nat.lt_one_iff.1 hj]
    exact setWidth_word (v k)

theorem exec_sreg (d : DrillRef) (f : Fetched) (s : State) (h : iImm f.word ≤ 11) : Machine.exec (.sreg d f) s =
    .next (s.issue d f 0xC 0x07 false fun x _ act => some (s.setDrill d (sregWrite x f.word act (s.special d x act (iImm f.word))).retire)) := by
  rw [show Machine.exec (.sreg d f) s = execSreg d f s from rfl, execSreg, Nat.mod_eq_of_lt (show iImm f.word < 32 by omega)]
  rfl

theorem nopAndSpecialValues : Claim.NopAndSpecialValues := by
  refine ⟨fun s d f x p act h => onlyGoesOn_of_body h rfl rfl, fun s d f x p act h => ?_⟩
  obtain ⟨-, -, -, -, -, -, hcls, hop, -, -, hlegal, -⟩ := id h
  obtain ⟨wrote, frame⟩ := sregWrite_wrote (x := x) (act := act) hcls hop hlegal (s.special d x act (iImm f.word))
  refine ⟨_, _, exec_sreg d f s (sreg_selector hcls hop hlegal), goesOn_of_body h rfl (by rw [frame]), ?_⟩
  exact wrote_retire wrote

/-- Settles O11. Each thread of a branching path stands where its next PC says, whether the path stays whole, rotates or splits. -/
theorem controlMovesTheThreads : Obligations.ControlMovesTheThreads := by
  unfold Obligations.ControlMovesTheThreads
  exact ⟨branchesMoveTheActiveThreads, exitEndsTheActiveThreads, nopAndSpecialValues⟩

end Sys2Proof.Control
end

section
/-! SUPPORT. Words that do not take effect (O12): trap instructions, illegal and poisoned words, false guards (R133-R136, R143, R148, R150). -/

namespace Sys2Proof.Traps

open Sys2Proof Sys2Proof.Machine Sys2Proof.Claim Sys2Proof.Tokens Sys2Proof.DrillPaths Sys2Proof.DrillIssue

/-! ## Before the row's own effect (R118, R134, R143, R148) -/

/-- The drill `x` on its path `p` may issue the word at its PC. -/
structure CanIssue (s : State) (d : DrillRef) (x : Drill) (p : Path) : Prop where
  drill : s.drill? d = some x
  cur : x.cur = some p
  core : s.coreIssues d.slice = true
  active : x.status = .active
  idle : x.mem = none
  lawful : s.revokedCtx x.context = false

section
variable {s : State} {d : DrillRef} {x : Drill} {p : Path} {f : Fetched} {cls op : Nat} {coll : Bool} {body : Drill → Path → DWord → Option State}
  (h : CanIssue s d x p)
include h

theorem issue_poisoned (hf : f.poisoned = true) : s.issue d f cls op coll body = s.park d .poisoned p.mask (p.pc.setWidth 64) f.word := by
  have detail : BitVec.ofNat 64 p.pc.toNat = p.pc.setWidth 64 := BitVec.eq_of_toNat_eq (by simp)
  obtain ⟨drill, cur, core, active, idle, lawful⟩ := h
  simp only [State.issue, drill, cur, core, active, idle, lawful, hf, detail]
  rfl

/-- A word that is not legal traps in any row that handles it. -/
theorem issue_illegal (hf : f.poisoned = false) (hrow : (opSpec f.word).isSome = true → iCls f.word = cls ∧ iOp f.word = op) {act : DWord}
    (hmask : activeMask x f.word p.mask = act) (hact : act ≠ 0) (hl : legalWord f.word = false) :
    s.issue d f cls op coll body = s.park d .illegal act 0 f.word := by
  obtain ⟨drill, cur, core, active, idle, lawful⟩ := h
  have other : ¬ ((opSpec f.word).isSome = true ∧ ¬ (iCls f.word = cls ∧ iOp f.word = op)) := fun hn => hn.2 (hrow hn.1)
  simp only [State.issue, drill, cur, core, active, idle, lawful, hf, if_neg other, hmask, if_neg hact, hl]
  rfl

theorem issue_empty (hf : f.poisoned = false) (hrow : iCls f.word = cls ∧ iOp f.word = op) (hmask : activeMask x f.word p.mask = 0) :
    s.issue d f cls op coll body = s.setDrill d x.retire := by
  obtain ⟨drill, cur, core, active, idle, lawful⟩ := h
  have other : ¬ ((opSpec f.word).isSome = true ∧ ¬ (iCls f.word = cls ∧ iOp f.word = op)) := fun hn => hn.2 hrow
  simp only [State.issue, drill, cur, core, active, idle, lawful, hf, if_neg other, hmask]
  rfl

/-- A row of a false guard only moves the path on. -/
theorem onlyGoesOn_of_empty {i : Instr} (he : Machine.exec i s = .next (s.issue d f cls op coll body)) (hf : f.poisoned = false)
    (hrow : iCls f.word = cls ∧ iOp f.word = op) (hmask : activeMask x f.word p.mask = 0) : OnlyGoesOn i s d x p := by
  rw [issue_empty h hf hrow hmask] at he
  obtain ⟨goes, kept⟩ := x.retire_goes p h.cur
  refine ⟨_, _, he, ⟨drill?_setDrill_same s d _, setDrill_drillOnly s d _, goes, ?_⟩, x.retire_g, x.retire_p, x.retire_u⟩
  rw [x.retire_g, x.retire_p, x.retire_u]
  exact kept

/-- A word that traps before its row's own effect. -/
theorem parks_of_issue {i : Instr} {tr : Trap} {mask detail : DWord} (he : Machine.exec i s = .next (s.issue d f cls op coll body))
    (hi : s.issue d f cls op coll body = s.park d tr mask detail f.word) : Parks i s d x p tr mask detail f.word :=
  parks_of_park h.drill h.cur tr mask detail f.word (he.trans (congrArg _ hi)) rfl rfl rfl

end

/-! ## The statements -/

/-- IMM[6:0] of a word. -/
theorem ofNat_imm (w : DWord) : BitVec.ofNat 64 (iImm w % 128) = ((w.extractLsb' 0 7 : BitVec 7).toNat : DWord) :=
  BitVec.eq_of_toNat_eq (by simp [iImm, bits])

theorem bit_imm (w : DWord) : iImm w / 128 % 2 = 1 ↔ bit w 7 = true := by
  rw [bit, BitVec.getLsbD, Nat.testBit_eq_decide_div_mod_eq, decide_eq_true_eq]
  simp [iImm, bits]
  omega

theorem trapInstructionsParkTheDrill : Claim.TrapInstructionsParkTheDrill := by
  intro s d f x p act
  refine ⟨fun h => ?trap, fun h => parks_of_body (coll := false) h nofun rfl rfl⟩
  case trap =>
    simp only [← ofNat_imm, ← bit_imm]
    exact parks_of_body (coll := false) h nofun rfl rfl

theorem legalWord_of_unlisted {w : DWord} (h : opSpec w = none) : legalWord w = false := by rw [legalWord, h]

theorem exec_iadd (d : DrillRef) (f : Fetched) (s : State) : Machine.exec (.iadd d f) s =
    .next (s.issue d f 0x0 0x02 false fun x _ act =>
      some (s.setDrill d (x.writeEach f.word act fun t => x.srcA f.word t + x.srcB f.word t).retire)) := rfl

theorem illegalWordsTrap : Claim.IllegalWordsTrap := by
  intro s d f x p act drill cur core active idle lawful
  have h : CanIssue s d x p := ⟨drill, cur, core, active, idle, lawful⟩
  refine ⟨fun hf hm ha hl hc ho => ?illegal, fun hf hm ha hn => ?unlisted, fun hf => parks_of_issue h (exec_iadd d f s) (issue_poisoned h hf)⟩
  case illegal => exact parks_of_issue h (exec_iadd d f s) (issue_illegal h hf (fun _ => ⟨hc, ho⟩) hm ha hl)
  case unlisted =>
    refine parks_of_issue h rfl (issue_illegal h hf (fun hs => ?_) hm ha (legalWord_of_unlisted hn))
    rw [hn] at hs; cases hs

/-- The outcome is that of issuing an integer operation. -/
def IsIssue (s : State) (d : DrillRef) (f : Fetched) (op : Nat) (o : Host.Outcome State Fault Refusal) : Prop :=
  ∃ body, o = .next (s.issue d f 0x0 op false body)

section
variable (s : State) (d : DrillRef) (f : Fetched) (op : Nat)

theorem isIssue_alu (g : Drill → DWord → Drill) : IsIssue s d f op (.next (s.alu d f 0x0 op g)) := ⟨_, rfl⟩
theorem isIssue_int1 (h : Word → Word) : IsIssue s d f op (.next (s.int1 d f op h)) := isIssue_alu s d f op _
theorem isIssue_int2 (h : Word → Word → Word) : IsIssue s d f op (.next (s.int2 d f op h)) := isIssue_alu s d f op _
theorem isIssue_int3 (h : Word → Word → Word → Word) : IsIssue s d f op (.next (s.int3 d f op h)) := isIssue_alu s d f op _

/-- Every integer row is issued. -/
theorem isIssue_intRows : ∀ r ∈ intRows, IsIssue s d f r.2.1 (Machine.exec (r.1 d f) s) := by
  simp only [intRows, List.cons_append, List.nil_append, List.forall_mem_cons]
  exact ⟨isIssue_alu .., isIssue_alu .., isIssue_int2 .., isIssue_int2 .., isIssue_int2 .., isIssue_int2 .., isIssue_int3 ..,
    isIssue_int2 .., isIssue_int2 .., isIssue_int1 .., isIssue_int2 .., isIssue_int2 .., isIssue_int2 .., isIssue_int1 ..,
    isIssue_int2 .., isIssue_int2 .., isIssue_int1 .., isIssue_int1 .., isIssue_int1 .., isIssue_int2 .., isIssue_int3 ..,
    isIssue_alu .., isIssue_alu .., fun _ hr => absurd hr List.not_mem_nil⟩

end

theorem emptyActiveMaskHasNoEffect : Claim.EmptyActiveMaskHasNoEffect := by
  intro s d f x p drill cur core active idle lawful hf hm
  have h : CanIssue s d x p := ⟨drill, cur, core, active, idle, lawful⟩
  refine ⟨fun r hr hc ho => ?_, fun hc ho => onlyGoesOn_of_empty h rfl hf ⟨hc, ho⟩ hm, fun hc ho => onlyGoesOn_of_empty h rfl hf ⟨hc, ho⟩ hm⟩
  obtain ⟨body, he⟩ := isIssue_intRows s d f r hr
  exact onlyGoesOn_of_empty h he hf ⟨hc, ho⟩ hm

/-- Settles O12, by what issuing decides before a row's own effect. -/
theorem trapsParkTheDrill : Obligations.TrapsParkTheDrill := by
  unfold Obligations.TrapsParkTheDrill
  exact ⟨trapInstructionsParkTheDrill, illegalWordsTrap, emptyActiveMaskHasNoEffect⟩

end Sys2Proof.Traps
end

section
/-! SUPPORT. Joining (O9): the threads of a drill at DSYNC, the drills of a core at a barrier (R127, R132). -/

namespace Sys2Proof.Joining

open Sys2Proof Sys2Proof.Machine Sys2Proof.Claim Sys2Proof.Tokens Sys2Proof.ArrayEnd Sys2Proof.DrillPaths Sys2Proof.DrillIssue

/-! ## A path some of whose threads wait (R119, R122) -/

section
variable {x : Drill} {p : Path} (hc : x.cur = some p)
include hc

theorem waitAt_cur (m : DWord) (pc : BitVec 48) (w : Wait) : (x.waitAt m pc w).cur = none := by
  rw [Drill.waitAt, hc]
  dsimp only
  split <;> rfl

/-- The paths after threads `m` wait at `pc`: the rest of the running path, if any, stands at the next word. -/
theorem waitAt_paths (m : DWord) (pc : BitVec 48) (w : Wait) : (x.waitAt m pc w).paths =
    if p.mask &&& ~~~ m = 0 then addPath { mask := m, pc := pc, wait := w, since := x.stamp } x.paths
    else addPath { mask := p.mask &&& ~~~ m, pc := p.pc + 8, wait := .runnable, since := x.stamp }
      (addPath { mask := m, pc := pc, wait := w, since := x.stamp } x.paths) := by
  rw [Drill.waitAt, hc]
  exact apply_ite Drill.paths _ _ _

theorem among_waitAt (m : DWord) (pc : BitVec 48) (w : Wait) : Among (· = w) (x.waitAt m pc w).paths m pc := by
  have here : Among (· = w) (addPath { mask := m, pc := pc, wait := w, since := x.stamp } x.paths) m pc :=
    among_addPath_self (P := (· = w)) rfl BitVec.and_self
  rw [waitAt_paths hc]
  split
  · exact here
  · exact among_addPath _ here

/-- No thread is lost by waiting. -/
theorem masks_waitAt {m : DWord} (hm : p.mask &&& m = m) (pc : BitVec 48) (w : Wait) : masks (x.waitAt m pc w).paths = x.live := by
  rw [live_of_cur hc, waitAt_paths hc]
  split
  · next left =>
    have whole : m = p.mask := by
      have parts : p.mask = (p.mask &&& m) ||| (p.mask &&& ~~~ m) := by ext i; simp; cases p.mask[i] <;> cases m[i] <;> rfl
      rw [parts, left, hm]; exact BitVec.or_zero.symm
    rw [masks_addPath, whole]
  · have parts : m ||| (p.mask &&& ~~~ m) = p.mask := by
      rw [← hm]; ext i; simp; cases p.mask[i] <;> cases m[i] <;> rfl
    rw [masks_addPath, masks_addPath, BitVec.or_assoc, parts]

end

/-! ## DSYNC (R127) -/

/-- The sync-waiting paths. -/
def syncing (ps : List Path) : List Path := ps.filter fun q => decide (q.wait = .sync)

theorem syncing_cons_sync {q : Path} (hq : q.wait = .sync) (qs : List Path) : syncing (q :: qs) = q :: syncing qs :=
  List.filter_cons_of_pos (decide_eq_true hq)

theorem syncing_cons_other {q : Path} (hq : q.wait ≠ .sync) (qs : List Path) : syncing (q :: qs) = syncing qs :=
  List.filter_cons_of_neg (Bool.eq_false_iff.1 (decide_eq_false hq))

theorem syncing_addPath_sync {p : Path} (hp : p.wait = .sync) (ps : List Path) : syncing (addPath p ps) = addPath p (syncing ps) := by
  induction ps with
  | nil => exact syncing_cons_sync hp []
  | cons q qs ih =>
    rw [addPath]
    by_cases same : q.pc = p.pc ∧ q.wait = p.wait
    · have hq : q.wait = .sync := same.2.trans hp
      rw [if_pos same, syncing_cons_sync hq, addPath, if_pos same]
      exact syncing_cons_sync (by exact hq) _
    · rw [if_neg same]
      by_cases hq : q.wait = .sync
      · rw [syncing_cons_sync hq, syncing_cons_sync hq, ih, addPath, if_neg same]
      · rw [syncing_cons_other hq, syncing_cons_other hq, ih]

theorem syncing_addPath_other {p : Path} (hp : p.wait ≠ .sync) (ps : List Path) : syncing (addPath p ps) = syncing ps := by
  induction ps with
  | nil => exact syncing_cons_other hp []
  | cons q qs ih =>
    rw [addPath]
    by_cases same : q.pc = p.pc ∧ q.wait = p.wait
    · have hq : q.wait ≠ .sync := same.2 ▸ hp
      rw [if_pos same, syncing_cons_other hq]
      exact syncing_cons_other (by exact hq) _
    · rw [if_neg same]
      by_cases hq : q.wait = .sync
      · rw [syncing_cons_sync hq, syncing_cons_sync hq, ih]
      · rw [syncing_cons_other hq, syncing_cons_other hq, ih]

theorem syncMask_foldl (pc : Option (BitVec 48)) (ps : List Path) (h : ∀ q ∈ ps, q.wait = .sync → pc = none ∨ pc = some q.pc) (a : DWord) :
    ps.foldl (fun m q => if q.wait = .sync ∧ (pc = none ∨ pc = some q.pc) then m ||| q.mask else m) a = a ||| masks (syncing ps) := by
  induction ps generalizing a with
  | nil => exact BitVec.or_zero.symm
  | cons q qs ih =>
    rw [List.foldl_cons, ih fun r hr => h r (List.mem_cons_of_mem _ hr)]
    by_cases hq : q.wait = .sync
    · rw [if_pos ⟨hq, h q List.mem_cons_self hq⟩, syncing_cons_sync hq, masks_cons, BitVec.or_assoc]
    · rw [if_neg fun hn => hq hn.1, syncing_cons_other hq]

theorem syncMask_eq {x : Drill} {pc : Option (BitVec 48)} (h : ∀ q ∈ x.paths, q.wait = .sync → pc = none ∨ pc = some q.pc) :
    x.syncMask pc = masks (syncing x.paths) := by
  rw [Drill.syncMask, syncMask_foldl pc _ h]
  exact BitVec.zero_or

theorem syncMask_none (x : Drill) : x.syncMask none = masks (syncing x.paths) := syncMask_eq fun _ _ _ => .inl rfl

theorem syncing_eq_self {ps : List Path} (h : ∀ q ∈ ps, q.wait = .sync) : syncing ps = ps :=
  List.filter_eq_self.2 fun q hq => decide_eq_true (h q hq)

/-- The sync mask after threads have begun to sync-wait. -/
theorem syncMask_waitAt {x : Drill} {p : Path} (hc : x.cur = some p) (m : DWord) (pc : BitVec 48) :
    (x.waitAt m pc .sync).syncMask none = x.syncMask none ||| m := by
  rw [syncMask_none, syncMask_none]
  rw [waitAt_paths hc]
  split
  · rw [syncing_addPath_sync rfl, masks_addPath]
  · rw [syncing_addPath_other Wait.noConfusion, syncing_addPath_sync rfl, masks_addPath]

/-- One step of the search for the last sync-waiting path. -/
def laterSync (b : Option Path) (q : Path) : Option Path :=
  if q.wait = .sync then (match b with
    | some r => if r.since ≤ q.since then some q else some r
    | none => some q) else b

theorem lastSync_eq (x : Drill) : x.lastSync = x.paths.foldl laterSync none := rfl

theorem laterSync_some (r q : Path) : ∃ t, laterSync (some r) q = some t ∧ (t = r ∨ t = q) := by
  unfold laterSync
  dsimp only
  split
  · split
    · exact ⟨q, rfl, .inr rfl⟩
    · exact ⟨r, rfl, .inl rfl⟩
  · exact ⟨r, rfl, .inl rfl⟩

/-- Where every path sync-waits, one of them is the last. -/
theorem lastSync_mem {x : Drill} (h : ∀ q ∈ x.paths, q.wait = .sync) (hne : x.paths ≠ []) : ∃ q ∈ x.paths, x.lastSync = some q := by
  obtain ⟨p, ps, hp⟩ := List.exists_cons_of_ne_nil hne
  have first : laterSync none p = some p := if_pos (h p (hp ▸ List.mem_cons_self))
  obtain ⟨q, hq, hm⟩ : ∃ q, ps.foldl laterSync (some p) = some q ∧ q ∈ p :: ps :=
    List.foldlRecOn ps laterSync (motive := fun b => ∃ q, b = some q ∧ q ∈ p :: ps) ⟨p, rfl, List.mem_cons_self⟩ fun b ⟨q, hq, hm⟩ r hr => by
      obtain ⟨t, ht, rfl | rfl⟩ := laterSync_some q r
      · exact ⟨t, hq ▸ ht, hm⟩
      · exact ⟨t, hq ▸ ht, List.mem_cons_of_mem _ hr⟩
  refine ⟨q, hp ▸ hm, ?_⟩
  rw [lastSync_eq, hp, List.foldl_cons, first, hq]

/-- The drill as DSYNC leaves it before it is settled. -/
def syncWaiting (x : Drill) (act : DWord) (pc : BitVec 48) (w : DWord) : Drill := { x.waitAt act pc .sync with dsync := w }

theorem syncWaiting_same (x : Drill) (act : DWord) (pc : BitVec 48) (w : DWord) : Claim.SameRegs x (syncWaiting x act pc w) := by
  have same : Claim.SameRegs x (x.waitAt act pc .sync) := claimSameRegs (x.waitAt_same act pc .sync)
  exact same

/-- The drill whose threads have all come to the DSYNC at `pc`. -/
def joined (y : Drill) (pc : BitVec 48) (since : Nat) : Drill :=
  { y with cur := some { mask := y.live, pc := pc + 8, wait := .runnable, since := since }, paths := [], budget := 16, window := none }

theorem syncSettle_joined (s : State) (d : DrillRef) {y : Drill} {pc : BitVec 48} (hc : y.cur = none) (hl : y.live ≠ 0)
    (h : ∀ q ∈ y.paths, q.wait = .sync ∧ q.pc = pc) : ∃ n, s.syncSettle d y = s.setDrill d (joined y pc n) := by
  have all (o : Option (BitVec 48)) (ho : o = none ∨ o = some pc) : y.syncMask o = y.live := by
    rw [syncMask_eq fun q hq _ => ho.imp_right fun ho => by rw [ho, (h q hq).2], syncing_eq_self fun q hq => (h q hq).1, live_of_none hc]
  have some_path : y.paths ≠ [] := fun hn => hl (by rw [live_of_none hc, hn]; rfl)
  obtain ⟨q, hq, last⟩ := lastSync_mem (fun q hq => (h q hq).1) some_path
  obtain ⟨-, rfl⟩ := h q hq
  have settled : y.syncCheck = (joined y q.pc q.since, none) := by
    rw [Drill.syncCheck, if_pos ⟨hl, all none (.inl rfl)⟩, last]
    exact if_pos (all _ (.inr rfl))
  exact ⟨q.since, by rw [State.syncSettle, settled]⟩

theorem syncSettle_waiting (s : State) (d : DrillRef) {y : Drill} (h : y.syncMask none ≠ y.live) : s.syncSettle d y = s.setDrill d y.runLowest := by
  have settled : y.syncCheck = (y.runLowest, none) := if_neg fun hn => h hn.2
  rw [State.syncSettle, settled]

theorem drillSyncJoinsAllThreads : Claim.DrillSyncJoinsAllThreads := by
  intro s d f x p act h
  obtain ⟨-, hcur, -, -, -, -, -, -, hmask, hact, -⟩ := id h
  have hsub : p.mask &&& act = act := hmask ▸ activeMask_covered x f.word p.mask
  have idle : (syncWaiting x act p.pc f.word).cur = none := waitAt_cur hcur act p.pc .sync
  have live : (syncWaiting x act p.pc f.word).live = x.live := (live_of_none idle).trans (masks_waitAt hcur hsub p.pc .sync)
  have exec : Machine.exec (.dsync d f) s =
    .next (s.issue d f 0x9 0x01 false fun x p act => some (s.syncSettle d (syncWaiting x act p.pc f.word))) := rfl
  have same := syncWaiting_same x act p.pc f.word
  refine ⟨fun whole hpaths => ?all, fun hother => ?some⟩
  case all =>
    have here (q : Path) (hq : q ∈ (syncWaiting x act p.pc f.word).paths) : q.wait = .sync ∧ q.pc = p.pc := by
      have left : p.mask &&& ~~~ act = 0 := by rw [whole]; ext i; simp
      rw [syncWaiting, waitAt_paths hcur, if_pos left] at hq
      exact (mem_addPath hq).elim (hpaths q) fun h => ⟨h.2.1, h.1⟩
    have some_live : (syncWaiting x act p.pc f.word).live ≠ 0 := fun hn => by
      rw [live, live_of_cur hcur, whole.symm] at hn
      exact hact (by rw [← or_covers_right (masks x.paths) act, hn]; exact BitVec.zero_and)
    obtain ⟨n, settled⟩ := syncSettle_joined s d idle some_live here
    obtain ⟨t, he, drill, only⟩ := drill_effect_of_body (coll := false) h nofun exec (congrArg some settled)
    exact ⟨t, _, _, he, drill, only, same, rfl, rfl, rfl, live⟩
  case some =>
    have differ : (syncWaiting x act p.pc f.word).syncMask none ≠ (syncWaiting x act p.pc f.word).live := by
      rw [live]
      exact fun hn => hother ((syncMask_waitAt hcur act p.pc).symm.trans hn)
    obtain ⟨t, he, drill, only⟩ := drill_effect_of_body (coll := false) h nofun exec (congrArg some (syncSettle_waiting s d differ))
    obtain ⟨q, hq, hpc, hw, hm⟩ := among_waitAt hcur act p.pc .sync
    have ran := claimSameRegs (Drill.runLowest_same (syncWaiting x act p.pc f.word))
    exact ⟨t, _, q, he, drill, only, ⟨ran.1.trans same.1, ran.2.1.trans same.2.1, ran.2.2.trans same.2.2⟩,
      mem_runLowest idle hq (by rw [hw]; nofun), hw, hpc, (BitVec.and_comm _ _).trans hm⟩

/-! ## Core barriers (R132) -/

/-- The drills that wait at barrier `ub` go on. -/
def releaseAll (ub : Nat) (es : List DrillRef) (s : State) : State :=
  es.foldl (fun (s : State) e => s.modDrill e fun y => y.release fun w => decide (w = .barrier ub)) s

/-- No path of the drill at `e`, if it is active, waits at barrier `ub`. -/
def Unblocked (ub : Nat) (s : State) (e : DrillRef) : Prop :=
  ∀ y, s.drill? e = some y → y.status = .active → ∀ r ∈ y.paths, r.wait ≠ .barrier ub

/-- The drill at `d` keeps its registers and runs at `pc`. -/
def RunsAt (x : Drill) (pc : BitVec 48) (s : State) (d : DrillRef) : Prop :=
  ∃ z q, s.drill? d = some z ∧ x.SameRegs z ∧ z.cur = some q ∧ q.pc = pc

/-- What a drill reads after another has changed: the same slot, or as before. -/
theorem drill?_modDrill (s : State) (e : DrillRef) (f : Drill → Drill) (d : DrillRef) :
    (s.modDrill e f).drill? d = if d.slice = e.slice ∧ slotKey d = slotKey e then (s.drill? d).map f else s.drill? d := by
  unfold State.modDrill
  by_cases same : d.slice = e.slice ∧ slotKey d = slotKey e
  · have slot : s.drill? d = s.drill? e := by rw [State.drill?, State.drill?, same.1, same.2]
    rw [if_pos same, slot]
    cases he : s.drill? e with
    | none => exact slot.trans he
    | some x => exact (State.drill?_setDrill s e d (f x)).trans (if_pos same)
  · rw [if_neg same]
    cases s.drill? e with
    | none => rfl
    | some x => exact (State.drill?_setDrill s e d (f x)).trans (if_neg same)

theorem modDrill_barriers (s : State) (e : DrillRef) (f : Drill → Drill) (k : Nat) : ((s.modDrill e f).core k).barriers = (s.core k).barriers := by
  unfold State.modDrill
  split
  · by_cases hk : k = e.slice
    · rw [hk, core_setDrill]
    · rw [core_setDrill_other _ _ _ hk]
  · rfl

theorem releaseAll_barriers (ub : Nat) (es : List DrillRef) (s : State) (k : Nat) : ((releaseAll ub es s).core k).barriers = (s.core k).barriers :=
  List.foldlRecOn es _ (motive := fun t => (State.core t k).barriers = (s.core k).barriers) rfl fun t ht e _ => (modDrill_barriers t e _ k).trans ht

theorem releaseAll_mem (ub : Nat) (es : List DrillRef) (s : State) : (releaseAll ub es s).mem = s.mem :=
  List.foldlRecOn es _ (motive := fun t => State.mem t = s.mem) rfl fun t ht e _ => (t.modDrill_mem e _).trans ht

theorem runsAt_releaseAll {x : Drill} {pc : BitVec 48} (ub : Nat) (es : List DrillRef) {s : State} {d : DrillRef} (h : RunsAt x pc s d) :
    RunsAt x pc (releaseAll ub es s) d := by
  refine List.foldlRecOn es _ (motive := fun t => RunsAt x pc t d) h fun t ⟨z, q, hz, same, hq, hpc⟩ e _ => ?_
  rw [RunsAt, drill?_modDrill, hz]
  split
  · obtain ⟨r, hr, hrpc⟩ := freed_cur hq fun q => decide (q.wait = .barrier ub)
    exact ⟨_, r, rfl, same.trans (freed_same _ _), hr, hrpc.trans hpc⟩
  · exact ⟨z, q, rfl, same, hq, hpc⟩

theorem unblocked_release (ub : Nat) (s : State) {e c : DrillRef} (h : (c.slice = e.slice ∧ slotKey c = slotKey e) ∨ Unblocked ub s c) :
    Unblocked ub (s.modDrill e fun y => y.release fun w => decide (w = .barrier ub)) c := by
  intro y hy ha r hr
  rw [drill?_modDrill] at hy
  by_cases same : c.slice = e.slice ∧ slotKey c = slotKey e
  · rw [if_pos same] at hy
    obtain ⟨x, hx, rfl⟩ := Option.map_eq_some_iff.1 hy
    have ha : x.status = .active := (status_of_same (freed_same x fun q => decide (q.wait = .barrier ub))).symm.trans ha
    exact of_decide_eq_false (not_hit_of_mem_freed ha (fun r hw => by simp [hw]) hr)
  · rw [if_neg same] at hy
    exact h.resolve_left same y hy ha r hr

theorem unblocked_releaseAll (ub : Nat) (es : List DrillRef) (s : State) {c : DrillRef} (h : c ∈ es ∨ Unblocked ub s c) :
    Unblocked ub (releaseAll ub es s) c := by
  induction es generalizing s with
  | nil => exact h.resolve_left List.not_mem_nil
  | cons e es ih =>
    refine ih _ ?_
    obtain h | h := h
    · obtain rfl | h := List.mem_cons.1 h
      · exact .inr (unblocked_release ub s (.inl ⟨rfl, rfl⟩))
      · exact .inl h
    · exact .inr (unblocked_release ub s (.inr h))

/-- Barrier unit `ub` of the core as an arriving drill finds it. -/
def unitAt (s : State) (d : DrillRef) (x : Drill) (ub uc : Nat) : Barrier :=
  (find? (s.core d.slice).barriers ub).getD { waiting := [], context := x.context, count := uc }

/-- What CBAR does at barrier `ub`, whose unit is `b`, for `uc` drills. -/
def arrives (s : State) (d : DrillRef) (x : Drill) (p : Path) (act w : DWord) (ub uc : Nat) (b : Barrier) : State :=
  if 16 ≤ ub ∨ uc = 0 ∨ 32 < uc ∨ (!b.waiting.isEmpty ∧ b.count ≠ uc) then s.park d .barrierMismatch act 0 w
  else if b.waiting.length + 1 < uc then
    (s.setCore d.slice { s.core d.slice with barriers := insert (s.core d.slice).barriers ub { b with waiting := b.waiting ++ [d] } }).setDrill d
      (x.waitAt p.mask (p.pc + 8) (.barrier ub)).runLowest
  else releaseAll ub b.waiting ((s.setCore d.slice { s.core d.slice with barriers := erase (s.core d.slice).barriers ub }).setDrill d x.retire)

theorem exec_cbar (d : DrillRef) (f : Fetched) (s : State) : Machine.exec (.cbar d f) s = .next (s.issue d f 0x9 0x02 true fun x p act =>
    some (arrives s d x p act f.word (x.srcA f.word 0).toNat (x.srcB f.word 0).toNat
      (unitAt s d x (x.srcA f.word 0).toNat (x.srcB f.word 0).toNat))) := by
  have body (x : Drill) (p : Path) (act : DWord) : some (arrives s d x p act f.word (x.srcA f.word 0).toNat (x.srcB f.word 0).toNat
      (unitAt s d x (x.srcA f.word 0).toNat (x.srcB f.word 0).toNat)) = _ := (apply_ite some _ _ _).trans (congrArg _ (apply_ite some _ _ _))
  simp only [body]
  rfl

section
variable {s : State} {d : DrillRef} {x : Drill} {p : Path} {act w : DWord} {ub uc : Nat} {b : Barrier}

theorem arrives_early (hu : ub < 16) (hc : uc ≤ 32) (hb : b.waiting = [] ∨ b.count = uc) (hl : b.waiting.length + 1 < uc) :
    arrives s d x p act w ub uc b = (s.setCore d.slice { s.core d.slice with
      barriers := insert (s.core d.slice).barriers ub { b with waiting := b.waiting ++ [d] } }).setDrill d
        (x.waitAt p.mask (p.pc + 8) (.barrier ub)).runLowest := by
  have fits : ¬ (16 ≤ ub ∨ uc = 0 ∨ 32 < uc ∨ (!b.waiting.isEmpty ∧ b.count ≠ uc)) := by
    rw [Bool.not_eq_true', List.isEmpty_eq_false_iff]
    rintro (h | h | h | ⟨h, h'⟩)
    · omega
    · omega
    · omega
    · exact hb.elim h h'
  rw [arrives, if_neg fits, if_pos hl]

theorem arrives_last (hu : ub < 16) (hc : uc ≤ 32) (hb : b.waiting = [] ∨ b.count = uc) (hl : b.waiting.length + 1 = uc) :
    arrives s d x p act w ub uc b = releaseAll ub b.waiting
      ((s.setCore d.slice { s.core d.slice with barriers := erase (s.core d.slice).barriers ub }).setDrill d x.retire) := by
  have fits : ¬ (16 ≤ ub ∨ uc = 0 ∨ 32 < uc ∨ (!b.waiting.isEmpty ∧ b.count ≠ uc)) := by
    rw [Bool.not_eq_true', List.isEmpty_eq_false_iff]
    rintro (h | h | h | ⟨h, h'⟩)
    · omega
    · omega
    · omega
    · exact hb.elim h h'
  rw [arrives, if_neg fits, if_neg (by omega)]

theorem arrives_mismatch (hw : b.waiting ≠ []) (hb : b.count ≠ uc) : arrives s d x p act w ub uc b = s.park d .barrierMismatch act 0 w := by
  refine if_pos (.inr (.inr (.inr ⟨?_, hb⟩)))
  rwa [Bool.not_eq_true', List.isEmpty_eq_false_iff]

theorem unitAt_of_some (h : find? (s.core d.slice).barriers ub = some b) : unitAt s d x ub uc = b := by rw [unitAt, h]; rfl

theorem unitAt_of_none (h : find? (s.core d.slice).barriers ub = none) :
    unitAt s d x ub uc = { waiting := [], context := x.context, count := uc } := by rw [unitAt, h]; rfl

end

theorem meter_barriers (s : State) (k i n j : Nat) : ((s.meter k i n).core j).barriers = (s.core j).barriers := by
  obtain ⟨m, h⟩ := meter_core s k i n j; rw [h]

section
variable {s : State} {d : DrillRef} {f : Fetched} {x : Drill} {p : Path} {ub uc : Nat} {b : Barrier} (h : Ready s d f 0x9 0x02 x p x.live)
  (ha : (x.srcA f.word 0).toNat = ub) (hb : (x.srcB f.word 0).toNat = uc) (hunit : unitAt s d x ub uc = b)
  (hu : ub < 16) (hc : uc ≤ 32) (hw : b.waiting = [] ∨ b.count = uc)
include h ha hb hunit

theorem exec_cbar_ready : Machine.exec (.cbar d f) s = .next ((arrives s d x p x.live f.word ub uc b).meter d.slice 2 1) := by
  subst ha hb
  rw [← hunit]
  exact exec_of_body h (fun _ => rfl) (exec_cbar d f s) rfl

include hu hc hw

/-- An arrival before the last waits past the instruction, recorded. -/
theorem cbar_early (hl : b.waiting.length + 1 < uc) : ∃ t z q, Machine.exec (.cbar d f) s = .next t ∧ t.drill? d = some z ∧
    Claim.SameRegs x z ∧ find? (t.core d.slice).barriers ub = some { b with waiting := b.waiting ++ [d] } ∧ q ∈ z.paths ∧
      q.pc = p.pc + 8 ∧ q.wait = .barrier ub := by
  have he := exec_cbar_ready h ha hb hunit
  rw [arrives_early hu hc hw hl] at he
  obtain ⟨-, hcur, -⟩ := id h
  obtain ⟨q, hq, hpc, hwait, -⟩ := among_waitAt hcur p.mask (p.pc + 8) (.barrier ub)
  refine ⟨_, _, q, he, (meter_drill? _ _ _ _ _).trans (drill?_setDrill_same _ _ _),
    claimSameRegs ((x.waitAt_same _ _ _).trans (Drill.runLowest_same _)), ?_, mem_runLowest (waitAt_cur hcur _ _ _) hq (by rw [hwait]; nofun),
    hpc, hwait⟩
  rw [meter_barriers, core_setDrill, State.core_setCore]
  exact find?_insert_same _ _ _

/-- The last arrival frees the unit, goes on and releases the others. -/
theorem cbar_last (hl : b.waiting.length + 1 = uc) : ∃ t z q, Machine.exec (.cbar d f) s = .next t ∧ t.drill? d = some z ∧
    Claim.SameRegs x z ∧ find? (t.core d.slice).barriers ub = none ∧ z.cur = some q ∧ q.pc = p.pc + 8 ∧ t.mem = s.mem ∧
      ∀ e ∈ b.waiting, Unblocked ub t e := by
  have he := exec_cbar_ready h ha hb hunit
  rw [arrives_last hu hc hw hl] at he
  obtain ⟨-, hcur, -⟩ := id h
  obtain ⟨⟨r, hr, hrpc⟩, kept⟩ := x.retire_goes p hcur
  obtain ⟨z, q, hz, same, hq, hpc⟩ : RunsAt x (p.pc + 8) _ d := runsAt_releaseAll ub b.waiting
    ⟨_, r, drill?_setDrill_same (s.setCore d.slice { s.core d.slice with barriers := erase (s.core d.slice).barriers ub }) d _,
      by rw [kept]; rfl, hr, hrpc⟩
  refine ⟨_, z, q, he, (meter_drill? _ _ _ _ _).trans hz, claimSameRegs same, ?_, hq, hpc, ?_, fun e hm y hy => ?_⟩
  · rw [meter_barriers, releaseAll_barriers, core_setDrill, State.core_setCore]
    exact find?_erase_same _ _
  · rw [State.meter_mem, releaseAll_mem]; rfl
  · exact unblocked_releaseAll ub b.waiting _ (.inl hm) y ((meter_drill? _ _ _ _ _).symm.trans hy)

end

theorem coreBarrierReleasesAtTheLastArrival : Claim.CoreBarrierReleasesAtTheLastArrival := by
  intro s d f x p h hu hc ub uc
  refine ⟨fun b hf hcount _ => ⟨cbar_early h rfl rfl (unitAt_of_some hf) hu hc (.inr hcount),
    cbar_last h rfl rfl (unitAt_of_some hf) hu hc (.inr hcount)⟩,
    fun hf => cbar_early h rfl rfl (unitAt_of_none hf) hu hc (.inl rfl), fun hf one => ?alone, fun b hf hw hcount => ?mismatch⟩
  case alone =>
    obtain ⟨t, z, q, he, hz, same, free, hq, hpc, -⟩ := cbar_last h rfl rfl (unitAt_of_none hf) hu hc (.inl rfl) one.symm
    exact ⟨t, z, q, he, hz, same, free, hq, hpc⟩
  case mismatch =>
    obtain ⟨hx, hcur, -⟩ := id h
    have body : arrives s d x p x.live f.word ub uc (unitAt s d x ub uc) = s.park d .barrierMismatch x.live 0 f.word := by
      rw [unitAt_of_some hf, arrives_mismatch hw hcount]
    refine ⟨parks_of_body h (fun _ => rfl) (exec_cbar d f s) (congrArg some body), _, exec_cbar_ready h rfl rfl rfl, ?_⟩
    rw [meter_barriers, body, park_core hx hcur, core_setDrill]

/-- Settles O9: DSYNC by the masks of the paths that sync-wait, CBAR by the unit that the arrival finds. -/
theorem threadsAndDrillsJoin : Obligations.ThreadsAndDrillsJoin := by
  unfold Obligations.ThreadsAndDrillsJoin
  exact ⟨drillSyncJoinsAllThreads, coreBarrierReleasesAtTheLastArrival⟩

end Sys2Proof.Joining
end

section
/-! SUPPORT. An access of a drill that waits for its answers (O8, O21): the state that each answer leaves, and how the instruction ends (R133, R147). -/

namespace Sys2Proof.Answers

open Sys2Proof Sys2Proof.Machine Sys2Proof.Claim Sys2Proof.Tokens Sys2Proof.DrillPaths Sys2Proof.DrillIssue

/-! ## One drill written again and again -/

theorem insert_insert {α : Type} (m : List (Nat × α)) (k : Nat) (a b : α) : Machine.insert (Machine.insert m k a) k b = Machine.insert m k b := by
  induction m with
  | nil => simp [Machine.insert]
  | cons e m ih =>
    rw [Machine.insert]
    split
    · next h => simp [Machine.insert, h]
    · next h =>
      split
      · next here => simp [Machine.insert, here]
      · next other => simp [Machine.insert, h, other, ih]

theorem insert_ne_nil {α : Type} (m : List (Nat × α)) (k : Nat) (a : α) : Machine.insert m k a ≠ [] := fun h => by
  have := find?_insert_same m k a
  rw [h] at this
  cases this

/-- Of two writes of a drill the later stands. -/
theorem setDrill_setDrill (s : State) (d : DrillRef) (a b : Drill) : (s.setDrill d a).setDrill d b = s.setDrill d b := by
  have ne (x : Drill) : { s.core d.slice with drills := Machine.insert (s.core d.slice).drills (slotKey d) x } ≠ Core.reset := fun h =>
    insert_ne_nil _ _ _ (congrArg Core.drills h)
  have core := core_setDrill s d a
  rw [State.setDrill, State.modCore, core]
  simp only [State.setDrill, State.modCore, State.setCore, setD, insert_insert, if_neg (ne a), if_neg (ne b)]

theorem modDrill_setDrill (s : State) (d : DrillRef) (x : Drill) (g : Drill → Drill) : (s.setDrill d x).modDrill d g = s.setDrill d (g x) := by
  rw [State.modDrill, drill?_setDrill_same]
  exact setDrill_setDrill s d x (g x)

/-! ## Addresses (R157, R391) -/

/-- Where an access goes depends on the drill's composition and epoch, and on no core. -/
theorem resolve_setDrill (s : State) (d : DrillRef) {x z : Drill} (hc : z.comp = x.comp) (he : z.epoch = x.epoch) (a : DWord) (n : Nat) (w l : Bool) :
    (s.setDrill d z).resolve z a n w l = s.resolve x a n w l := by
  unfold State.resolve
  rw [hc, he, translate_congr (s := s) (t := s.setDrill d z) rfl]
  unfold State.resolveHost
  rw [hc]
  rfl

/-! ## Device accesses that resolve (R157, R179) -/

/-- Thread `k`'s access goes to byte `a mod 256` of device sector `n k`. -/
def devPlace (x : Drill) (w : DWord) (y : Nat → Xlat) (n : Nat → Nat) (k : Nat) : Place := .dev (y k) (n k) ((x.globalAddr w k).toNat % 256)

def devAcc (x : Drill) (w : DWord) (y : Nat → Xlat) (n : Nat → Nat) (k : Nat) : Acc :=
  { thread := k, addr := x.globalAddr w k, res := .at_ (devPlace x w y n k) }

section
variable (x : Drill) (w : DWord) (y : Nat → Xlat) (n : Nat → Nat) (ts : List Nat)

theorem accs_eq_devAcc {s : State} {bytes : Nat} {wr le : Bool} (ha : ∀ k ∈ ts, (x.globalAddr w k).toNat % bytes = 0)
    (hr : ∀ k ∈ ts, s.resolve x (x.globalAddr w k) bytes wr le = .at_ (devPlace x w y n k)) :
    s.accs x w ts bytes wr le = ts.map (devAcc x w y n) := by
  refine List.map_congr_left fun k hk => ?_
  simp only [ha k hk, ne_eq, not_true_eq_false, if_false, hr k hk, devAcc]

theorem accTraps_devAcc : accTraps (ts.map (devAcc x w y n)) = [] := by
  rw [accTraps, List.filterMap_map]
  exact List.filterMap_eq_nil_iff.2 fun _ _ => rfl

theorem accHeld_devAcc : accHeld (ts.map (devAcc x w y n)) = false := by
  rw [accHeld, List.any_map]
  exact List.any_eq_false.2 fun _ _ => by simp [devAcc]

theorem accPlaces_devAcc : accPlaces (ts.map (devAcc x w y n)) = ts.map fun k => (devAcc x w y n k, devPlace x w y n k) := by
  rw [accPlaces, List.filterMap_map, ← List.filterMap_eq_map]
  rfl

/-- Device accesses read no host memory. -/
theorem hostLoads_devAcc (s : State) (d : DrillRef) (z : Drill) (bytes : Nat) (acq : Bool) :
    s.hostLoads d z bytes acq (ts.map fun k => (devAcc x w y n k, devPlace x w y n k)) = some (s, []) := by
  induction ts with
  | nil => rfl
  | cons k ts ih => exact ih

end

/-- A core with no array instruction, transfer or canary under way holds no range. -/
theorem tracked_of_idle {s : State} {k : Nat} (hq : (s.core k).queue = []) (hx : (s.core k).xfers = []) (hc : (s.core k).canaries = [])
    (rs ws : List Span) : s.tracked k rs ws = false := by
  simp [State.tracked, Core.rangeHeld, hq, hx, hc]

/-! ## Answers -/

/-- The drill that waits with `m`. -/
def waiting (x : Drill) (m : MemWait) : Drill := { x with mem := some m }

theorem mem_of_mem_insert {α : Type} {m : List (Nat × α)} {k : Nat} {a : α} {e : Nat × α} (h : e ∈ Machine.insert m k a) : e = (k, a) ∨ e ∈ m := by
  induction m with
  | nil => exact .inl (List.mem_singleton.1 h)
  | cons b m ih =>
    rw [Machine.insert] at h
    split at h
    · exact List.mem_cons.1 h
    · split at h
      · exact (List.mem_cons.1 h).imp_right (List.mem_cons_of_mem _)
      · obtain rfl | h := List.mem_cons.1 h
        · exact .inr List.mem_cons_self
        · exact (ih h).imp_right (List.mem_cons_of_mem _)

theorem mem_of_find? {α : Type} {m : List (Nat × α)} {k : Nat} {a : α} (h : Machine.find? m k = some a) : (k, a) ∈ m := by
  induction m with
  | nil => cases h
  | cons b m ih =>
    rw [Machine.find?] at h
    split at h
    · next hk => cases h; exact hk ▸ List.mem_cons_self
    · exact List.mem_cons_of_mem _ (ih h)

/-- A drill that keeps its unperformed accesses puts no add-to-line under way. -/
theorem raddUnder_setDrill {s : State} {d : DrillRef} {x z : Drill} (hx : s.drill? d = some x) (hz : z.unperformed = x.unperformed) {n : Nat}
    (h : s.raddUnder d.slice n = false) : (s.setDrill d z).raddUnder d.slice n = false := by
  simp only [State.raddUnder, Bool.or_eq_false_iff, core_setDrill] at h ⊢
  obtain ⟨slots, saved⟩ := h
  refine ⟨List.any_eq_false.2 fun e he => ?_, saved⟩
  obtain rfl | he := mem_of_mem_insert he
  · have mine := List.any_eq_false.1 slots _ (mem_of_find? hx)
    dsimp only at mine ⊢
    rwa [hz]
  · exact List.any_eq_false.1 slots e he

theorem line?_setDrill (s : State) (d : DrillRef) (z : Drill) (k n : Nat) : (s.setDrill d z).line? k n = s.line? k n := by
  rw [State.line?, State.line?]
  by_cases h : k = d.slice
  · rw [h, core_setDrill]
  · rw [core_setDrill_other _ _ _ h]

theorem answer_setDrill (s : State) (d : DrillRef) (x : Drill) (m : MemWait) {n : Nat} (hm : m.due.contains n = true) (v : Sector) (q : Bool)
    (ws : List WaitLoad) : (s.setDrill d (waiting x m)).answer d n v q ws = s.setDrill d (waiting x (m.answer n v q ws)) := by
  rw [State.answer, modDrill_setDrill]
  simp only [waiting, Option.map_some, hm, if_true]

/-- A load that finds its sector stable in its own cache is answered there (Table 09-3). -/
theorem loadTry_hit {s : State} {d : DrillRef} {x : Drill} {w : DWord} {y : Xlat} {n : Nat} {l : CLine} (hr : s.raddUnder d.slice n = false)
    (hu : y.uncached = false) (hh : memHint w ≠ 3) (hl : s.line? d.slice n = some l) (hst : l.st = .s ∨ l.st = .m) (hloads : l.loads = [])
    (ws : List WaitLoad) : s.loadTry d x w y n ws = s.answer d n l.data l.poison ws := by
  have hit : s.cacheLoad d n (memHint w) ws = (s, .hit l.data l.poison) := by
    simp only [State.cacheLoad, hl, hloads]
    obtain h | h := hst <;> rw [h] <;> rfl
  rw [State.loadTry, hr, hit]
  simp [hu, hh]

/-- What awaits a due sector for one access of a load. -/
def loadWait (d : DrillRef) (x : Drill) (w : DWord) (e : Acc × Place) : WaitLoad :=
  { drill := d, context := x.context, thread := e.1.thread, byte := e.1.addr.toNat % 256, bytes := memBytes w, addr := e.1.addr, hint := memHint w,
    late := false, dead := false }

/-- A due device sector of a load. -/
theorem memTry_load {s : State} {d : DrillRef} {x : Drill} {m : MemWait} {key n b : Nat} {a : Acc} {y : Xlat} {mine rest : List (Acc × Place)}
    (hx : s.drill? d = some x) (hm : x.mem = some m) (hc : iCls m.word ≠ 6) (hdue : m.due.contains key = true)
    (hrev : s.revokedCtx x.context = false) (hload : memLoad m.word = true) (hpref : memPref m.word = false)
    (hmine : (accPlaces (s.memAccs x m)).filter (fun e => decide (e.2.key = key)) = mine) (hhead : mine = (a, .dev y n b) :: rest) :
    s.memTry d key = s.loadTry d x m.word y n (mine.map (loadWait d x m.word)) := by
  subst hhead
  have goes : ¬ (iCls m.word = 6 ∨ (!m.due.contains key) = true ∨ s.revokedCtx x.context = true) := by simp [hc, hrev, List.contains_iff_mem.1 hdue]
  rw [State.memTry, hx]
  simp only [hm, if_neg goes, hmine, hload, hpref]
  rfl

/-- The registers and paths once every answer is there. -/
def ended (x : Drill) (m : MemWait) : Drill :=
  if iCls m.word = 9 then Drill.lwaitEnd { x.takeAnswers m with mem := none } m else Drill.retire { x.takeAnswers m with mem := none }

/-- An instruction with nothing due and no poison ends. -/
theorem memFinish_done {s : State} {d : DrillRef} {x : Drill} {m : MemWait} (hx : s.drill? d = some x) (hm : x.mem = some m)
    (ha : x.status = .active) (hdue : m.due = []) (hbad : m.bad = []) : s.memFinish d = s.setDrill d (ended x m) := by
  have idle : ¬ ((!m.due.isEmpty) = true ∨ x.status ≠ .active) := by simp [hdue, ha]
  rw [State.memFinish, hx]
  simp only [hm, if_neg idle, hbad, List.map_nil, pickTrap, lowestTrap, ended]

end Sys2Proof.Answers
end

section
/-! SUPPORT. Fences, tally waits and lock waits (O8): R125, R161, R194, R196, R206, R209. -/

namespace Sys2Proof.Waits

open Sys2Proof Sys2Proof.Machine Sys2Proof.Claim Sys2Proof.Tokens Sys2Proof.ArrayEnd Sys2Proof.DrillPaths Sys2Proof.DrillIssue Sys2Proof.Joining
open Sys2Proof.Answers

/-! ## Fences (R161, R206, R209) -/

/-- The core without its host lines. -/
def dropHostLines (s : State) (d : DrillRef) : State := s.modCore d.slice fun c => { c with hostLines := [] }

/-- Whether all that MFENCE `w` waits for has been performed. -/
def fencePerformed (s : State) (d : DrillRef) (w : DWord) (x : Drill) : Bool :=
  if decide (iModBits w 10 9 ≠ 0) || x.g1 then s.allPerformed d x else x.addsPerformed

theorem exec_mfence (d : DrillRef) (f : Fetched) (s : State) : Machine.exec (.mfence d f) s = .next (s.issue d f 0x7 0x00 false fun x _ _ =>
    if iModBits f.word 8 7 ≠ 1 ∧ !fencePerformed s d f.word x then none
    else some (State.setDrill (if iModBits f.word 10 9 = 2 ∧ iModBits f.word 8 7 ≠ 2 then dropHostLines s d else s) d x.retire)) := rfl

theorem fencePerformed_of_all {s : State} {d : DrillRef} {w : DWord} {x : Drill} (h : s.allPerformed d x = true) : fencePerformed s d w x = true := by
  have none : x.unperformed = [] := List.isEmpty_iff.1 (Bool.and_eq_true_iff.1 h).1
  rw [fencePerformed, h, Drill.addsPerformed, none]
  simp

theorem fencePerformed_of_adds {s : State} {d : DrillRef} {w : DWord} {x : Drill} (hs : iModBits w 10 9 = 0) (hg : x.g1 = false)
    (h : ∀ u ∈ x.unperformed, iCls u.word ≠ 6) : fencePerformed s d w x = true := by
  rw [fencePerformed, if_neg (by simp [hs, hg]), Drill.addsPerformed, List.all_eq_true]
  exact fun u hu => decide_eq_true (h u hu)

theorem fenceCompletesOncePerformed : Claim.FenceCompletesOncePerformed := by
  refine ⟨fun s d f x p act h hk hs hp => ?held, fun s d f x p act h hdone => ?done⟩
  case held =>
    refine exec_of_held (coll := false) h nofun (exec_mfence d f s) (if_pos ⟨hk, ?_⟩)
    rw [fencePerformed, if_pos (by simp [hs]), hp]
    rfl
  case done =>
    obtain ⟨-, hcur, -⟩ := id h
    have goes : ¬ (iModBits f.word 8 7 ≠ 1 ∧ (!fencePerformed s d f.word x) = true) := by
      rintro ⟨hk, hn⟩
      have performed : fencePerformed s d f.word x = true := by
        obtain hall | hacq | ⟨hs, hg, hadds⟩ := hdone
        · exact fencePerformed_of_all hall
        · exact absurd hacq hk
        · exact fencePerformed_of_adds hs hg hadds
      rw [performed] at hn
      cases hn
    refine ⟨fun keeps => onlyGoesOn_of_body h (exec_mfence d f s) ?_, fun drops => ?_⟩
    · exact (if_neg goes).trans (by rw [if_neg keeps])
    · have he := exec_of_body (coll := false) h nofun (exec_mfence d f s) ((if_neg goes).trans (by rw [if_pos drops]))
      have core : ((dropHostLines s d).setDrill d x.retire).core d.slice =
          { s.core d.slice with hostLines := [], drills := Machine.insert (s.core d.slice).drills (slotKey d) x.retire } := by
        rw [core_setDrill, dropHostLines, State.core_modCore]
      obtain ⟨m, metered⟩ := meter_core ((dropHostLines s d).setDrill d x.retire) d.slice 2 1 d.slice
      refine ⟨_, x.retire, he, (meter_drill? _ _ _ _ _).trans (drill?_setDrill_same _ _ _), ⟨x.retire_g, x.retire_p, x.retire_u⟩,
        (x.retire_goes p hcur).1, by rw [metered, core], State.meter_mem _ _ _ _, by rw [metered, core]⟩

/-! ## Tally counters (R194, R196) -/

theorem tallyOf?_of_own {s : State} {d : DrillRef} {x : Drill} {ut : Word} (h : OwnTally s d x ut) :
    s.tallyOf? d x ut = some ((s.core d.slice).tally ut.toNat) := by
  obtain ⟨hlt, howner⟩ := h
  rw [State.tallyOf?, Nat.mod_eq_of_lt hlt]
  exact if_pos ⟨hlt, howner⟩

theorem tallyReached_iff {v t : Word} : tallyReached v t = true ↔ reached v t := decide_eq_true_iff

/-- TWAIT of a counter that the drill's context owns. -/
def twaitBody (d : DrillRef) (f : Fetched) (s : State) (x : Drill) (p : Path) (act : DWord) : Option State :=
  match s.tallyOf? d x (x.srcA f.word 0) with
  | none => some (s.park d .notMapped act ((x.srcA f.word 0).setWidth 64) f.word)
  | some t =>
    if tallyReached t.value (x.srcB f.word 0) then some (s.setDrill d x.retire)
    else some (s.setDrill d (x.waitAt p.mask p.pc (.tally (x.srcA f.word 0).toNat (x.srcB f.word 0))).runLowest)

theorem exec_twait (d : DrillRef) (f : Fetched) (s : State) : Machine.exec (.twait d f) s = .next (s.issue d f 0x8 0x00 false (twaitBody d f s)) := rfl

def tpollBody (d : DrillRef) (f : Fetched) (s : State) (x : Drill) (_ : Path) (act : DWord) : Option State :=
  match s.tallyOf? d x (x.srcA f.word 0) with
  | none => some (s.park d .notMapped act ((x.srcA f.word 0).setWidth 64) f.word)
  | some t => some (s.setDrill d (x.writePred f.word act fun _ => tallyReached t.value (x.srcB f.word 0)).retire)

theorem exec_tpoll (d : DrillRef) (f : Fetched) (s : State) : Machine.exec (.tpoll d f) s = .next (s.issue d f 0x8 0x01 false (tpollBody d f s)) := rfl

def treadBody (d : DrillRef) (f : Fetched) (s : State) (x : Drill) (_ : Path) (act : DWord) : Option State :=
  match s.tallyOf? d x (x.srcA f.word 0) with
  | none => some (s.park d .notMapped act ((x.srcA f.word 0).setWidth 64) f.word)
  | some t => some (s.setDrill d (x.setU (iDst f.word) t.value).retire)

theorem exec_tread (d : DrillRef) (f : Fetched) (s : State) : Machine.exec (.tread d f) s = .next (s.issue d f 0x8 0x02 false (treadBody d f s)) := rfl

/-- The row of TREAD: a drill-uniform destination. -/
theorem tread_uniform {w : DWord} (hc : iCls w = 0x8) (ho : iOp w = 0x02) (hl : legalWord w = true) : iDU w = true := by
  have row : ∃ sp, opSpec w = some sp ∧ sp.dst = .ureg 1 := by
    unfold opSpec; rw [hc, ho]; exact ⟨_, rfl, rfl⟩
  obtain ⟨sp, hs, hd⟩ := row
  exact iDU_of_ureg_dst hl hs hd

theorem tallyWaitsFollowTheSignedComparison : Claim.TallyWaitsFollowTheSignedComparison := by
  refine ⟨fun s d f x p act h own => ⟨fun hr => ?reached, fun hr => ?blocked⟩, fun s d f x p act h own => ?poll, fun s d f x p act h own => ?read⟩
  case reached =>
    refine onlyGoesOn_of_body h (exec_twait d f s) ?_
    rw [twaitBody, tallyOf?_of_own own]
    exact if_pos (tallyReached_iff.2 hr)
  case blocked =>
    refine blocks_of_body h (exec_twait d f s) ?_ nofun
    rw [twaitBody, tallyOf?_of_own own]
    exact if_neg fun hn => hr (tallyReached_iff.1 hn)
  case poll =>
    refine polls_of_body h (exec_tpoll d f s) ?_
    rw [tpollBody, tallyOf?_of_own own]
    rfl
  case read =>
    obtain ⟨-, -, -, -, -, -, hcls, hop, -, -, hlegal, -⟩ := id h
    refine ⟨_, _, exec_tread d f s, goesOn_of_body h (z := x.setU (iDst f.word) _) ?_ rfl,
      wrote_retire (wrote_setU (tread_uniform hcls hop hlegal) act x _)⟩
    rw [treadBody, tallyOf?_of_own own]

/-! ## Lock waits (R125) -/

/-- Rotation leaves a waiting path among the others. -/
theorem mem_rotate {y : Drill} {r : Path} (hc : y.cur = none) (hr : r ∈ y.paths) (hw : r.wait ≠ .runnable) : r ∈ y.rotate.paths := by
  rw [Drill.rotate, hc]
  dsimp only
  split
  · next q hq =>
    rw [Drill.run, shelve_of_none hc]
    exact mem_removeFirst hr (by simp [runnable_of_longestWaiting hq, hw])
  · exact hr

/-- The device sector that a place lies in. -/
def devSector : Place → Option Nat
  | .dev _ n _ => some n
  | _ => none

theorem devSector_devAcc (x : Drill) (w : DWord) (y : Nat → Xlat) (n : Nat → Nat) (ts : List Nat) :
    (ts.map fun k => (devAcc x w y n k, devPlace x w y n k)).filterMap (fun e => devSector e.2) = ts.map n := by
  rw [List.filterMap_map, ← List.filterMap_eq_map]
  rfl

/-- LWAIT once it is issued. -/
def lwaitBody (d : DrillRef) (f : Fetched) (s : State) (x : Drill) (_ : Path) (act : DWord) : Option State :=
  let as := s.accs x f.word (threads act) 4 false false
  match pickTrap (accTraps as) with
  | some (t, mask, a) => some (s.park d t mask a f.word)
  | none =>
    let ps := accPlaces as
    if accHeld as ∨ s.tracked d.slice (ps.flatMap fun e => e.2.span e.1.addr 4) [] then none
    else
      match s.hostLoads d x 4 false ps with
      | none => none
      | some (s, got) =>
        let due := distinct (ps.filterMap fun e => devSector e.2)
        let m : MemWait := { word := f.word, active := act, due := due, got := got, bad := [],
                             watch := distinct (ps.map fun e => s.watchKey x e.2), woken := false }
        some ((s.setDrill d { (s.drill? d).getD x with mem := some m }).memPump d)

theorem exec_lwait {d : DrillRef} {f : Fetched} {s : State} {x : Drill} (hx : s.drill? d = some x) (hm : x.mem = none) :
    Machine.exec (.lwait d f) s = .next (s.issue d f 0x9 0x00 false (lwaitBody d f s)) := by
  have idle : (s.drill? d).bind (·.mem) = none := by rw [hx]; exact hm
  rw [show Machine.exec (.lwait d f) s = execLwait d f s from rfl, execLwait, idle]
  rfl

/-- What LWAIT awaits: the sectors of its words. -/
def lwaitDue (w act : DWord) (n : Nat → Nat) : MemWait :=
  { word := w, active := act, due := distinct ((threads act).map n), got := [], bad := [], watch := distinct ((threads act).map n), woken := false }

/-- The threads of an LWAIT that read one sector. -/
def sharers (act : DWord) (n : Nat → Nat) (key : Nat) : List Nat := (threads act).filter fun k => decide (n k = key)

theorem mem_sharers {act : DWord} {n : Nat → Nat} {key k : Nat} : k ∈ sharers act n key ↔ k ∈ threads act ∧ n k = key := by simp [sharers]

theorem lwait_mine (x : Drill) (w act : DWord) (y : Nat → Xlat) (n : Nat → Nat) (key : Nat) :
    ((threads act).map fun k => (devAcc x w y n k, devPlace x w y n k)).filter (fun e => decide (e.2.key = key)) =
      (sharers act n key).map fun k => (devAcc x w y n k, devPlace x w y n k) := by
  rw [List.filter_map]
  rfl

section
variable {s : State} {d : DrillRef} {x : Drill} {w act : DWord} {y : Nat → Xlat} {n : Nat → Nat} {l : Nat → CLine} (h : LwaitFine s d x w act y n l)
include h

theorem lwait_accs : s.accs x w (threads act) 4 false false = (threads act).map (devAcc x w y n) := by
  obtain ⟨-, -, -, fine⟩ := h
  exact accs_eq_devAcc x w y n _ (fun k hk => (fine k hk).1) fun k hk => (fine k hk).2.1

theorem lwait_body {f : Fetched} (hf : f.word = w) (hx : s.drill? d = some x) (p : Path) :
    lwaitBody d f s x p act = some ((s.setDrill d (waiting x (lwaitDue w act n))).memPump d) := by
  subst hf
  have free : ¬ (accHeld ((threads act).map (devAcc x f.word y n)) = true ∨ s.tracked d.slice
      (((threads act).map fun k => (devAcc x f.word y n k, devPlace x f.word y n k)).flatMap fun e => e.2.span e.1.addr 4) [] = true) := by
    obtain ⟨hq, hxf, hc, -⟩ := id h
    simp [accHeld_devAcc, tracked_of_idle hq hxf hc]
  rw [lwaitBody, lwait_accs h, accTraps_devAcc, accPlaces_devAcc]
  simp only [pickTrap, lowestTrap, if_neg free, hostLoads_devAcc, devSector_devAcc, hx, List.map_map]
  rfl

/-- The word that thread `k` reads, with the thread. -/
def lwaitGot (x : Drill) (w : DWord) (l : Nat → CLine) (k : Nat) : Nat × Nat :=
  (k, leNat (sectorBytes (l k).data ((x.globalAddr w k).toNat % 256) 4))

/-- A waiting LWAIT accesses what it accessed when it was issued. -/
theorem lwait_memAccs (hc : iCls w = 9) {m : MemWait} (hw : m.word = w) (hact : m.active = act) :
    (s.setDrill d (waiting x m)).memAccs (waiting x m) m = (threads act).map (devAcc x w y n) := by
  obtain ⟨-, -, -, fine⟩ := h
  have threads_eq : memThreads w act = threads act := if_neg (by simp [hc])
  have bytes : (if memPref w then 1 else memBytes w) = 4 := by simp [memPref, memBytes, hc]
  have reads : (!memLoad w && !memPref w) = false := by simp [memLoad, hc]
  have own : decide (iCls w = 5 ∧ iOp w ≠ 1) = false := by simp [hc]
  rw [State.memAccs, hw, hact, if_neg (by rw [hc]; decide), threads_eq, bytes, reads, own]
  exact accs_eq_devAcc (waiting x m) w y n _ (fun k hk => (fine k hk).1) fun k hk => (resolve_setDrill s d rfl rfl _ _ _ _).trans (fine k hk).2.1

/-- The words that a sector gives to the threads that read it. -/
theorem answer_got (hc : iCls w = 9) {m : MemWait} {j : Nat} (hj : j ∈ threads act) {ks : List Nat} (hdue : m.due = n j :: ks) :
    m.answer (n j) (l j).data false ((sharers act n (n j)).map fun k => loadWait d x w (devAcc x w y n k, devPlace x w y n k)) =
      { m with due := ks, got := m.got ++ (sharers act n (n j)).map (lwaitGot x w l) } := by
  obtain ⟨-, -, -, fine⟩ := h
  have line (k : Nat) (hk : k ∈ sharers act n (n j)) : l k = l j := by
    obtain ⟨hk, hn⟩ := mem_sharers.1 hk
    obtain ⟨-, -, -, -, found, -⟩ := fine k hk
    obtain ⟨-, -, -, -, found', -⟩ := fine j hj
    rw [hn, found'] at found
    exact (Option.some.inj found).symm
  have words : ((sharers act n (n j)).map fun k => loadWait d x w (devAcc x w y n k, devPlace x w y n k)).map
      (fun w => (w.thread, leNat (sectorBytes (l j).data w.byte w.bytes))) = (sharers act n (n j)).map (lwaitGot x w l) := by
    rw [List.map_map]
    refine List.map_congr_left fun k hk => ?_
    rw [lwaitGot, line k hk]
    simp only [Function.comp_apply, loadWait, memBytes, if_pos hc]
    rfl
  have rest : removeFirst (fun k => decide (k = n j)) m.due = ks := by rw [hdue]; exact if_pos (decide_eq_true rfl)
  rw [MemWait.answer, rest, ← words]
  rfl

/-- One due sector of LWAIT is answered at once. -/
theorem lwait_memTry (hx : s.drill? d = some x) (hc : iCls w = 9) (hrev : s.revokedCtx x.context = false) {m : MemWait} (hw : m.word = w)
    (hact : m.active = act) {j : Nat} (hj : j ∈ threads act) {ks : List Nat} (hdue : m.due = n j :: ks) :
    (s.setDrill d (waiting x m)).memTry d (n j) = s.setDrill d (waiting x { m with
      due := ks, got := m.got ++ (sharers act n (n j)).map (lwaitGot x w l) }) := by
  have due : m.due.contains (n j) = true := by rw [hdue]; simp
  obtain ⟨isLoad, notPref, hint⟩ : memLoad w = true ∧ memPref w = false ∧ memHint w = 0 := by simp [memLoad, memPref, memHint, hc]
  obtain ⟨k, rest, hk⟩ := List.exists_cons_of_ne_nil (List.ne_nil_of_mem (mem_sharers.2 ⟨hj, rfl⟩ : j ∈ sharers act n (n j)))
  obtain ⟨hkt, hkn⟩ : k ∈ threads act ∧ n k = n j := mem_sharers.1 (hk ▸ List.mem_cons_self)
  have tried := memTry_load (drill?_setDrill_same s d (waiting x m)) rfl (by rw [hw, hc]; decide) due hrev (hw ▸ isLoad) (hw ▸ notPref)
    (by rw [lwait_memAccs h hc hw hact, accPlaces_devAcc, lwait_mine]) (by rw [hk]; rfl)
  rw [hw, List.map_map] at tried
  obtain ⟨-, -, -, fine⟩ := id h
  obtain ⟨-, -, cached, quiet, -⟩ := fine k hkt
  obtain ⟨-, -, -, -, line, stable, clean, noLoads⟩ := fine j hj
  rw [tried, hkn, loadTry_hit (raddUnder_setDrill (z := waiting x m) hx rfl (hkn ▸ quiet)) cached (by rw [hint]; decide)
    ((line?_setDrill _ _ _ _ _).trans line) stable noLoads, clean, answer_setDrill _ _ _ _ due]
  exact congrArg (fun m => s.setDrill d (waiting x m)) (answer_got h hc hj hdue)

/-- Every due sector of LWAIT is answered at once; what comes in is the words of the threads that read them. -/
theorem lwait_memTry_all (hx : s.drill? d = some x) (hc : iCls w = 9) (hrev : s.revokedCtx x.context = false) (ks : List Nat)
    (hks : ∀ key ∈ ks, ∃ j ∈ threads act, n j = key) (m : MemWait) (hw : m.word = w) (hact : m.active = act) (hdue : m.due = ks) :
    ∃ got, ks.foldl (fun t key => t.memTry d key) (s.setDrill d (waiting x m)) = s.setDrill d (waiting x { m with due := [], got := got }) ∧
      ∀ e, e ∈ got ↔ e ∈ m.got ∨ ∃ k ∈ threads act, n k ∈ ks ∧ lwaitGot x w l k = e := by
  induction ks generalizing m with
  | nil =>
    have same : m = { m with due := [] } := by rw [← hdue]
    exact ⟨m.got, congrArg (fun m => s.setDrill d (waiting x m)) same, by simp⟩
  | cons key ks ih =>
    obtain ⟨j, hj, rfl⟩ := hks key List.mem_cons_self
    obtain ⟨got, tried, hgot⟩ := ih (fun key hk => hks key (List.mem_cons_of_mem _ hk))
      { m with due := ks, got := m.got ++ (sharers act n (n j)).map (lwaitGot x w l) } hw hact rfl
    refine ⟨got, ?_, fun e => (hgot e).trans ?_⟩
    · rw [List.foldl_cons, lwait_memTry h hx hc hrev hw hact hj hdue]
      exact tried
    · simp only [List.mem_append, List.mem_map, mem_sharers, List.mem_cons, or_assoc]
      refine or_congr_right ⟨?_, ?_⟩
      · rintro (⟨k, ⟨hk, hn⟩, rfl⟩ | ⟨k, hk, hn, rfl⟩)
        · exact ⟨k, hk, .inl hn, rfl⟩
        · exact ⟨k, hk, .inr hn, rfl⟩
      · rintro ⟨k, hk, hn | hn, rfl⟩
        · exact .inl ⟨k, ⟨hk, hn⟩, rfl⟩
        · exact .inr ⟨k, hk, hn, rfl⟩

end

/-- An LWAIT that no write has woken compares its words. -/
theorem lwaitEnd_eq {x : Drill} {p : Path} {m : MemWait} (hc : x.cur = some p) (hw : m.woken = false) : x.lwaitEnd m =
    if m.got.any fun e => decide (BitVec.ofNat 32 e.2 = x.srcB m.word e.1) then (x.waitAt m.active (p.pc + 8) (.lock m.watch)).rotate
    else x.retire := by
  rw [Drill.lwaitEnd, hc]
  simp [hw]

/-- How an LWAIT with all its words ends. -/
theorem ended_lwait {x : Drill} {m : MemWait} (hc : iCls m.word = 9) (hm : x.mem = none) : ended (waiting x m) m = x.lwaitEnd m := by
  have keeps : (waiting x m).takeAnswers m = waiting x m := by rw [Drill.takeAnswers, hc]; rfl
  have back : { waiting x m with mem := none } = x := by rw [waiting, ← hm]
  rw [ended, if_pos hc, keeps, back]

theorem lwait_finishes (s : State) (d : DrillRef) {x : Drill} {p : Path} {m : MemWait} (hcur : x.cur = some p) (hactive : x.status = .active)
    (hmem : x.mem = none) (hc : iCls m.word = 9) (hdue : m.due = []) (hbad : m.bad = []) (hw : m.woken = false) :
    (s.setDrill d (waiting x m)).memFinish d = s.setDrill d (
      if m.got.any fun e => decide (BitVec.ofNat 32 e.2 = x.srcB m.word e.1) then (x.waitAt m.active (p.pc + 8) (.lock m.watch)).rotate
      else x.retire) := by
  rw [memFinish_done (drill?_setDrill_same s d (waiting x m)) rfl hactive hdue hbad, setDrill_setDrill, ended_lwait hc hmem, lwaitEnd_eq hcur hw]

theorem mem_distinct {l : List Nat} {k : Nat} : k ∈ distinct l ↔ k ∈ l := by
  have fold (l acc : List Nat) : k ∈ l.foldl (fun a k => addOnce k a) acc ↔ k ∈ acc ∨ k ∈ l := by
    induction l generalizing acc with
    | nil => simp
    | cons b l ih =>
      rw [List.foldl_cons, ih, addOnce, List.mem_cons, ← or_assoc]
      refine or_congr_left ?_
      split
      · next h => exact ⟨.inl, fun h' => h'.elim id fun e => e ▸ List.contains_iff_mem.1 h⟩
      · simp
  rw [distinct, fold]
  simp

section
variable {s : State} {d : DrillRef} {f : Fetched} {x : Drill} {p : Path} {act : DWord} {y : Nat → Xlat} {n : Nat → Nat} {l : Nat → CLine}
  (h : Ready s d f 0x9 0x00 x p act) (hf : LwaitFine s d x f.word act y n l)
include h hf

/-- LWAIT compares at once: the path goes on, or its active threads wait past the instruction. -/
theorem lwait_body_eq : lwaitBody d f s x p act = some (s.setDrill d (
    if ∃ k ∈ threads act, lwaitWord x f.word l k = x.srcB f.word k
      then (x.waitAt act (p.pc + 8) (.lock (distinct ((threads act).map n)))).rotate else x.retire)) := by
  obtain ⟨hx, hcur, -, hactive, hmem, -, hcls, -, -, -, -, -, hrev⟩ := id h
  obtain ⟨got, tried, hgot⟩ := lwait_memTry_all hf hx hcls hrev (distinct ((threads act).map n)) (fun key hk => by simpa using mem_distinct.1 hk)
    (lwaitDue f.word act n) rfl rfl rfl
  have compares : (got.any fun e => decide (BitVec.ofNat 32 e.2 = x.srcB f.word e.1)) = true ↔
      ∃ k ∈ threads act, lwaitWord x f.word l k = x.srcB f.word k := by
    rw [List.any_eq_true]
    constructor
    · rintro ⟨e, he, heq⟩
      obtain he | ⟨k, hk, -, rfl⟩ := (hgot e).1 he
      · exact absurd he List.not_mem_nil
      · exact ⟨k, hk, of_decide_eq_true heq⟩
    · rintro ⟨k, hk, heq⟩
      exact ⟨lwaitGot x f.word l k, (hgot _).2 (.inr ⟨k, hk, mem_distinct.2 (List.mem_map_of_mem hk), rfl⟩), decide_eq_true heq⟩
  have pumped : (s.setDrill d (waiting x (lwaitDue f.word act n))).memPump d =
      (s.setDrill d (waiting x { lwaitDue f.word act n with due := [], got := got })).memFinish d := by
    rw [State.memPump, drill?_setDrill_same]
    exact congrArg (State.memFinish · d) tried
  rw [lwait_body hf rfl hx, pumped,
    lwait_finishes s d (m := { lwaitDue f.word act n with due := [], got := got }) hcur hactive hmem hcls rfl rfl rfl]
  refine congrArg (fun z => some (s.setDrill d z)) ?_
  by_cases equal : ∃ k ∈ threads act, lwaitWord x f.word l k = x.srcB f.word k
  · rw [if_pos equal]
    exact if_pos (compares.2 equal)
  · rw [if_neg equal]
    exact if_neg fun hn => equal (compares.1 hn)

end

theorem lockWaitWaitsWhileTheWordIsUnchanged : Claim.LockWaitWaitsWhileTheWordIsUnchanged := by
  refine ⟨fun s d f x p act y n l h hf => ?issued, fun s d pc x q ls hin hup hx ha hq hpc hw => ?timeout⟩
  case issued =>
    obtain ⟨hx, hcur, -, -, hmem, -⟩ := id h
    have body := lwait_body_eq h hf
    refine ⟨fun differ => onlyGoesOn_of_body h (exec_lwait hx hmem) ?_, fun equal => ?_⟩
    · rw [body, if_neg fun ⟨k, hk, he⟩ => differ k hk he]
    · rw [if_pos equal] at body
      obtain ⟨t, he, drill, only⟩ := drill_effect_of_body (coll := false) h nofun (exec_lwait hx hmem) body
      obtain ⟨q, hq, hpc, hw, hm⟩ := among_waitAt hcur act (p.pc + 8) (.lock (distinct ((threads act).map n)))
      exact ⟨t, _, q, _, he, drill, claimSameRegs ((x.waitAt_same _ _ _).trans (Drill.rotate_same _)), only,
        mem_rotate (waitAt_cur hcur _ _ _) hq (by rw [hw]; nofun), hpc, hw, (BitVec.and_comm _ _).trans hm,
        fun k hk => mem_distinct.2 (List.mem_map_of_mem hk)⟩
  case timeout =>
    have he : Machine.exec (.lwaitTimeout d pc) s = .next (s.setDrill d (freed x fun q => q.wait.isLock && decide (q.pc = pc))) := by
      rw [show Machine.exec (.lwaitTimeout d pc) s = execLwaitTimeout d pc s from rfl, execLwaitTimeout, if_pos ⟨hin, hup⟩, State.modDrill, hx]
      rfl
    have hit : (q.wait.isLock && decide (q.pc = pc)) = true := by simp [hw, hpc, Wait.isLock]
    obtain ⟨-, somewhere⟩ := stands_freed (hit := fun q => q.wait.isLock && decide (q.pc = pc)) ha hq hit
    refine ⟨_, _, he, drill?_setDrill_same _ _ _, claimSameRegs (freed_same _ _), rfl, fun r hr hrpc ls hls => ?_, ?_⟩
    · have left := not_hit_of_mem_freed (hit := fun q => q.wait.isLock && decide (q.pc = pc)) ha (fun r hr => by simp [hr, Wait.isLock]) hr
      simp [hls, hrpc, Wait.isLock] at left
    · obtain ⟨r, hr, hrpc, hm⟩ | ⟨r, hr, hrpc, -, hm⟩ := somewhere
      · exact ⟨r, .inl hr, hrpc.trans hpc, (BitVec.and_comm _ _).trans hm⟩
      · exact ⟨r, .inr hr, hrpc.trans hpc, (BitVec.and_comm _ _).trans hm⟩

/-- Settles O8: fences and tally waits by their conditions, lock waits by the words that the core's own cache gives at once. -/
theorem fencesAndMemoryWaits : Obligations.FencesAndMemoryWaits := by
  unfold Obligations.FencesAndMemoryWaits
  exact ⟨fenceCompletesOncePerformed, tallyWaitsFollowTheSignedComparison, lockWaitWaitsWhileTheWordIsUnchanged⟩

end Sys2Proof.Waits
end

section
/-! SUPPORT. Slots and parkings (O13): launches, fault records, drains, and the outcomes of a parking (R111, R113, R121, R136, R137). -/

namespace Sys2Proof.Parking

open Sys2Proof Sys2Proof.Machine Sys2Proof.Claim Sys2Proof.Tokens Sys2Proof.ArrayEnd Sys2Proof.HostPort Sys2Proof.DrillPaths Sys2Proof.DrillIssue
open Sys2Proof.Answers

/-! ## Events leave the dies alone (R363, R481) -/

theorem dies_logCode (s : State) (c : Code) : (s.logCode c).dies = s.dies := by
  unfold State.logCode
  dsimp only
  split <;> split <;> rfl

theorem dies_record (s : State) (c type : Nat) (bs : List Byte) : (s.record c type bs).dies = s.dies := by
  unfold State.record
  split
  · rfl
  · split
    · rfl
    · dsimp only; split <;> rfl

theorem dies_hostWrite {s t : State} {f : Nat} {pasid : Option Nat} {iova : Nat} {bs : List Byte} {due : Bool}
    (h : s.hostWrite f pasid iova bs = some (t, due)) : t.dies = s.dies := by
  unfold State.hostWrite at h
  split at h
  · cases h
  · next u put =>
    have kept : u.dies = s.dies := by
      unfold State.hostPut at put
      split at put
      · cases put; rfl
      · cases put
    split at h <;> cases h <;> exact kept

theorem dies_signal (s : State) (f q : Nat) : (s.signal f q).dies = s.dies := by
  unfold State.signal
  split
  · rfl
  · dsimp only; split <;> rfl

theorem dies_ringWrite (s : State) (f q : Nat) (e : Cqe) : (s.ringWrite f q e).1.dies = s.dies := by
  unfold State.ringWrite
  split
  · rfl
  · dsimp only
    split
    · split <;> rfl
    · next u _ recorded =>
      have kept : u.dies = s.dies := by
        split at recorded
        · split at recorded
          · exact dies_hostWrite recorded
          · cases recorded; rfl
        · cases recorded; rfl
      split
      · split <;> rfl
      · next written =>
        have kept := (dies_hostWrite written).trans kept
        rw [apply_ite State.dies, dies_signal, ite_self]
        split
        · rw [dies_record, apply_ite State.dies, dies_record, ite_self]
          exact kept
        · exact kept

theorem dies_cqPush (s : State) (f q : Nat) (e : Cqe) : (s.cqPush f q e).1.dies = s.dies := by
  unfold State.cqPush
  split
  · rfl
  · split
    · rfl
    · split
      · exact dies_ringWrite s f q e
      · split <;> rfl

theorem dies_replayOut (s : State) (c : Nat) (e : Cqe) : (s.replayOut c e).dies = s.dies := by
  unfold State.replayOut
  split <;> rfl

theorem dies_deliver (n : Nat) (s : State) (ds : List Due) : (State.deliver n s ds).dies = s.dies := by
  induction n generalizing s ds with
  | zero => rfl
  | succ n ih =>
    unfold State.deliver
    generalize hp : ds.foldl _ (s, ([] : List (Nat × Code))) = p
    have sent : p.1.dies = s.dies := by
      rw [← hp]
      refine List.foldlRecOn ds _ (motive := fun (a : State × List (Nat × Code)) => a.1.dies = s.dies) rfl fun a ha d _ => ?_
      dsimp only
      split
      · split
        · exact (dies_replayOut _ _ _).trans ha
        · exact (dies_cqPush _ _ _ _).trans ha
      · exact (dies_cqPush _ _ _ _).trans ha
    dsimp only
    split
    · exact sent
    · rw [ih]
      exact List.foldlRecOn p.2 _ (motive := fun (a : State × List Due) => a.1.dies = s.dies) sent fun a ha fc _ => (dies_logCode _ _).trans ha

theorem dies_reportComps (s : State) (c : Code) (cs : List Nat) (v : Option Nat) (r : Option (List DWord)) :
    (s.reportComps c cs v r).dies = s.dies :=
  (dies_deliver _ _ _).trans (dies_logCode s c)

/-! ## Launch (R111, R113) -/

theorem drill_launch (l : Launch) (g1 : Bool) (k r : Nat) (hk : k < 64) (hr : r < 64) :
    (l.drill g1).greg k r = if r = 0 then BitVec.ofNat 32 k else 0 := by
  have fold (ts : List Nat) (m : List (Nat × Word)) : getD 0 (ts.foldl (fun m t => setD 0 m (64 * t) (BitVec.ofNat 32 t)) m) (64 * k + r) =
      if r = 0 ∧ k ∈ ts then BitVec.ofNat 32 k else getD 0 m (64 * k + r) := by
    induction ts generalizing m with
    | nil => simp
    | cons t ts ih =>
      rw [List.foldl_cons, ih, getD_setD]
      by_cases here : 64 * k + r = 64 * t
      · obtain ⟨rfl, rfl⟩ : r = 0 ∧ k = t := by omega
        simp
      · rw [if_neg here]
        by_cases h0 : r = 0
        · have : k ≠ t := by omega
          simp [h0, this]
        · simp [h0]
  have all : k ∈ upto 64 := by simpa [upto] using hk
  rw [Drill.greg, Launch.drill, fold]
  simp only [all, and_true]
  rfl

theorem bits_eq_shiftRight (w : DWord) : bits w 63 61 = (w >>> 61).toNat := by
  have := w.isLt
  simp [bits, Nat.shiftRight_eq_div_pow]
  omega

/-- A launch record taken to a slot that is free. -/
theorem exec_launch {s : State} {slice : Nat} {l : Launch} {rest : List Launch} {i : Nat} (hc : s.coreIssues slice = true)
    (hl : (s.core slice).launches = l :: rest) (hok : l.ok = true) (hrev : s.revokedCtx l.ctx = false) (he : l.engine < 4)
    (hi : ((s.core slice).freeSlots l.engine).head? = some i) : ∃ g1, Machine.exec (.launchRecordTake slice) s = .next (s.setCore slice
      { s.core slice with launches := rest, drills := Machine.insert (s.core slice).drills (8 * l.engine + i) (l.drill g1) }) := by
  obtain ⟨is, slots⟩ : ∃ is, (s.core slice).freeSlots l.engine = i :: is := List.head?_eq_some_iff.1 hi
  have engine : (if l.engine = 4 then (s.core slice).freest else l.engine) = l.engine := if_neg (by omega)
  refine ⟨((s.comp? l.comp).bind fun k => (k.mapOf l.epoch).map (·.g1)).getD false, ?_⟩
  rw [show Machine.exec (.launchRecordTake slice) s = execLaunchRecordTake slice s from rfl, execLaunchRecordTake]
  simp only [hl, hc, hrev, hok, engine, slots]
  rfl

theorem launchFillsASlot {s : State} {slice : Nat} {l : Launch} {rest : List Launch} {i : Nat} (hc : s.coreIssues slice = true)
    (hl : (s.core slice).launches = l :: rest) (hok : l.ok = true) (hrev : s.revokedCtx l.ctx = false) (he : l.engine < 4)
    (hi : ((s.core slice).freeSlots l.engine).head? = some i) :
    ∃ t x p, Machine.exec (.launchRecordTake slice) s = .next t ∧ (t.core slice).launches = rest ∧
      find? (t.core slice).drills (8 * l.engine + i) = some x ∧ x.cur = some p ∧ p.mask = l.w1 ∧ p.pc = l.w0.setWidth 48 ∧ x.paths = [] ∧
      x.status = .active ∧ x.nregs = ((l.w3 >>> 61).toNat + 1) * 8 ∧ x.ureg 0 = l.w2.extractLsb' 32 32 ∧ x.ureg 1 = l.w2.extractLsb' 0 32 ∧
      (∀ k, k < 64 → x.greg k 0 = BitVec.ofNat 32 k) ∧ (∀ k r, k < 64 → r < 64 → r ≠ 0 → x.greg k r = 0) ∧ (∀ r, x.preg r = 0) ∧
      (∀ r, 2 ≤ r → x.ureg r = 0) ∧ t.mem = s.mem := by
  obtain ⟨g1, run⟩ := exec_launch hc hl hok hrev he hi
  have uniform (r : Nat) : (l.drill g1).ureg r = if r = 1 then BitVec.ofNat 32 (bits l.w2 31 0)
      else if r = 0 then BitVec.ofNat 32 (bits l.w2 63 32) else 0 := by
    rw [Drill.ureg, Launch.drill, getD_setD, getD_setD]
    rfl
  refine ⟨_, l.drill g1, _, run, by rw [State.core_setCore], by rw [State.core_setCore]; exact find?_insert_same _ _ _, rfl, rfl, rfl, rfl, rfl,
    ?_, ?_, ?_, fun k hk => ?_, fun k r hk hr h0 => ?_, fun r => rfl, fun r hr => ?_, rfl⟩
  · rw [← bits_eq_shiftRight]; rfl
  · rw [uniform]
    exact BitVec.eq_of_toNat_eq (by simp [bits, Nat.shiftRight_eq_div_pow])
  · rw [uniform]
    exact BitVec.eq_of_toNat_eq (by simp [bits])
  · exact (drill_launch l g1 k 0 hk (by decide)).trans (if_pos rfl)
  · exact (drill_launch l g1 k r hk hr).trans (if_neg h0)
  · rw [uniform, if_neg (by omega), if_neg (by omega)]

/-! ## Drains (R121) -/

theorem drill?_freeDrill (s : State) (d e : DrillRef) :
    (s.freeDrill d).drill? e = if e.slice = d.slice ∧ slotKey e = slotKey d then none else s.drill? e := by
  rw [State.drill?, State.drill?, State.freeDrill]
  by_cases hs : e.slice = d.slice
  · rw [hs, State.core_modCore]
    by_cases hk : slotKey e = slotKey d
    · rw [if_pos ⟨rfl, hk⟩, hk]; exact find?_erase_same _ _
    · rw [if_neg fun h => hk h.2]; exact find?_erase_other _ hk
  · rw [State.core_modCore_other _ _ hs, if_neg fun h => hs h.1]

/-- A drained drill leaves its slot. -/
theorem drainDrill_free {s : State} {d : DrillRef} {x : Drill} {pc : BitVec 48} {m w : DWord} (hx : s.drill? d = some x)
    (hst : x.status = .draining pc m w) (hq : ∀ a ∈ (s.core d.slice).queue, a.drill ≠ d) (hu : x.unperformed = []) (hf : x.failed = []) :
    s.drainDrill d = s.freeDrill d := by
  have idle : ¬ ((!((s.core d.slice).drillArrays d).isEmpty) = true ∨ (!x.unperformed.isEmpty) = true) := by
    simp [drillArrays_eq_nil hq, hu]
  have noTrap (z : Drill) (hz : z.failed = []) : (s.setDrill d z).deferredTrap d m w = none := by
    rw [State.deferredTrap, drill?_setDrill_same]
    simp only [hz]
  rw [State.drainDrill, hx]
  simp only [hst, if_neg idle]
  rw [noTrap]
  exact hf

theorem drillSlotsFillAndEmpty : Claim.DrillSlotsFillAndEmpty := by
  refine ⟨fun s slice l rest i hc hl hok hrev he hi => launchFillsASlot hc hl hok hrev he hi, fun s die r rest hw hlen => ?record,
    fun s d x pc m w hx hst hq hu hf => ?drain⟩
  case record =>
    have run : Machine.exec (.faultRecordWrite die) s = .next (s.modDie die fun y =>
        { y with faults := y.faults ++ [r], faultWait := rest }) := by
      refine congrArg Host.Outcome.next (congrArg (s.setDie die) ?_)
      dsimp only
      rw [hw]
      exact if_pos hlen
    refine ⟨_, run, ?_, ?_, rfl, rfl⟩ <;> rw [State.die_modDie]
  case drain =>
    have run : Machine.exec (.drillDrainComplete d) s = .next (s.freeDrill d) := congrArg Host.Outcome.next (drainDrill_free hx hst hq hu hf)
    refine ⟨_, run, (drill?_freeDrill s d d).trans (if_pos ⟨rfl, rfl⟩), rfl, fun e _ hk => (drill?_freeDrill s d e).trans (if_neg fun h => hk h.2)⟩

/-! ## The end of a parking (R137, Table 04-4) -/

/-- Taking an element and those before it that are passed over leaves fewer. -/
theorem length_take_drop_lt {α : Type} [DecidableEq α] (p : α → Bool) {l : List α} {r : α} (h : r ∈ l) :
    (((l.takeWhile fun q => decide (q ≠ r)).filter p) ++ ((l.dropWhile fun q => decide (q ≠ r)).drop 1)).length < l.length := by
  have filtered := List.length_filter_le p (l.takeWhile fun q => decide (q ≠ r))
  have parts := congrArg List.length (List.takeWhile_append_dropWhile (p := fun q => decide (q ≠ r)) (l := l))
  have found : l.dropWhile (fun q => decide (q ≠ r)) ≠ [] := fun hn => by
    simpa using List.dropWhile_eq_nil_iff.1 hn r h
  have some_left := List.length_pos_of_ne_nil found
  simp only [List.length_append, List.length_drop] at parts ⊢
  omega

/-- The reeve takes up a record that is in the queue: the queue is shorter, and no core and no composition changes. -/
theorem takeRecord_of_mem {s : State} {d : DrillRef} {v : Drill} {r : TrapRec}
    (h : ∃ q ∈ (s.die (dieOf d.slice)).faults, q.isFor d v r = true) : ∃ t, s.takeRecord d v r = some t ∧ t.cores = s.cores ∧
      (t.die (dieOf d.slice)).faults.length < (s.die (dieOf d.slice)).faults.length := by
  obtain ⟨q, hq, hfor⟩ := h
  obtain ⟨q', found⟩ := Option.isSome_iff_exists.1 (List.find?_isSome (p := fun q => FaultRec.isFor q d v r) |>.2 ⟨q, hq, hfor⟩)
  have mem := List.mem_of_find?_eq_some found
  rw [State.takeRecord]
  simp only [found]
  refine ⟨_, rfl, (hostSide_logged_deliver _ _ _ _).cores, ?_⟩
  rw [State.die_congr (dies_reportComps _ _ _ _ _), State.die_modDie]
  exact length_take_drop_lt _ mem

section
variable {s : State} {d : DrillRef} {v : Drill} {r : TrapRec} {e : Option DrillEdit} {o : Outcome} (hin : s.inService = true)
  (hx : s.drill? d = some v) (hst : v.status = .parked r) (hrec : ∃ q ∈ (s.die (dieOf d.slice)).faults, q.isFor d v r = true)
  (he : e = none ∨ s.debugScope 0 = true) (ho : s.outcomeOk v r o = true)
include hin hx hst hrec he ho

/-- An outcome that may be taken is taken, after the record is removed and the drill edited. -/
theorem endParking_eq (f : State → Drill → TrapRec → State) : ∃ u : State, u.cores = s.cores ∧
    (u.die (dieOf d.slice)).faults.length < (s.die (dieOf d.slice)).faults.length ∧
      s.endParking d e o f = f (u.setDrill d ((e.map v.edited).getD v)) ((e.map v.edited).getD v) r := by
  obtain ⟨u, taken, cores, shorter⟩ := takeRecord_of_mem hrec
  have may : ¬ ((!s.inService) = true ∨ (!s.outcomeOk v r o) = true ∨ (e.isSome = true ∧ (!s.debugScope 0) = true)) := by
    obtain rfl | hd := he
    · simp [hin, ho]
    · simp [hin, ho, hd]
  refine ⟨u, cores, shorter, ?_⟩
  rw [State.endParking, hx]
  simp only [hst, if_neg may, taken]

end

/-- A drill that its core's waits are released for. -/
theorem drill?_releaseWaits {s : State} {d : DrillRef} {x : Drill} (h : s.drill? d = some x) :
    ∃ hit, (s.modCore d.slice fun c => c.releaseWaits).drill? d = some (freed x hit) := by
  unfold State.drill? at h ⊢
  rw [State.core_modCore, Core.releaseWaits, find?_mapVals, h]
  exact ⟨_, rfl⟩

/-- A drill that returns to issue runs on where it stands. -/
theorem returnToIssue_effect (s : State) (d : DrillRef) {x : Drill} {p : Path} (hc : x.cur = some p) :
    ∃ z q, (s.returnToIssue d x).drill? d = some z ∧ z.status = .active ∧ Claim.SameRegs x z ∧ z.cur = some q ∧ q.pc = p.pc ∧
      (s.returnToIssue d x).dies = s.dies := by
  obtain ⟨q, hq, hpc⟩ := freed_cur (x := { x with status := .active }) hc fun q => q.wait.isLock && true
  obtain ⟨hit, hz⟩ := drill?_releaseWaits (drill?_setDrill_same s d (freed { x with status := .active } fun q => q.wait.isLock && true))
  obtain ⟨q', hq', hpc'⟩ := freed_cur hq hit
  have same := (freed_same { x with status := .active } fun q => q.wait.isLock && true).trans (freed_same _ hit)
  exact ⟨_, q', hz, status_of_same same, claimSameRegs (x := { x with status := .active }) same, hq', hpc'.trans hpc, rfl⟩

theorem dies_flagPoison (s : State) (c : Nat) : (s.flagPoison c).dies = s.dies := State.modComp_dies _ _ _

/-- A failed pass changes compositions alone. -/
theorem cores_failTrap (s : State) (x : Drill) (r : TrapRec) : (s.failTrap x r).cores = s.cores := by
  have failPass (u : State) (c : Nat) : (u.failPass c).cores = u.cores := State.modComp_cores _ _ _
  unfold State.failTrap
  split
  · unfold State.failPoison
    split
    · rfl
    · dsimp only
      split
      · exact failPass _ _
      · split
        · rfl
        · exact State.modComp_cores _ _ _
  · exact failPass _ _

/-- The threads of a killed drill end, and its slot is free. -/
theorem endThreads_free (s : State) (d : DrillRef) (x : Drill) (hq : ∀ a ∈ (s.core d.slice).queue, a.drill ≠ d) (hu : x.unperformed = []) :
    (s.endThreads d x).drill? d = none := by
  have core (t : State) : ((t.abandonLoads d x.context).core d.slice).drills = (t.core d.slice).drills ∧
      ((t.abandonLoads d x.context).core d.slice).queue = (t.core d.slice).queue := by
    have dieAlone (u : State) (k : Nat) (f : Die → Die) : (u.modDie k f).core d.slice = u.core d.slice := rfl
    rw [State.abandonLoads, dieAlone, State.core_modCore]
    exact ⟨rfl, rfl⟩
  obtain ⟨drills, queue⟩ := core (s.setDrill d { x with status := .draining 0 0 0, cur := none, paths := [], failed := [], mem := none })
  rw [State.endThreads, drainDrill_free (x := { x with status := .draining 0 0 0, cur := none, paths := [], failed := [], mem := none }) ?drill rfl
    ?arrays hu rfl, drill?_freeDrill, if_pos ⟨rfl, rfl⟩]
  case drill => rw [State.drill?, drills]; exact drill?_setDrill_same _ _ _
  case arrays => rw [queue, core_setDrill]; exact hq

theorem parkingEndsByItsOutcome : Claim.ParkingEndsByItsOutcome := by
  intro s d v p r e hin hx hst _ hrec he x hc
  refine ⟨fun ho => ?skip, fun ho hdef => ?replay, fun ho hq hu => ?kill⟩
  case skip =>
    obtain ⟨u, -, shorter, run⟩ := endParking_eq hin hx hst hrec he ho fun t x r => t.skipDrill d x r
    have skipped : (u.setDrill d x).skipDrill d x r = (u.setDrill d x).returnToIssue d { x with status := .active }.retire := by
      rw [State.skipDrill, hc]
    obtain ⟨⟨c, hcur, hcpc⟩, kept⟩ := Drill.retire_goes { x with status := .active } p hc
    obtain ⟨z, q, hz, active, same, hq, hpc, dies⟩ := returnToIssue_effect (u.setDrill d x) d hcur
    have retired : Claim.SameRegs x { x with status := DrillStatus.active }.retire := ⟨Drill.retire_g _, Drill.retire_p _, Drill.retire_u _⟩
    refine ⟨_, z, q, congrArg Host.Outcome.next (run.trans skipped), hz, active,
      ⟨same.1.trans retired.1, same.2.1.trans retired.2.1, same.2.2.trans retired.2.2⟩, hq, hpc.trans hcpc, ?_⟩
    rw [State.die_congr dies]
    exact shorter
  case replay =>
    obtain ⟨u, -, shorter, run⟩ := endParking_eq hin hx hst hrec he ho fun t x r => if r.trap.deferred then s else t.replayDrill d x r
    rw [hdef] at run
    obtain ⟨w, hw⟩ : ∃ w : State, (if r.trap = .poisoned then (u.setDrill d x).flagPoison x.comp else u.setDrill d x) = w := ⟨_, rfl⟩
    have dies : State.dies w = u.dies := by
      rw [← hw, apply_ite State.dies, dies_flagPoison, ite_self]; rfl
    obtain ⟨z, q, hz, active, same, hq, hpc, kept⟩ := returnToIssue_effect w d hc
    have replayed : (u.setDrill d x).replayDrill d x r = w.returnToIssue d x := by rw [State.replayDrill, hw]
    refine ⟨_, z, q, congrArg Host.Outcome.next (run.trans replayed), hz, active, same, hq, hpc, ?_⟩
    rw [State.die_congr (kept.trans dies)]
    exact shorter
  case kill =>
    obtain ⟨u, cores, -, run⟩ := endParking_eq hin hx hst hrec he ho fun t x r => t.killDrill d x r
    have queue : ∀ a ∈ (State.core (u.setDrill d x) d.slice).queue, a.drill ≠ d := by
      rw [core_setDrill, State.core_congr cores]; exact hq
    refine ⟨_, congrArg Host.Outcome.next run, ?_⟩
    rw [State.killDrill, State.drill?, State.core_congr (cores_failTrap _ _ _)]
    exact endThreads_free _ d x queue hu

/-- Settles O13: slots by what the core's table of drills holds, parkings by what taking the record leaves and by path selection. -/
theorem drillSlotsAndParkingOutcomes : Obligations.DrillSlotsAndParkingOutcomes := by
  unfold Obligations.DrillSlotsAndParkingOutcomes
  exact ⟨drillSlotsFillAndEmpty, parkingEndsByItsOutcome⟩

end Sys2Proof.Parking
end

section
/-! SUPPORT. Answers that end an access (O21): the registers that a load's or an atomic's data goes to, and an add-to-line performed (R133, R147, R271). -/

namespace Sys2Proof.AnswerEnds

open Sys2Proof Sys2Proof.Machine Sys2Proof.Claim Sys2Proof.DrillPaths Sys2Proof.DrillIssue Sys2Proof.Answers

/-! ## Slots (R111) -/

/-- Two references to one slot of a core. -/
def SameSlot (d e : DrillRef) : Prop := e.slice = d.slice ∧ slotKey e = slotKey d

theorem drill?_sameSlot {d e : DrillRef} (h : SameSlot d e) (s : State) : s.drill? e = s.drill? d := by rw [State.drill?, State.drill?, h.1, h.2]

theorem setDrill_sameSlot {d e : DrillRef} (h : SameSlot d e) (s : State) (x : Drill) : s.setDrill e x = s.setDrill d x := by
  rw [State.setDrill, State.setDrill, h.1, h.2]

/-- The reference that a core makes of a slot's key. -/
theorem sameSlot_ofKey (d : DrillRef) : SameSlot d { slice := d.slice, engine := slotKey d / 8, slot := slotKey d % 8 } :=
  ⟨rfl, Nat.div_add_mod _ _⟩

/-! ## Trying a core's drills again -/

/-- A drill that awaits nothing is left alone. -/
theorem memPump_idle {s : State} {d : DrillRef} (h : ∀ x, s.drill? d = some x → x.mem = none) : s.memPump d = s := by
  rw [State.memPump]
  cases hx : s.drill? d with
  | none => rfl
  | some x => simp only [h x hx]

/-- A core whose drills await nothing is left alone. -/
theorem pumpCore_idle {s : State} {k : Nat} (h : ∀ e ∈ (s.core k).drills, e.2.mem = none) : s.pumpCore k = s :=
  List.foldlRecOn (keys (s.core k).drills) _ (motive := (· = s)) rfl fun t ht e _ => by
    rw [ht]
    exact memPump_idle fun x hx => h _ (mem_of_find? hx)

/-- A core whose only drill has its answers ends that drill's access. -/
theorem pumpCore_single {s : State} {d : DrillRef} {x : Drill} {m : MemWait} (hd : (s.core d.slice).drills = [(slotKey d, x)]) (hm : x.mem = some m)
    (ha : x.status = .active) (hdue : m.due = []) (hbad : m.bad = []) : s.pumpCore d.slice = s.setDrill d (ended x m) := by
  have here (e : DrillRef) (he : SameSlot d e) : s.drill? e = some x := by
    rw [drill?_sameSlot he, State.drill?, hd]
    exact if_pos rfl
  have slot := sameSlot_ofKey d
  rw [State.pumpCore, hd]
  change s.memPump { slice := d.slice, engine := slotKey d / 8, slot := slotKey d % 8 } = _
  rw [State.memPump, here _ slot]
  simp only [hm, hdue, List.foldl_nil]
  rw [memFinish_done (here _ slot) hm ha hdue hbad, setDrill_sameSlot slot]

/-- A message at a cache whose die is up, after which the core's drills are tried again. -/
theorem atCache_next {s t : State} {n k : Nat} {p : CohMsg → Bool} {body : State → Option CLine → Option State} (hn : n < dramBytes / 256)
    (hin : s.inService = true) (hup : s.dieUp (k / 8) = true) (hb : body (s.arrived n k p) (s.line? k n) = some t) :
    s.atCache n k p body = .next (t.pumpCore k) := by
  have up : (s.inService && s.dieUp (dieOf k)) = true := by rw [hin]; exact hup
  have hb : body (s.arrived n k p) ((s.arrived n k p).line? k n) = some t := hb
  rw [State.atCache, State.atSector, if_neg (Nat.not_le.2 hn), if_pos up]
  simp only [hb]

/-! ## The registers that answers write (R146, R147) -/

theorem wrN_false_u (n : Nat) (x : Drill) (t i v : Nat) : (x.wrN false t i n v).u = x.u := by
  induction n generalizing x i v with
  | zero => rfl
  | succ n ih => rw [Drill.wrN, ih]; rfl

theorem writeWords_false_u (i n : Nat) (v : Nat → Nat) (ts : List Nat) (x : Drill) : (writeWords false i n v ts x).u = x.u :=
  List.foldlRecOn ts _ (motive := fun y => Drill.u y = x.u) rfl fun y hy t _ => (wrN_false_u n y t i (v t)).trans hy

/-- The registers that an instruction with the answers `m` writes. -/
structure Took (x z : Drill) (i n : Nat) (l : List (Nat × Nat)) : Prop where
  words : ∀ e ∈ l, ∀ j, j < n → z.greg e.1 (i + j) = wordAt e.2 j
  others : ∀ k r, r < 64 → (r < i ∨ i + n ≤ r ∨ ∀ e ∈ l, e.1 ≠ k) → z.greg k r = x.greg k r
  preds : z.p = x.p
  uniform : z.u = x.u

/-- Answers by thread, each thread once, into general registers. -/
theorem took_foldl (x : Drill) {i n : Nat} (hi : i + n ≤ 64) {l : List (Nat × Nat)} (hl : (l.map (·.1)).Nodup) :
    Took x (l.foldl (fun y e => y.wrN false e.1 i n e.2) x) i n l := by
  rw [foldl_wrN_pairs false i n l hl]
  refine ⟨fun e he j hj => ?_, fun k r hr h => ?_, by rw [writeWords_regs], writeWords_false_u _ _ _ _ _⟩
  · rw [greg_writeWords _ _ x hi (by omega), if_pos ⟨List.mem_map_of_mem he, by omega, by omega⟩, getD_of_mem_nodup hl he, Nat.add_sub_cancel_left]
  · rw [greg_writeWords _ _ x hi hr, if_neg]
    rintro ⟨hk, hlo, hhi⟩
    obtain h | h | h := h
    · omega
    · omega
    · obtain ⟨e, he, rfl⟩ := List.mem_map.1 hk
      exact h e he rfl

/-- The instruction has ended: what it wrote, and the path that goes on. -/
theorem ended_of_took {x : Drill} {p : Path} {m : MemWait} {i n : Nat} {l : List (Nat × Nat)} (hc : x.cur = some p) (ha : x.status = .active)
    (hcls : iCls m.word ≠ 9) (frame : x.takeAnswers m = { x with g := (x.takeAnswers m).g, u := (x.takeAnswers m).u })
    (h : Took x (x.takeAnswers m) i n l) :
    Took x (ended x m) i n l ∧ (ended x m).mem = none ∧ (ended x m).status = .active ∧ ∃ q, (ended x m).cur = some q ∧ q.pc = p.pc + 8 := by
  have cur : ({ x.takeAnswers m with mem := none } : Drill).cur = some p := by rw [frame]; exact hc
  obtain ⟨⟨q, hq, hpc⟩, kept⟩ := Drill.retire_goes { x.takeAnswers m with mem := none } p cur
  rw [ended, if_neg hcls]
  obtain ⟨words, others, preds, uniform⟩ := h
  refine ⟨⟨fun e he j hj => ?_, fun k r hr hk => ?_, ?_, ?_⟩, ?_, ?_, q, hq, hpc⟩
  · exact (Drill.retire_greg _ _ _).trans (words e he j hj)
  · exact (Drill.retire_greg _ _ _).trans (others k r hr hk)
  · exact (Drill.retire_p _).trans preds
  · exact (Drill.retire_u _).trans uniform
  · rw [kept]
  · rw [kept, frame]; exact ha

/-! ## The data of a load (Table 09-3) -/

theorem wordAt_extendLoad (z v j : Nat) (hj : j < sizeRegs z) : wordAt (extendLoad z v) j = loadedWord z v j := by
  have small (h : z = 5 ∨ z = 6) : j = 0 := by
    rw [sizeRegs, if_neg (by omega), if_neg (by omega)] at hj
    omega
  rw [extendLoad, loadedWord, wordAt]
  by_cases h5 : z = 5
  · rw [if_pos h5, if_pos h5, small (.inl h5)]
    exact BitVec.eq_of_toNat_eq (by simp)
  · rw [if_neg h5, if_neg h5]
    by_cases h6 : z = 6
    · rw [if_pos h6, if_pos h6, small (.inr h6)]
      exact BitVec.eq_of_toNat_eq (by simp)
    · rw [if_neg h6, if_neg h6]

/-- The answers of a load, extended. -/
def extended (m : MemWait) : List (Nat × Nat) := m.got.map fun e => (e.1, extendLoad (iSize m.word) e.2)

theorem takeAnswers_load {x : Drill} {m : MemWait} (hc : iCls m.word = 5) (ho : iOp m.word = 0) (hu : iDU m.word = false) :
    x.takeAnswers m = (extended m).foldl (fun y e => y.wrN false e.1 (iDst m.word) (sizeRegs (iSize m.word)) e.2) x := by
  rw [Drill.takeAnswers, if_pos ⟨hc, ho⟩, hu, extended, List.foldl_map]

/-- Answers into registers leave the rest of the drill. -/
theorem foldl_wrN_frame (x : Drill) (i n : Nat) {l : List (Nat × Nat)} (hl : (l.map (·.1)).Nodup) :
    l.foldl (fun y e => y.wrN false e.1 i n e.2) x = { x with
      g := (l.foldl (fun y e => y.wrN false e.1 i n e.2) x).g, u := (l.foldl (fun y e => y.wrN false e.1 i n e.2) x).u } := by
  rw [foldl_wrN_pairs false i n l hl]
  exact writeWords_regs _ _ _ _ _ _

/-- Loads that all wait for one drill of their context are served together. -/
theorem serveLoads_one {s : State} {d : DrillRef} {x : Drill} {ws : List WaitLoad} (hx : s.drill? d = some x)
    (hw : ∀ w ∈ ws, w.drill = d ∧ w.context = x.context ∧ w.late = false ∧ w.dead = false) (hne : ws ≠ []) (n : Nat) (v : Sector) (q : Bool) :
    s.serveLoads n v q ws = s.answer d n v q ws := by
  have alive : (ws.filter fun w => !w.dead && (s.drill? w.drill).any fun x => decide (x.context = w.context)) = ws :=
    List.filter_eq_self.2 fun w hm => by
      obtain ⟨hd, hc, -, hdead⟩ := hw w hm
      simp [hd, hdead, hx, hc]
  have mine : (ws.filter fun w => decide (w.drill = d)) = ws := List.filter_eq_self.2 fun w hm => decide_eq_true (hw w hm).1
  have drills : ws.foldl (fun (l : List DrillRef) w => if l.contains w.drill then l else l ++ [w.drill]) [] = [d] := by
    obtain ⟨w, rest, rfl⟩ := List.exists_cons_of_ne_nil hne
    refine List.foldlRecOn rest _ (motive := (· = [d])) ?_ fun l hl u hu => ?_
    · simp [(hw w List.mem_cons_self).1]
    · rw [hl, (hw u (List.mem_cons_of_mem _ hu)).1]; simp
  rw [State.serveLoads]
  simp only [alive, drills, List.foldl_cons, List.foldl_nil, mine]

theorem answer_eq {s : State} {d : DrillRef} {x : Drill} {m : MemWait} (hx : s.drill? d = some x) (hm : x.mem = some m) {n : Nat}
    (hdue : m.due.contains n = true) (v : Sector) (q : Bool) (ws : List WaitLoad) :
    s.answer d n v q ws = s.setDrill d (waiting x (m.answer n v q ws)) := by
  rw [State.answer, State.modDrill, hx]
  simp only [hm, Option.map_some, hdue, if_true, waiting]

/-- The answers of a load to which the sector `v` has come. -/
theorem answered_load {m : MemWait} {n : Nat} (v : Sector) (ws : List WaitLoad) (hdue : m.due = [n]) (hgot : m.got = []) (hbad : m.bad = []) :
    m.answer n v false ws =
      { m with due := [], got := ws.map fun w => (w.thread, leNat (sectorBytes v w.byte w.bytes)), bad := [] } := by
  rw [MemWait.answer]
  simp [hdue, hgot, hbad, removeFirst]

theorem drills_setDrill_single {s : State} {d : DrillRef} {x : Drill} (hd : (s.core d.slice).drills = [(slotKey d, x)]) (z : Drill) :
    ((s.setDrill d z).core d.slice).drills = [(slotKey d, z)] := by
  rw [core_setDrill]
  simp [hd, Machine.insert]

theorem loadsEnd {s : State} {n : Nat} {d : DrillRef} {l : CLine} {ws : List WaitLoad} {x : Drill} {p : Path} {m : MemWait} (v : Sector)
    (hn : n < dramBytes / 256) (hin : s.inService = true) (hup : s.dieUp (d.slice / 8) = true) (hline : s.line? d.slice n = some l)
    (hst : l.st = .isD) (hstores : l.stores = []) (hloads : l.loads = ws)
    (hw : ∀ w ∈ ws, w.drill = d ∧ w.context = x.context ∧ w.late = false ∧ w.dead = false) (hnodup : (ws.map (·.thread)).Nodup)
    (hd : (s.core d.slice).drills = [(slotKey d, x)]) (hc : x.cur = some p) (ha : x.status = .active) (hm : x.mem = some m) (hdue : m.due = [n])
    (hgot : m.got = []) (hbad : m.bad = []) (hcls : iCls m.word = 5) (hop : iOp m.word = 0) (hu : iDU m.word = false)
    (hfit : iDst m.word + sizeRegs (iSize m.word) ≤ 64) (hne : ws ≠ []) :
    ∃ t z q, Machine.exec (.dataS n d.slice v false) s = .next t ∧
      t.line? d.slice n = some { l with st := .s, data := v, poison := false, loads := [] } ∧
      t.drill? d = some z ∧ z.mem = none ∧ z.status = .active ∧ z.cur = some q ∧ q.pc = p.pc + 8 ∧ t.mem = s.mem ∧ t.dies = s.dies ∧
      (∀ w ∈ ws, ∀ j, j < sizeRegs (iSize m.word) → z.greg w.thread (iDst m.word + j) =
        loadedWord (iSize m.word) (leNat (sectorBytes v w.byte w.bytes)) j) ∧
      (∀ r k, r < 64 → (∀ w ∈ ws, w.thread ≠ k) → z.greg k r = x.greg k r) ∧ z.p = x.p ∧ z.u = x.u := by
  obtain ⟨m', hm'⟩ : ∃ m', m' = m.answer n v false ws := ⟨_, rfl⟩
  have answered := hm'.trans (answered_load v ws hdue hgot hbad)
  have word : m'.word = m.word := by rw [answered]
  obtain ⟨a, hA⟩ : ∃ a : State, a = s.arrived n d.slice fun m => decide (m = .dataS v false) := ⟨_, rfl⟩
  have had : (a.core d.slice).drills = [(slotKey d, x)] := by rw [hA]; exact hd
  have hxa : a.drill? d = some x := by rw [State.drill?, had]; exact if_pos rfl
  have onTime : (ws.filter fun w => !w.late) = ws := List.filter_eq_self.2 fun w hw' => by simp [hw w hw']
  have noneLate : (ws.filter fun w => w.late) = [] := List.filter_eq_nil_iff.2 fun w hw' => by simp [hw w hw']
  have served : a.serveLoads n v false ws = a.setDrill d (waiting x m') := by
    rw [serveLoads_one hxa hw hne, answer_eq hxa hm (by rw [hdue]; simp), hm']
  obtain ⟨t, ht⟩ : ∃ t : State, t = (a.setDrill d (waiting x m')).setLine d.slice n { l with st := .s, data := v, poison := false, loads := [] } :=
    ⟨_, rfl⟩
  have run : Machine.exec (.dataS n d.slice v false) s = .next (t.pumpCore d.slice) := by
    refine (show Machine.exec (.dataS n d.slice v false) s = execDataS n d.slice v false s from rfl).trans (atCache_next hn hin hup ?_)
    rw [hline, ← hA, ht]
    simp only [hst, hstores, hloads, onTime, noneLate, served]
    rfl
  have drills : (t.core d.slice).drills = [(slotKey d, waiting x m')] := by
    rw [ht, State.setLine, State.core_modCore]
    exact drills_setDrill_single had _
  have nodup : ((extended m').map (·.1)).Nodup := by rw [extended, answered, List.map_map, List.map_map]; exact hnodup
  have took := took_foldl (waiting x m') hfit nodup
  have writes := takeAnswers_load (x := waiting x m') (m := m') (by rw [word, hcls]) (by rw [word, hop]) (by rw [word, hu])
  rw [word] at writes
  obtain ⟨⟨words, others, preds, uniform⟩, idle, active, q, hq, hpc⟩ := ended_of_took (x := waiting x m') (p := p) hc ha (by rw [word, hcls]; decide)
    (by rw [writes]; exact foldl_wrN_frame _ _ _ nodup) (by rw [writes]; exact took)
  refine ⟨_, ended (waiting x m') m', q, run.trans (congrArg _ (pumpCore_single drills rfl ha (by rw [answered]) (by rw [answered]))), ?_,
    drill?_setDrill_same _ _ _, idle, active, hq, hpc, by rw [ht, hA]; rfl, by rw [ht, hA]; rfl, fun w hw' j hj => ?_, fun r k hr hk => ?_, preds, uniform⟩
  · rw [line?_setDrill, ht, State.line?, State.setLine, State.core_modCore]
    exact find?_insert_same _ _ _
  · have mem : (w.thread, extendLoad (iSize m.word) (leNat (sectorBytes v w.byte w.bytes))) ∈ extended m' := by
      rw [extended, answered, List.map_map]
      exact List.mem_map_of_mem hw'
    exact (words _ mem j hj).trans (wordAt_extendLoad _ _ _ hj)
  · refine others k r hr (.inr (.inr fun e he => ?_))
    rw [extended, answered, List.map_map] at he
    obtain ⟨w, hw', rfl⟩ := List.mem_map.1 he
    exact hk w hw'

/-! ## The answer of an atomic group (R129, R147) -/

/-- What an atomic group's answer gives to its threads. -/
def atomGot (a : AtomGroup) (olds : List DWord) : List (Nat × Nat) := (a.members.zip olds).map fun e => (e.1.thread, e.2.toNat)

theorem takeAnswers_atomic {x : Drill} {m : MemWait} (hc : iCls m.word = 6) (ho : iOp m.word ≠ 8) (hz : iSize m.word ≠ 4) (hu : iDU m.word = false) :
    x.takeAnswers m = m.got.foldl (fun y e => y.wrN false e.1 (iDst m.word) 1 e.2) x := by
  rw [Drill.takeAnswers, if_neg (by rw [hc]; exact fun h => absurd h.1 (by decide)), if_pos ⟨hc, ho⟩, hu, typeRegs, if_neg hz]

/-- The wait of an atomic to which the answer `olds` of its last group has come. -/
def atomAnswered (m : MemWait) (a : AtomGroup) (olds : List DWord) : MemWait := { m with due := [], got := atomGot a olds, bad := [] }

theorem exec_atomResp {s : State} {n : Nat} {d : DrillRef} {a : AtomGroup} {olds : List DWord} {x : Drill} {m : MemWait} (hn : n < dramBytes / 256)
    (hin : s.inService = true) (hup : s.dieUp (d.slice / 8) = true) (hd : (s.core d.slice).drills = [(slotKey d, x)]) (hm : x.mem = some m)
    (hdue : m.due = [256 * n + a.byte]) (hgot : m.got = []) (hbad : m.bad = []) (hdrill : a.drill = d) (hctx : x.context = a.context)
    (ha : x.status = .active) : Machine.exec (.atomResp n d.slice a olds false) s = .next (State.pumpCore
      ((s.arrived n d.slice fun m => decide (m = .atomResp a olds false)).setDrill d (ended (waiting x (atomAnswered m a olds)) (atomAnswered m a olds)))
      d.slice) := by
  refine (show Machine.exec (.atomResp n d.slice a olds false) s = execAtomResp n d.slice a olds false s from rfl).trans (atCache_next hn hin hup ?_)
  obtain ⟨u, hu⟩ : ∃ u : State, u = s.arrived n d.slice fun m => decide (m = .atomResp a olds false) := ⟨_, rfl⟩
  have hxu : u.drill? d = some x := by rw [hu, State.drill?]; exact (congrArg (Machine.find? · _) hd).trans (if_pos rfl)
  have asked : ¬ (x.context ≠ a.context ∨ (!m.due.contains (256 * n + a.byte)) = true) := by simp [hctx, hdue]
  have answered : { x with mem := x.mem.map fun m =>
      if x.context ≠ a.context ∨ !m.due.contains (256 * n + a.byte) then m
      else { m with due := removeFirst (fun i => decide (i = 256 * n + a.byte)) m.due,
                    got := m.got ++ (a.members.zip olds).map fun e => (e.1.thread, e.2.toNat) } } = waiting x (atomAnswered m a olds) := by
    rw [hm, Option.map_some, if_neg asked, hdue, hgot, atomAnswered, hbad.symm]
    simp [removeFirst, waiting, atomGot]
  have told : u.modDrill d (fun x => { x with mem := x.mem.map fun m =>
      if x.context ≠ a.context ∨ !m.due.contains (256 * n + a.byte) then m
      else { m with due := removeFirst (fun i => decide (i = 256 * n + a.byte)) m.due,
                    got := m.got ++ (a.members.zip olds).map fun e => (e.1.thread, e.2.toNat) } }) =
      u.setDrill d (waiting x (atomAnswered m a olds)) := by
    rw [State.modDrill, hxu]
    exact congrArg (u.setDrill d) answered
  have finished := memFinish_done (drill?_setDrill_same u d (waiting x (atomAnswered m a olds))) rfl ha rfl rfl
  rw [setDrill_setDrill] at finished
  rw [← hu, hdrill, ← finished, ← told]
  rfl

theorem atomicsEnd {s : State} {n : Nat} {d : DrillRef} {a : AtomGroup} {olds : List DWord} {x : Drill} {p : Path} {m : MemWait}
    (hn : n < dramBytes / 256) (hin : s.inService = true) (hup : s.dieUp (d.slice / 8) = true) (hd : (s.core d.slice).drills = [(slotKey d, x)])
    (hc : x.cur = some p) (ha : x.status = .active) (hm : x.mem = some m) (hdue : m.due = [256 * n + a.byte]) (hgot : m.got = [])
    (hbad : m.bad = []) (hcls : iCls m.word = 6) (hop : iOp m.word < 8) (hz : iSize m.word < 4) (hu : iDU m.word = false) (hdrill : a.drill = d)
    (hctx : x.context = a.context) (hlen : a.members.length = olds.length) (hnodup : (a.members.map (·.thread)).Nodup) :
    ∃ t z q, Machine.exec (.atomResp n d.slice a olds false) s = .next t ∧ t.drill? d = some z ∧ z.mem = none ∧ z.status = .active ∧
      z.cur = some q ∧ q.pc = p.pc + 8 ∧ t.mem = s.mem ∧ t.dies = s.dies ∧
      (∀ (i : Nat) (e : AtomMember) (o : DWord), a.members[i]? = some e → olds[i]? = some o → z.greg e.thread (iDst m.word) = o.setWidth 32) ∧
      (∀ r k, r < 64 → r ≠ iDst m.word → z.greg k r = x.greg k r) ∧ z.p = x.p ∧ z.u = x.u := by
  have run := exec_atomResp (olds := olds) hn hin hup hd hm hdue hgot hbad hdrill hctx ha
  obtain ⟨u, hU⟩ : ∃ u : State, u = s.arrived n d.slice fun m => decide (m = .atomResp a olds false) := ⟨_, rfl⟩
  have drills : (u.core d.slice).drills = [(slotKey d, x)] := by rw [hU]; exact hd
  rw [← hU] at run
  have nodup : ((atomGot a olds).map (·.1)).Nodup := by
    have members : (atomGot a olds).map (·.1) = a.members.map (·.thread) := by
      rw [atomGot, List.map_map, ← List.map_fst_zip (l₁ := a.members) (l₂ := olds) hlen.le, List.map_map]
      rw [List.map_fst_zip hlen.le]
      rfl
    rw [members]
    exact hnodup
  have took := took_foldl (waiting x (atomAnswered m a olds)) (i := iDst m.word) (n := 1) (iDst_lt _) nodup
  have writes := takeAnswers_atomic (x := waiting x (atomAnswered m a olds)) (m := atomAnswered m a olds) hcls (Nat.ne_of_lt hop)
    (Nat.ne_of_lt hz) hu
  obtain ⟨⟨words, others, preds, uniform⟩, idle, active, q, hq, hpc⟩ := ended_of_took (x := waiting x (atomAnswered m a olds)) (p := p)
    (m := atomAnswered m a olds) hc ha (fun h => absurd (hcls.symm.trans h) (by decide))
    (by rw [writes]; exact foldl_wrN_frame _ _ _ nodup) (by rw [writes]; exact took)
  have quiet : ∀ e ∈ ((u.setDrill d (ended (waiting x (atomAnswered m a olds)) (atomAnswered m a olds))).core d.slice).drills, e.2.mem = none := by
    rw [drills_setDrill_single drills]
    intro e he
    rw [List.mem_singleton.1 he]
    exact idle
  refine ⟨_, _, q, run.trans (congrArg _ (pumpCore_idle quiet)), drill?_setDrill_same _ _ _, idle, active, hq, hpc,
    by rw [hU]; rfl, by rw [hU]; rfl, fun i e o he ho => ?_,
    fun r k hr hne => others k r hr (by omega), preds, uniform⟩
  have mem : (e.thread, o.toNat) ∈ atomGot a olds := by
    rw [atomGot]
    refine List.mem_map.2 ⟨(e, o), List.mem_iff_getElem?.2 ⟨i, ?_⟩, rfl⟩
    rw [List.getElem?_zip_eq_some]
    exact ⟨he, ho⟩
  refine (words _ mem 0 (by decide)).trans (BitVec.eq_of_toNat_eq ?_)
  simp

/-! ## An add-to-line performed (R271) -/

theorem addPerformed {s : State} {n : Nat} {d : DrillRef} {a : AtomGroup} {x : Drill} (h : CacheQuiet s n d.slice) (hx : s.drill? d = some x)
    (hdrill : a.drill = d) (hctx : x.context = a.context) :
    ∃ t z, Machine.exec (.raddAck n d.slice a false) s = .next t ∧ t.drill? d = some z ∧ t.mem = s.mem ∧
      z = { x with unperformed := removeFirst (fun u => decide (u.key = raddKey n)) x.unperformed } := by
  obtain ⟨hn, hin, hup, quiet⟩ := h
  obtain ⟨u, hu⟩ : ∃ u : State, u = s.arrived n d.slice fun m => decide (m = .raddAck a false) := ⟨_, rfl⟩
  have slot : Machine.find? (u.core d.slice).drills (slotKey d) = some x := by rw [hu]; exact hx
  have performed : u.performedOne d a.context (raddKey n) =
      u.setDrill d { x with unperformed := removeFirst (fun u => decide (u.key = raddKey n)) x.unperformed } := by
    rw [State.performedOne, State.modDrillOf, State.setDrill, State.modCore, State.modCore, slot]
    simp only [hctx, if_true]
  have run : Machine.exec (.raddAck n d.slice a false) s = .next (State.pumpCore (u.setDrill d
      { x with unperformed := removeFirst (fun u => decide (u.key = raddKey n)) x.unperformed }) d.slice) := by
    refine (show Machine.exec (.raddAck n d.slice a false) s = execRaddAck n d.slice a false s from rfl).trans (atCache_next hn hin hup ?_)
    rw [← hu, ← performed, hdrill]
    rfl
  refine ⟨_, _, run.trans (congrArg _ (pumpCore_idle fun e he => ?_)), drill?_setDrill_same _ _ _, by rw [hu]; rfl, rfl⟩
  rw [core_setDrill, hu] at he
  obtain rfl | he := mem_of_mem_insert he
  · exact quiet (slotKey d, x) (mem_of_find? hx)
  · exact quiet e he

/-- Settles O21, by the registers that the answers of an access write once nothing more of it is due. -/
theorem answersEndTheDrillsAccess : Obligations.AnswersEndTheDrillsAccess := by
  unfold Obligations.AnswersEndTheDrillsAccess
  refine ⟨fun s n d l ws x p m v hn hin hup hline hst hstores hloads hw hnodup hd hc ha hm hdue hgot hbad hcls hop hu hfit hne => ?loads,
    fun s n d a olds x p m hn hin hup hd hc ha hm hdue hgot hbad hcls hop hz hu hdrill hctx hlen hnodup => ?atomics,
    fun s n d a x h hx hdrill hctx => addPerformed h hx hdrill hctx⟩
  case loads => exact loadsEnd v hn hin hup hline hst hstores hloads hw hnodup hd hc ha hm hdue hgot hbad hcls hop hu hfit hne
  case atomics => exact atomicsEnd hn hin hup hd hc ha hm hdue hgot hbad hcls hop hz hu hdrill hctx hlen hnodup

end Sys2Proof.AnswerEnds
end

section
/-! SUPPORT. Seedbed loads and stores (O6): what an access that does not trap reads and writes, byte by byte (R157, R166, R167, R173). -/

namespace Sys2Proof.Seedbed

open Sys2Proof Sys2Proof.Machine Sys2Proof.Claim Sys2Proof.Tokens Sys2Proof.ArrayEnd Sys2Proof.DrillPaths Sys2Proof.DrillIssue Sys2Proof.AnswerEnds

/-! ## Numbers as bytes -/

theorem length_natLe (n v : Nat) : (natLe n v).length = n := by
  induction n generalizing v with
  | zero => rfl
  | succ n ih => rw [natLe, List.length_cons, ih]

theorem getD_natLe {n v i : Nat} (h : i < n) : (natLe n v).getD i 0 = BitVec.ofNat 8 (v / 256 ^ i) := by
  induction n generalizing v i with
  | zero => cases h
  | succ n ih =>
    cases i with
    | zero => simp [natLe]
    | succ i => rw [natLe, List.getD_cons_succ, ih (by omega), Nat.div_div_eq_div_mul, ← Nat.pow_succ']

theorem leNat_natLe (n v : Nat) : leNat (natLe n v) = v % 256 ^ n := by
  induction n generalizing v with
  | zero => simp [natLe, leNat, Nat.mod_one]
  | succ n ih =>
    rw [natLe, leNat, ih, Nat.pow_succ', Nat.mod_mul]
    simp

theorem leNat_lt (bs : List Byte) : leNat bs < 256 ^ bs.length := by
  induction bs with
  | nil => simp [leNat]
  | cons b bs ih =>
    have := b.isLt
    rw [leNat, List.length_cons, Nat.pow_succ']
    omega

/-- The bytes of a number read from bytes. -/
theorem natLe_leNat (bs : List Byte) : natLe bs.length (leNat bs) = bs := by
  induction bs with
  | nil => rfl
  | cons b bs ih =>
    have low : BitVec.ofNat 8 (leNat (b :: bs)) = b := BitVec.eq_of_toNat_eq (by simp [leNat, Nat.mod_eq_of_lt b.isLt])
    have high : leNat (b :: bs) / 256 = leNat bs := by
      have := b.isLt
      rw [leNat]
      omega
    rw [List.length_cons, natLe, low, high, ih]

theorem getD_readBytes (m : Memory) (a : Nat) {n i : Nat} (h : i < n) : (readBytes m a n).getD i 0 = readByte m (a + i) := by
  induction n generalizing a i with
  | zero => cases h
  | succ n ih =>
    cases i with
    | zero => simp [readBytes]
    | succ i => rw [readBytes, List.getD_cons_succ, ih (a + 1) (by omega)]; congr 1; omega

/-! ## Registers as bytes (R145) -/

/-- Byte `i` of the value of `n` registers. -/
theorem byte_rdN (x : Drill) (u : Bool) (t r : Nat) {n i : Nat} (h : i < 4 * n) :
    BitVec.ofNat 8 (x.rdN u t r n / 256 ^ i) = (x.rd u t (r + i / 4)).extractLsb' (8 * (i % 4)) 8 := by
  induction n generalizing r i with
  | zero => omega
  | succ n ih =>
    rw [Drill.rdN]
    have := (x.rd u t r).isLt
    by_cases low : i < 4
    · rw [Nat.div_eq_of_lt low, Nat.add_zero, Nat.mod_eq_of_lt low]
      refine BitVec.eq_of_toNat_eq ?_
      rw [BitVec.extractLsb'_toNat, BitVec.toNat_ofNat, Nat.shiftRight_eq_div_pow]
      obtain rfl | rfl | rfl | rfl : i = 0 ∨ i = 1 ∨ i = 2 ∨ i = 3 := by omega
      all_goals simp only [Nat.reducePow, Nat.reduceMul, Nat.add_zero, Nat.div_one]; omega
    · obtain ⟨j, rfl⟩ : ∃ j, i = j + 4 := ⟨i - 4, by omega⟩
      have drop : ((x.rd u t r).toNat + 2 ^ 32 * x.rdN u t (r + 1) n) / 256 ^ (j + 4) = x.rdN u t (r + 1) n / 256 ^ j := by
        rw [Nat.pow_add, Nat.mul_comm (256 ^ j), ← Nat.div_div_eq_div_mul]
        congr 1
        omega
      rw [drop, ih (r + 1) (by omega)]
      congr 2 <;> omega

/-! ## Accesses that trap in no thread (R159, R167) -/

theorem sbTraps_of_fine {s : State} {d : DrillRef} {x : Drill} {w : DWord} {ts : List Nat} {n : Nat} {reads : Bool}
    (h : SeedbedFine s d x w ts n reads) : s.sbTraps d x w ts n reads = [] := by
  obtain ⟨-, fine⟩ := h
  refine List.filterMap_eq_nil_iff.2 fun k hk => ?_
  obtain ⟨inRange, aligned, clean⟩ := fine k hk
  have unpoisoned : ¬ (reads = true ∧ (s.core d.slice).sbPoisoned (x.seedbedAddr w k).toNat n = true) := by
    rintro ⟨hr, hp⟩
    obtain ⟨g, hg, hover⟩ := List.any_eq_true.1 hp
    rw [Bool.and_eq_true, decide_eq_true_eq, decide_eq_true_eq] at hover
    have := clean hr g hg
    omega
  dsimp only
  have bounded : ¬ seedbedBytes ≤ (x.seedbedAddr w k).toNat := Nat.not_le.2 inRange
  rw [if_neg bounded, if_neg (not_not_intro aligned), if_neg unpoisoned]

/-- A memory instruction of a drill that awaits nothing is issued. -/
theorem memIssue_idle {s : State} {d : DrillRef} {x : Drill} (hx : s.drill? d = some x) (hm : x.mem = none) (f : Fetched) (cls op : Nat)
    (body : Drill → Path → DWord → Option State) : s.memIssue d f cls op body = s.issue d f cls op false body := by
  have idle : (s.drill? d).bind (·.mem) = none := by rw [hx]; exact hm
  rw [State.memIssue, idle]

/-! ## Loads (R157, R166) -/

theorem sizeRegs_dvd (z : Nat) : sizeRegs z ∣ 64 := by
  unfold sizeRegs
  split
  · decide
  · split <;> decide

/-- The row of LD. -/
theorem opSpec_ld {w : DWord} (hc : iCls w = 0x5) (ho : iOp w = 0x00) :
    ∃ ok, opSpec w = some (mkSpec true true (.reg (sizeRegs (iSize w))) (.reg 1) .unused .unused ok) := by
  unfold opSpec; rw [hc, ho]; exact ⟨_, rfl⟩

/-- A legal load runs once on the scalar unit exactly where its destination is drill-uniform (R146). -/
theorem memThreads_ld {w : DWord} (hc : iCls w = 0x5) (ho : iOp w = 0x00) (hl : legalWord w = true) (act : DWord) : memThreads w act = execThreads w act := by
  obtain ⟨ok, hs⟩ := opSpec_ld hc ho
  have uniform : iDU w = true → iAU w = true := fun hu => by
    simp only [legalWord, hs, mkSpec, Bool.and_eq_true] at hl
    obtain ⟨-, hl⟩ := hl
    cases ha : iAU w with
    | true => rfl
    | false => simp [uDest, threadSource, perThread, hu, ha] at hl
  rw [memThreads, execThreads]
  cases hu : iDU w with
  | true => simp [uniform hu, hc, ho]
  | false => simp

theorem wrote_congr {w act : DWord} {n : Nat} {x z : Drill} {v u : Nat → Nat → Word} (h : Wrote w act n x z v)
    (hv : ∀ k ∈ execThreads w act, ∀ j, j < n → v k j = u k j) :
    Wrote w act n x z u := by
  obtain ⟨results, rest⟩ := h
  exact ⟨fun k hk j hj => (results k hk j hj).trans (hv k hk j hj), rest⟩

/-- What thread `t` loads, extended to its registers. -/
def loadedAt (s : State) (d : DrillRef) (x : Drill) (w : DWord) (t : Nat) : Nat :=
  extendLoad (iSize w) (leNat (readBytes (s.core d.slice).seedbed (x.seedbedAddr w t).toNat (sizeBytes (iSize w))))

theorem seedbedLoad_fine {s : State} {d : DrillRef} {x : Drill} {w act : DWord} (h : SeedbedFine s d x w (execThreads w act) (sizeBytes (iSize w)) true)
    (ht : s.tracked d.slice (x.sbSpans w (execThreads w act) (sizeBytes (iSize w))) [] = false) :
    s.seedbedLoad d x w act (execThreads w act) =
      some (s.setDrill d (writeWords (iDU w) (iDst w) (sizeRegs (iSize w)) (loadedAt s d x w) (execThreads w act) x).retire) := by
  rw [State.seedbedLoad, sbTraps_of_fine h]
  simp only [pickTrap, lowestTrap, ht]
  rfl

theorem seedbedLoadReadsItsBytes : Claim.SeedbedLoadReadsItsBytes := by
  intro s d f x p act h hfine ht
  obtain ⟨hx, -, -, -, hm, -, hcls, hop, -, -, hlegal, -⟩ := id h
  obtain ⟨ok, hs⟩ := opSpec_ld hcls hop
  have wrote := writeWords_wrote x f.word act (iDst_add_le hlegal hs (.inl rfl) (sizeRegs_dvd _)) (loadedAt s d x f.word)
  have exec : Machine.exec (.ld d f) s = .next (s.issue d f 0x5 0x00 false fun x _ act => if iSeedbed f.word then
      s.seedbedLoad d x f.word act (memThreads f.word act) else s.globalLoad d x f.word act (memThreads f.word act)) :=
    congrArg Host.Outcome.next (memIssue_idle hx hm f _ _ _)
  refine ⟨_, _, exec, goesOn_of_body h ?_ (by rw [writeWords_regs]), wrote_retire (wrote_congr wrote fun _ _ _ hj => wordAt_extendLoad _ _ _ hj)⟩
  rw [if_pos hfine.1, memThreads_ld hcls hop hlegal]
  exact seedbedLoad_fine hfine ht

/-! ## What an access of the seedbed leaves -/

/-- The core after changes of its seedbed alone. -/
def withSeedbed (c : Core) (m : Memory) (poison : List Nat) (mark : Nat) : Core := { c with seedbed := m, sbPoison := poison, liveMark := mark }

/-- All that an instruction that changes its drill and its core's seedbed does. -/
theorem seedbed_effect (s : State) (d : DrillRef) (z : Drill) (m : Memory) (poison : List Nat) (mark : Nat) :
    ∃ t, ((s.setCore d.slice (withSeedbed (s.core d.slice) m poison mark)).setDrill d z).meter d.slice 2 1 = t ∧ t.drill? d = some z ∧
      SeedbedOnly s t d ∧ (t.core d.slice).seedbed = m ∧ (t.core d.slice).sbPoison = poison := by
  obtain ⟨drill, state, cores, core, drills, -⟩ := drillOnly_setDrill (s.setCore d.slice (withSeedbed (s.core d.slice) m poison mark)) d z 2 1
  rw [State.core_setCore] at core
  refine ⟨_, rfl, drill, ⟨state, fun k hk => (cores k hk).trans (State.core_setCore_other _ _ hk), ?_, fun e he hk => ?_⟩, by rw [core]; rfl,
    by rw [core]; rfl⟩
  · rw [core]; rfl
  · rw [drills e he hk, State.drill?, State.drill?, he, State.core_setCore]
    rfl

/-! ## Stores (R167, R173) -/

/-- The row of ST. -/
theorem opSpec_st {w : DWord} (hc : iCls w = 0x5) (ho : iOp w = 0x01) : opSpec w = some (mkSpec true true (.data (sizeRegs (iSize w))) (.reg 1)
    .unused .unused (decide (iModBits w 0 0 = 0) && (decide (iModBits w 3 3 = 0) || (decide (iModBits w 7 4 = 0) && decide (iModBits w 2 1 = 0))) &&
      decide (iSize w ≤ 6) && decide (iModBits w 7 7 = 0))) := by
  unfold opSpec; rw [hc, ho]; rfl

theorem iSize_st {w : DWord} (hc : iCls w = 0x5) (ho : iOp w = 0x01) (hl : legalWord w = true) : iSize w ≤ 6 := by
  simp only [legalWord, opSpec_st hc ho, mkSpec, Bool.and_eq_true, decide_eq_true_eq] at hl
  tauto

theorem sizeBytes_le {z : Nat} (h : z ≤ 6) : sizeBytes z ≤ 4 * sizeRegs z := by
  interval_cases z <;> decide

theorem length_storeBytes (x : Drill) (w : DWord) (t : Nat) : (x.storeBytes w t).length = sizeBytes (iSize w) := length_natLe _ _

theorem getD_storeBytes (x : Drill) {w : DWord} (hz : iSize w ≤ 6) (t : Nat) {i : Nat} (h : i < sizeBytes (iSize w)) :
    (x.storeBytes w t).getD i 0 = storeByte x w t i := by
  have := sizeBytes_le hz
  rw [Drill.storeBytes, getD_natLe h, byte_rdN x _ _ _ (by omega)]
  rfl

/-- The seedbed after each thread of a list has stored its bytes. -/
def storeAll (x : Drill) (w : DWord) (ts : List Nat) (m : Memory) : Memory :=
  ts.foldl (fun m t => writeBytes m (x.seedbedAddr w t).toNat (x.storeBytes w t)) m

theorem storedAt_append (x : Drill) (w : DWord) (ts : List Nat) (k n a : Nat) : storedAt x w (ts ++ [k]) n a =
    if (x.seedbedAddr w k).toNat ≤ a ∧ a < (x.seedbedAddr w k).toNat + n then some (storeByte x w k (a - (x.seedbedAddr w k).toNat))
    else storedAt x w ts n a := by
  rw [storedAt, List.reverse_append, List.reverse_singleton, List.singleton_append, List.find?_cons]
  split
  · next h => rw [if_pos (of_decide_eq_true h)]; rfl
  · next h => rw [if_neg (of_decide_eq_false h)]; rfl

/-- The highest-indexed thread's byte stands. -/
theorem readByte_storeAll (x : Drill) {w : DWord} (hz : iSize w ≤ 6) (ts : List Nat) (m : Memory) (a : Nat) :
    readByte (storeAll x w ts m) a = (storedAt x w ts (sizeBytes (iSize w)) a).getD (readByte m a) := by
  induction ts using List.reverseRecOn with
  | nil => rfl
  | append_singleton ts k ih =>
    rw [storeAll, List.foldl_append, List.foldl_cons, List.foldl_nil, readByte_writeBytes, length_storeBytes, storedAt_append]
    split
    · next h => rw [getD_storeBytes x hz k (by omega)]; rfl
    · exact ih

theorem storedAt_eq_none {x : Drill} {w : DWord} {ts : List Nat} {n a : Nat} : storedAt x w ts n a = none ↔
    (ts.any fun t => decide ((x.seedbedAddr w t).toNat ≤ a) && decide (a < (x.seedbedAddr w t).toNat + n)) = false := by
  rw [storedAt, Option.map_eq_none_iff, List.find?_eq_none, List.any_eq_false]
  simp

/-- Storing changes the seedbed and how far it is used. -/
theorem foldl_sbPut (x : Drill) (w : DWord) (ts : List Nat) (c : Core) : ∃ mark,
    ts.foldl (fun (c : Core) t => c.sbPut (x.seedbedAddr w t).toNat (x.storeBytes w t)) c =
      withSeedbed c (storeAll x w ts c.seedbed) c.sbPoison mark := by
  induction ts generalizing c with
  | nil => exact ⟨c.liveMark, rfl⟩
  | cons t ts ih =>
    obtain ⟨mark, h⟩ := ih (c.sbPut (x.seedbedAddr w t).toNat (x.storeBytes w t))
    exact ⟨mark, h⟩

/-- The poison that is left once each thread has stored its bytes. -/
def poisonLeft (x : Drill) (w : DWord) (ts : List Nat) (l : List Nat) : List Nat :=
  l.filter fun g => !((upto 32).all fun i => ts.any fun t =>
    decide ((x.seedbedAddr w t).toNat ≤ 32 * g + i) && decide (32 * g + i < (x.seedbedAddr w t).toNat + sizeBytes (iSize w)))

theorem mem_poisonLeft {x : Drill} {w : DWord} {ts l : List Nat} {g : Nat} : g ∈ poisonLeft x w ts l ↔
    g ∈ l ∧ ∃ i, i < 32 ∧ storedAt x w ts (sizeBytes (iSize w)) (32 * g + i) = none := by
  simp only [poisonLeft, List.mem_filter, storedAt_eq_none, Bool.not_eq_true', List.all_eq_false, Bool.not_eq_true, upto, List.mem_range]

theorem seedbedStore_fine {s : State} {d : DrillRef} {x : Drill} {w : DWord} {ts : List Nat} (h : SeedbedFine s d x w ts (sizeBytes (iSize w)) false)
    (ht : s.tracked d.slice [] (x.sbSpans w ts (sizeBytes (iSize w))) = false) : ∃ mark, s.seedbedStore d x w ts =
      some ((s.setCore d.slice (withSeedbed (s.core d.slice) (storeAll x w ts (s.core d.slice).seedbed)
        (poisonLeft x w ts (s.core d.slice).sbPoison) mark)).setDrill d x.retire) := by
  obtain ⟨mark, stored⟩ := foldl_sbPut x w ts (s.core d.slice)
  refine ⟨mark, ?_⟩
  rw [State.seedbedStore, sbTraps_of_fine h]
  simp only [pickTrap, lowestTrap, ht, stored]
  rfl

theorem seedbedStoreWritesItsBytes : Claim.SeedbedStoreWritesItsBytes := by
  intro s d f x p act h hfine ht
  obtain ⟨hx, hcur, -, -, hm, -, hcls, hop, -, -, hlegal, -⟩ := id h
  have exec : Machine.exec (.st d f) s = .next (s.issue d f 0x5 0x01 false fun x _ act => if iSeedbed f.word then
      s.seedbedStore d x f.word (threads act) else s.globalStore d x f.word act (threads act)) :=
    congrArg Host.Outcome.next (memIssue_idle hx hm f _ _ _)
  obtain ⟨mark, stored⟩ := seedbedStore_fine hfine ht
  obtain ⟨t, run, drill, only, seedbed, poison⟩ := seedbed_effect s d x.retire (storeAll x f.word (threads act) (s.core d.slice).seedbed)
    (poisonLeft x f.word (threads act) (s.core d.slice).sbPoison) mark
  have he := exec_of_body (coll := false) h nofun exec ((if_pos hfine.1).trans stored)
  rw [run] at he
  obtain ⟨goes, kept⟩ := x.retire_goes p hcur
  refine ⟨t, x.retire, he, drill, only, goes, kept, fun a => ?_, fun g => ?_⟩
  · rw [seedbed]
    exact readByte_storeAll x (iSize_st hcls hop hlegal) _ _ a
  · rw [poison]
    exact mem_poisonLeft

end Sys2Proof.Seedbed
end

section
/-! SUPPORT. Seedbed atomics (O6): groups of equal addresses, each performed at once, leave what the threads leave one by one in rising order (R128,
R129, R160, Table 05-10). -/

namespace Sys2Proof.SeedbedAtomic

open Sys2Proof Sys2Proof.Machine Sys2Proof.Claim Sys2Proof.Tokens Sys2Proof.ArrayEnd Sys2Proof.DrillPaths Sys2Proof.DrillIssue Sys2Proof.AnswerEnds
open Sys2Proof.Seedbed

/-! ## Locations of a memory -/

/-- The value of the `n` bytes at `a`. -/
def valueAt (m : Memory) (n a : Nat) : Nat := leNat (readBytes m a n)

theorem valueAt_lt (m : Memory) (n a : Nat) : valueAt m n a < 256 ^ n := by
  have := leNat_lt (readBytes m a n)
  rwa [length_readBytes] at this

theorem valueAt_write_same (m : Memory) {n v : Nat} (a : Nat) (hv : v < 256 ^ n) : valueAt (writeBytes m a (natLe n v)) n a = v := by
  have read := readBytes_writeBytes_same m a (natLe n v)
  rw [length_natLe] at read
  rw [valueAt, read, leNat_natLe, Nat.mod_eq_of_lt hv]

/-- Of two multiples of `n` that differ, neither's location meets the other's. -/
theorem apart_of_ne {n a b : Nat} (ha : a % n = 0) (hb : b % n = 0) (h : a ≠ b) : a + n ≤ b ∨ b + n ≤ a := by
  obtain ⟨i, rfl⟩ := Nat.dvd_of_mod_eq_zero ha
  obtain ⟨j, rfl⟩ := Nat.dvd_of_mod_eq_zero hb
  obtain hij | hij | hij := Nat.lt_trichotomy i j
  · exact .inl (by rw [← Nat.mul_succ]; exact Nat.mul_le_mul_left n hij)
  · exact absurd (congrArg (n * ·) hij) h
  · exact .inr (by rw [← Nat.mul_succ]; exact Nat.mul_le_mul_left n hij)

theorem valueAt_write_apart (m : Memory) {n a b : Nat} (v : Nat) (ha : a % n = 0) (hb : b % n = 0) (h : a ≠ b) :
    valueAt (writeBytes m b (natLe n v)) n a = valueAt m n a := by
  rw [valueAt, readBytes_writeBytes_apart]
  · rfl
  · rw [length_natLe]; exact apart_of_ne ha hb h

/-- Equal values of a location are equal bytes. -/
theorem readByte_of_valueAt {m m' : Memory} {n a c : Nat} (h : valueAt m n a = valueAt m' n a) (hl : a ≤ c) (hu : c < a + n) :
    readByte m c = readByte m' c := by
  have bytes (u : Memory) : readByte u c = (natLe n (valueAt u n a)).getD (c - a) 0 := by
    have back := natLe_leNat (readBytes u a n)
    rw [length_readBytes] at back
    rw [valueAt, back, getD_readBytes u a (by omega)]
    congr 1
    omega
  rw [bytes, bytes, h]

/-! ## Threads at one location (R129) -/

/-- Threads that take effect one by one on a value: the last value, and for each thread the value that it found. -/
def chain (h : Nat → Nat → Nat) : List Nat → Nat → Nat × List (Nat × Nat)
  | [], v => (v, [])
  | k :: ks, v => ((chain h ks (h k v)).1, (k, v) :: (chain h ks (h k v)).2)

theorem chain_keys (h : Nat → Nat → Nat) (ks : List Nat) (v : Nat) : (chain h ks v).2.map (·.1) = ks := by
  induction ks generalizing v with
  | nil => rfl
  | cons k ks ih => rw [chain, List.map_cons, ih]

/-- The threads of a list whose address is `a`. -/
def sharing (addr : Nat → Nat) (a : Nat) (ts : List Nat) : List Nat := ts.filter fun k => decide (addr k = a)

theorem mem_sharing {addr : Nat → Nat} {a k : Nat} {ts : List Nat} : k ∈ sharing addr a ts ↔ k ∈ ts ∧ addr k = a := by simp [sharing]

theorem sharing_cons_same {addr : Nat → Nat} {a k : Nat} (h : addr k = a) (ts : List Nat) : sharing addr a (k :: ts) = k :: sharing addr a ts :=
  List.filter_cons_of_pos (decide_eq_true h)

theorem sharing_cons_other {addr : Nat → Nat} {a k : Nat} (h : addr k ≠ a) (ts : List Nat) : sharing addr a (k :: ts) = sharing addr a ts :=
  List.filter_cons_of_neg (Bool.eq_false_iff.1 (decide_eq_false h))

section
variable {addr : Nat → Nat} {n : Nat} {h : Nat → Nat → Nat} (hh : ∀ k v, v < 256 ^ n → h k v < 256 ^ n)

theorem atomSequence_cons (k : Nat) (ks : List Nat) (m : Memory) : atomSequence addr n h (k :: ks) m =
    ((atomSequence addr n h ks (writeBytes m (addr k) (natLe n (h k (valueAt m n (addr k)))))).1,
      (k, valueAt m n (addr k)) :: (atomSequence addr n h ks (writeBytes m (addr k) (natLe n (h k (valueAt m n (addr k)))))).2) := rfl

theorem atomSequence_keys (ks : List Nat) (m : Memory) : (atomSequence addr n h ks m).2.map (·.1) = ks := by
  induction ks generalizing m with
  | nil => rfl
  | cons k ks ih => rw [atomSequence_cons, List.map_cons, ih]

include hh

/-- Each location holds in the end what its own threads leave, and each thread finds what the earlier ones of its location left. -/
theorem atomSequence_location {ks : List Nat} (ha : ∀ k ∈ ks, addr k % n = 0) (m : Memory) {a : Nat} (hloc : a % n = 0) :
    valueAt (atomSequence addr n h ks m).1 n a = (chain h (sharing addr a ks) (valueAt m n a)).1 ∧
      ∀ e, addr e.1 = a → (e ∈ (atomSequence addr n h ks m).2 ↔ e ∈ (chain h (sharing addr a ks) (valueAt m n a)).2) := by
  induction ks generalizing m with
  | nil => exact ⟨rfl, fun _ _ => Iff.rfl⟩
  | cons k ks ih =>
    obtain ⟨last, found⟩ := ih (fun k hk => ha k (List.mem_cons_of_mem _ hk)) (writeBytes m (addr k) (natLe n (h k (valueAt m n (addr k)))))
    rw [atomSequence_cons]
    by_cases same : addr k = a
    · subst same
      rw [valueAt_write_same m _ (hh k _ (valueAt_lt m n _))] at last found
      rw [sharing_cons_same rfl, chain]
      exact ⟨last, fun e he => by rw [List.mem_cons, List.mem_cons, found e he]⟩
    · rw [valueAt_write_apart m _ hloc (ha k List.mem_cons_self) (Ne.symm same)] at last found
      rw [sharing_cons_other same]
      refine ⟨last, fun e he => ?_⟩
      rw [List.mem_cons, found e he]
      refine or_iff_right fun hk => same ?_
      rw [← he, hk]

omit hh in
theorem atomSequence_outside {ks : List Nat} (m : Memory) {c : Nat} (hc : ∀ k ∈ ks, ¬ (addr k ≤ c ∧ c < addr k + n)) :
    readByte (atomSequence addr n h ks m).1 c = readByte m c := by
  induction ks generalizing m with
  | nil => rfl
  | cons k ks ih =>
    rw [atomSequence_cons, ih _ fun k hk => hc k (List.mem_cons_of_mem _ hk), readByte_writeBytes, length_natLe, if_neg (hc k List.mem_cons_self)]

end

/-! ## Groups of equal addresses (R128) -/

/-- Groups performed one after another: the memory, and the value that each thread found. -/
def runGroups (n : Nat) (h : Nat → Nat → Nat) : List (Nat × List Nat) → Memory → Memory × List (Nat × Nat)
  | [], m => (m, [])
  | g :: gs, m =>
    ((runGroups n h gs (writeBytes m g.1 (natLe n (chain h g.2 (valueAt m n g.1)).1))).1,
      (chain h g.2 (valueAt m n g.1)).2 ++ (runGroups n h gs (writeBytes m g.1 (natLe n (chain h g.2 (valueAt m n g.1)).1))).2)

theorem runGroups_keys (n : Nat) (h : Nat → Nat → Nat) (gs : List (Nat × List Nat)) (m : Memory) :
    (runGroups n h gs m).2.map (·.1) = gs.flatMap (·.2) := by
  induction gs generalizing m with
  | nil => rfl
  | cons g gs ih => rw [runGroups, List.map_append, chain_keys, ih, List.flatMap_cons]

theorem runGroups_outside {n : Nat} {h : Nat → Nat → Nat} {gs : List (Nat × List Nat)} (m : Memory) {c : Nat}
    (hc : ∀ g ∈ gs, ¬ (g.1 ≤ c ∧ c < g.1 + n)) : readByte (runGroups n h gs m).1 c = readByte m c := by
  induction gs generalizing m with
  | nil => rfl
  | cons g gs ih =>
    rw [runGroups, ih _ fun g hg => hc g (List.mem_cons_of_mem _ hg), readByte_writeBytes, length_natLe, if_neg (hc g List.mem_cons_self)]

theorem chain_lt {n : Nat} {h : Nat → Nat → Nat} (hh : ∀ k v, v < 256 ^ n → h k v < 256 ^ n) (ks : List Nat) {v : Nat} (hv : v < 256 ^ n) :
    (chain h ks v).1 < 256 ^ n := by
  induction ks generalizing v with
  | nil => exact hv
  | cons k ks ih => exact ih (hh k v hv)

/-- The groups of some threads by address: each address once, with its threads in order. -/
structure GroupsBy (addr : Nat → Nat) (ts : List Nat) (gs : List (Nat × List Nat)) : Prop where
  once : (gs.map (·.1)).Nodup
  members : ∀ g ∈ gs, g.2 = sharing addr g.1 ts
  covered : ∀ a, a ∈ gs.map (·.1) ↔ ∃ k ∈ ts, addr k = a

/-- One thread joins the groups. -/
def joinGroups (gs : List (Nat × List Nat)) (e : Nat × Nat) : List (Nat × List Nat) :=
  if gs.any fun g => decide (g.1 = e.1) then gs.map fun g => if g.1 = e.1 then (g.1, g.2 ++ [e.2]) else g
  else gs ++ [(e.1, [e.2])]

theorem atomGroupsOf_eq (as : List (Nat × Nat)) : atomGroupsOf as = as.foldl joinGroups [] := rfl

theorem groupsBy_join {addr : Nat → Nat} {ts : List Nat} {gs : List (Nat × List Nat)} (h : GroupsBy addr ts gs) (k : Nat) :
    GroupsBy addr (ts ++ [k]) (joinGroups gs (addr k, k)) := by
  obtain ⟨once, members, covered⟩ := h
  have sharing_append (a : Nat) : sharing addr a (ts ++ [k]) = sharing addr a ts ++ if addr k = a then [k] else [] := by
    rw [sharing, List.filter_append, List.filter_singleton]
    simp [sharing]
  have inKeys : (gs.any fun g => decide (g.1 = addr k)) = true ↔ addr k ∈ gs.map (·.1) := by simp
  have coveredNow (a : Nat) : (∃ j ∈ ts ++ [k], addr j = a) ↔ a ∈ gs.map (·.1) ∨ a = addr k := by
    rw [covered]; simp [or_and_right, exists_or, eq_comm]
  rw [joinGroups]
  split
  · next known =>
    have keys : (gs.map fun g => if g.1 = addr k then (g.1, g.2 ++ [k]) else g).map (·.1) = gs.map (·.1) := by
      rw [List.map_map]
      exact List.map_congr_left fun g _ => by rw [Function.comp_apply, apply_ite Prod.fst, ite_self]
    refine ⟨keys ▸ once, fun g' hg' => ?_, fun a => ?_⟩
    · obtain ⟨g, hg, rfl⟩ := List.mem_map.1 hg'
      by_cases here : g.1 = addr k
      · rw [if_pos here, sharing_append, if_pos here.symm, members g hg]
      · rw [if_neg here, sharing_append, if_neg (Ne.symm here), List.append_nil]
        exact members g hg
    · rw [keys, coveredNow]
      exact ⟨.inl, fun h => h.elim id fun h => h ▸ inKeys.1 known⟩
  · next unknown =>
    have new : addr k ∉ gs.map (·.1) := fun h => unknown (inKeys.2 h)
    have none : sharing addr (addr k) ts = [] := List.filter_eq_nil_iff.2 fun j hj hd => new ((covered _).2 ⟨j, hj, of_decide_eq_true hd⟩)
    refine ⟨?_, fun g hg => ?_, fun a => ?_⟩
    · rw [List.map_append, List.nodup_append]
      exact ⟨once, List.nodup_singleton _, fun a ha b hb => by rw [List.mem_singleton.1 hb]; exact fun (h : a = addr k) => new (h ▸ ha)⟩
    · obtain hg | hg := List.mem_append.1 hg
      · have differ : addr k ≠ g.1 := fun h => new (h ▸ List.mem_map_of_mem hg)
        rw [sharing_append, if_neg differ, List.append_nil]
        exact members g hg
      · rw [List.mem_singleton.1 hg, sharing_append, if_pos rfl, none, List.nil_append]
    · rw [coveredNow, List.map_append, List.mem_append]
      simp

theorem groupsBy_atomGroupsOf (addr : Nat → Nat) (ts : List Nat) : GroupsBy addr ts (atomGroupsOf (ts.map fun k => (addr k, k))) := by
  rw [atomGroupsOf_eq]
  induction ts using List.reverseRecOn with
  | nil => exact ⟨List.nodup_nil, fun _ h => absurd h List.not_mem_nil, fun a => by simp⟩
  | append_singleton ts k ih =>
    rw [List.map_append, List.foldl_append]
    exact groupsBy_join ih k

theorem runGroups_apart {n : Nat} {h : Nat → Nat → Nat} {gs : List (Nat × List Nat)} (ha : ∀ g ∈ gs, g.1 % n = 0) (m : Memory) {a : Nat}
    (hloc : a % n = 0) (hne : a ∉ gs.map (·.1)) : valueAt (runGroups n h gs m).1 n a = valueAt m n a := by
  rw [valueAt, readBytes_congr fun c hl hu => runGroups_outside m fun g hg hin => ?_]
  · rfl
  · have differ : a ≠ g.1 := fun he => hne (he ▸ List.mem_map_of_mem hg)
    obtain happ | happ := apart_of_ne hloc (ha g hg) differ <;> omega

/-- Groups at different locations: each location ends with what its group leaves. -/
theorem runGroups_location {n : Nat} {h : Nat → Nat → Nat} (hh : ∀ k v, v < 256 ^ n → h k v < 256 ^ n) {gs : List (Nat × List Nat)}
    (once : (gs.map (·.1)).Nodup) (ha : ∀ g ∈ gs, g.1 % n = 0) (m : Memory) :
    (∀ g ∈ gs, valueAt (runGroups n h gs m).1 n g.1 = (chain h g.2 (valueAt m n g.1)).1) ∧
      ∀ e, e ∈ (runGroups n h gs m).2 ↔ ∃ g ∈ gs, e ∈ (chain h g.2 (valueAt m n g.1)).2 := by
  induction gs generalizing m with
  | nil => exact ⟨fun _ hg => absurd hg List.not_mem_nil, fun e => by simp [runGroups]⟩
  | cons g gs ih =>
    rw [List.map_cons, List.nodup_cons] at once
    obtain ⟨first, once⟩ := once
    have later : ∀ g ∈ gs, g.1 % n = 0 := fun g hg => ha g (List.mem_cons_of_mem _ hg)
    obtain ⟨last, found⟩ := ih once later (writeBytes m g.1 (natLe n (chain h g.2 (valueAt m n g.1)).1))
    have kept (g' : Nat × List Nat) (hg' : g' ∈ gs) :
        valueAt (writeBytes m g.1 (natLe n (chain h g.2 (valueAt m n g.1)).1)) n g'.1 = valueAt m n g'.1 :=
      valueAt_write_apart m _ (later g' hg') (ha g List.mem_cons_self) fun he => first (he ▸ List.mem_map_of_mem hg')
    rw [runGroups]
    refine ⟨fun g' hg' => ?_, fun e => ?_⟩
    · obtain rfl | hg' := List.mem_cons.1 hg'
      · dsimp only
        rw [runGroups_apart later _ (ha _ List.mem_cons_self) first]
        exact valueAt_write_same m _ (chain_lt hh _ (valueAt_lt m n _))
      · exact (last g' hg').trans (by rw [kept g' hg'])
    · dsimp only
      simp only [List.mem_append, found e, List.mem_cons, exists_eq_or_imp]
      exact or_congr_right (exists_congr fun g' => and_congr_right fun hg' => by rw [kept g' hg'])

/-! ## Groups against threads one by one (R129) -/

section
variable {addr : Nat → Nat} {n : Nat} {h : Nat → Nat → Nat} {ts : List Nat} {gs : List (Nat × List Nat)} (hgs : GroupsBy addr ts gs)
include hgs

theorem mem_of_mem_group {g : Nat × List Nat} {k : Nat} (hg : g ∈ gs) (hk : k ∈ g.2) : k ∈ ts ∧ addr k = g.1 :=
  mem_sharing.1 (hgs.members g hg ▸ hk)

theorem exists_group {k : Nat} (hk : k ∈ ts) : ∃ g ∈ gs, g.1 = addr k := by
  obtain ⟨g, hg, he⟩ := List.mem_map.1 ((hgs.covered (addr k)).2 ⟨k, hk, rfl⟩)
  exact ⟨g, hg, he⟩

/-- Each thread is in one group, once. -/
theorem members_nodup (hts : ts.Nodup) : (gs.flatMap (·.2)).Nodup := by
  rw [List.nodup_flatMap]
  refine ⟨fun g hg => by rw [hgs.members g hg]; exact hts.filter _, ?_⟩
  have keys := List.pairwise_map.1 hgs.once
  refine List.Pairwise.imp_of_mem (fun {g g'} hg hg' hne => ?_) keys
  exact fun k hk hk' => hne ((mem_of_mem_group hgs hg hk).2.symm.trans (mem_of_mem_group hgs hg' hk').2)

theorem mem_members {k : Nat} : k ∈ gs.flatMap (·.2) ↔ k ∈ ts := by
  rw [List.mem_flatMap]
  refine ⟨fun ⟨g, hg, hk⟩ => (mem_of_mem_group hgs hg hk).1, fun hk => ?_⟩
  obtain ⟨g, hg, he⟩ := exists_group hgs hk
  exact ⟨g, hg, by rw [hgs.members g hg]; exact mem_sharing.2 ⟨hk, he.symm⟩⟩

variable (ha : ∀ k ∈ ts, addr k % n = 0)
include ha

theorem group_aligned {g : Nat × List Nat} (hg : g ∈ gs) : g.1 % n = 0 := by
  obtain ⟨k, hk, he⟩ := (hgs.covered g.1).1 (List.mem_map_of_mem hg)
  exact he ▸ ha k hk

variable (hh : ∀ k v, v < 256 ^ n → h k v < 256 ^ n)
include hh

/-- Performed group by group or thread by thread, the memory is the same. -/
theorem readByte_runGroups (m : Memory) (c : Nat) : readByte (runGroups n h gs m).1 c = readByte (atomSequence addr n h ts m).1 c := by
  by_cases hin : ∃ k ∈ ts, addr k ≤ c ∧ c < addr k + n
  · obtain ⟨k, hk, hl, hu⟩ := hin
    obtain ⟨g, hg, he⟩ := exists_group hgs hk
    obtain ⟨last, -⟩ := runGroups_location hh hgs.once (fun g hg => group_aligned hgs ha hg) m
    obtain ⟨last', -⟩ := atomSequence_location hh ha m (ha k hk)
    refine readByte_of_valueAt (n := n) (a := addr k) ?_ hl hu
    rw [last', ← he, last g hg, hgs.members g hg]
  · rw [runGroups_outside m fun g hg hc => ?_, atomSequence_outside m fun k hk hc => hin ⟨k, hk, hc⟩]
    obtain ⟨k, hk, he⟩ := (hgs.covered g.1).1 (List.mem_map_of_mem hg)
    exact hin ⟨k, hk, he ▸ hc⟩

/-- So is the value that each thread finds. -/
theorem mem_runGroups (m : Memory) {e : Nat × Nat} (he : e.1 ∈ ts) : e ∈ (runGroups n h gs m).2 ↔ e ∈ (atomSequence addr n h ts m).2 := by
  obtain ⟨-, found⟩ := runGroups_location hh hgs.once (fun g hg => group_aligned hgs ha hg) m
  obtain ⟨-, found'⟩ := atomSequence_location hh ha m (ha e.1 he)
  rw [found, found' e rfl]
  refine ⟨fun ⟨g, hg, hm⟩ => ?_, fun hm => ?_⟩
  · have here : e.1 ∈ g.2 := chain_keys h g.2 _ ▸ List.mem_map_of_mem hm
    obtain ⟨-, hloc⟩ := mem_of_mem_group hgs hg here
    rw [hloc, ← hgs.members g hg]
    exact hm
  · obtain ⟨g, hg, hloc⟩ := exists_group hgs he
    refine ⟨g, hg, ?_⟩
    rw [hgs.members g hg, hloc]
    exact hm

end

end Sys2Proof.SeedbedAtomic
end

section
/-! SUPPORT. Seedbed atomics (O6): the operations of Table 05-10 as the bank performs them, and the statement. -/

namespace Sys2Proof.SeedbedAtomic

open Sys2Proof Sys2Proof.Machine Sys2Proof.Claim Sys2Proof.Tokens Sys2Proof.ArrayEnd Sys2Proof.DrillPaths Sys2Proof.DrillIssue Sys2Proof.AnswerEnds
open Sys2Proof.Seedbed

/-! ## The operations (Table 05-10) -/

theorem umin_toNat {n : Nat} (v b : BitVec n) : (if v.ule b then v else b).toNat = min v.toNat b.toNat := by
  rw [Nat.min_def, ← apply_ite BitVec.toNat]
  exact congrArg BitVec.toNat (if_congr decide_eq_true_iff rfl rfl)

theorem umax_toNat {n : Nat} (v b : BitVec n) : (if b.ule v then v else b).toNat = max v.toNat b.toNat := by
  rw [Nat.max_comm, Nat.max_def, ← apply_ite BitVec.toNat]
  exact congrArg BitVec.toNat (if_congr decide_eq_true_iff rfl rfl)

theorem smin_toNat {n : Nat} (v b : BitVec n) : (if v.sle b then v else b).toNat = if b.toInt < v.toInt then b.toNat else v.toNat := by
  rw [← apply_ite BitVec.toNat, ← ite_not]
  exact congrArg BitVec.toNat (if_congr (decide_eq_true_iff.not.trans not_le) rfl rfl)

theorem smax_toNat {n : Nat} (v b : BitVec n) : (if b.sle v then v else b).toNat = if v.toInt < b.toInt then b.toNat else v.toNat := by
  rw [← apply_ite BitVec.toNat, ← ite_not]
  exact congrArg BitVec.toNat (if_congr (decide_eq_true_iff.not.trans not_le) rfl rfl)

theorem atom64_toNat (op : AtomOp) (v b c : DWord) : (atom64 op v b c).toNat = atomValue op 4 v.toNat b.toNat c.toNat := by
  cases op with
  | add => exact BitVec.toNat_add v b
  | min => exact umin_toNat v b
  | max => exact umax_toNat v b
  | and => exact BitVec.toNat_and v b
  | or => exact BitVec.toNat_or v b
  | xor => exact BitVec.toNat_xor v b
  | xch => rfl
  | cas => simp only [atom64, atomValue, ← BitVec.toNat_inj, apply_ite BitVec.toNat]

/-- The TYPE of an atomic of 32 bits. -/
def atomTy32 (z : Nat) : AtomTy := match z with
  | 0 => .u32
  | 1 => .s32
  | 2 => .f32
  | _ => .bf16x2

theorem atom32_min_toNat {z : Nat} (hz : z < 4) (v b c : Word) :
    (atom32 .min (atomTy32 z) v b c).toNat = atomValue .min z v.toNat b.toNat c.toNat := by
  simp only [atomValue, BitVec.ofNat_toNat, BitVec.setWidth_eq]
  obtain rfl | rfl | rfl | rfl : z = 0 ∨ z = 1 ∨ z = 2 ∨ z = 3 := by omega
  · exact umin_toNat v b
  · exact smin_toNat v b
  · rfl
  · exact umin_toNat v b

theorem atom32_max_toNat {z : Nat} (hz : z < 4) (v b c : Word) :
    (atom32 .max (atomTy32 z) v b c).toNat = atomValue .max z v.toNat b.toNat c.toNat := by
  simp only [atomValue, BitVec.ofNat_toNat, BitVec.setWidth_eq]
  obtain rfl | rfl | rfl | rfl : z = 0 ∨ z = 1 ∨ z = 2 ∨ z = 3 := by omega
  · exact umax_toNat v b
  · exact smax_toNat v b
  · rfl
  · exact umax_toNat v b

theorem atom32_add_toNat {z : Nat} (hz : z < 4) (v b c : Word) :
    (atom32 .add (atomTy32 z) v b c).toNat = atomValue .add z v.toNat b.toNat c.toNat := by
  simp only [atomValue, BitVec.ofNat_toNat, BitVec.setWidth_eq]
  obtain rfl | rfl | rfl | rfl : z = 0 ∨ z = 1 ∨ z = 2 ∨ z = 3 := by omega
  · exact BitVec.toNat_add v b
  · exact BitVec.toNat_add v b
  · rfl
  · rfl

theorem atom32_toNat (op : AtomOp) {z : Nat} (hz : z < 4) (v b c : Word) :
    (atom32 op (atomTy32 z) v b c).toNat = atomValue op z v.toNat b.toNat c.toNat := by
  cases op with
  | add => exact atom32_add_toNat hz v b c
  | min => exact atom32_min_toNat hz v b c
  | max => exact atom32_max_toNat hz v b c
  | and => exact BitVec.toNat_and v b
  | or => exact BitVec.toNat_or v b
  | xor => exact BitVec.toNat_xor v b
  | xch => rfl
  | cas => simp only [atom32, atomValue, ← BitVec.toNat_inj, apply_ite BitVec.toNat]

/-! ## The operands (R145, R160) -/

/-- Bytes of an atomic's location. -/
def locBytes (w : DWord) : Nat := if iSize w = 4 then 8 else 4

/-- Operand B or C of thread `k`, read at register `i`. -/
def operandOf (x : Drill) (w : DWord) (u : Bool) (k i : Nat) : Nat :=
  if iSize w = 4 then (x.rd u k (i + 1) ++ x.rd u k i).toNat else (x.rd u k i).toNat

/-- What thread `k` leaves where `old` stood. -/
def atomEffect (x : Drill) (w : DWord) (op : AtomOp) (k old : Nat) : Nat :=
  atomValue op (iSize w) old (operandOf x w (iBU w) k (iB w)) (operandOf x w (iCU w) k (iC w))

theorem seedbedAtomics_eq (x : Drill) (w : DWord) (op : AtomOp) (ts : List Nat) (m : Memory) :
    seedbedAtomics x w op ts m = atomSequence (fun k => (x.seedbedAddr w k).toNat) (locBytes w) (atomEffect x w op) ts m := rfl

theorem atomSrc_toNat (x : Drill) (w : DWord) (u : Bool) (k i : Nat) : (x.atomSrc w u k i).toNat = operandOf x w u k i := by
  have low := (x.rd u k i).isLt
  have high := (x.rd u k (i + 1)).isLt
  rw [Drill.atomSrc, operandOf, typeRegs, BitVec.toNat_ofNat]
  split
  · rw [BitVec.toNat_append, ← Nat.shiftLeft_add_eq_or_of_lt low, Nat.shiftLeft_eq]
    simp only [Drill.rdN]
    omega
  · simp only [Drill.rdN]
    omega

/-- Only a CAS uses operand C. -/
theorem atomValue_operandC {op : AtomOp} (h : op ≠ .cas) (z v b c c' : Nat) : atomValue op z v b c = atomValue op z v b c' := by
  cases op with
  | cas => exact absurd rfl h
  | _ => rfl

theorem atomTy_size {w : DWord} (hz : iSize w ≤ 4) : (iSize w = 4 ∧ atomTy w = .u64) ∨ (iSize w < 4 ∧ atomTy w = atomTy32 (iSize w)) := by
  rw [atomTy]
  generalize iSize w = z at hz ⊢
  interval_cases z
  all_goals simp [atomTy32]

theorem atomBytes_atomTy {w : DWord} (hz : iSize w ≤ 4) : atomBytes (atomTy w) = locBytes w := by
  obtain ⟨h4, ty⟩ | ⟨h4, ty⟩ := atomTy_size hz
  · rw [ty, locBytes, if_pos h4]; rfl
  · rw [ty, locBytes, if_neg (by omega)]
    generalize iSize w = z at h4 ⊢
    interval_cases z <;> rfl

theorem operandOf_lt (x : Drill) (w : DWord) (u : Bool) (k i : Nat) : operandOf x w u k i < 256 ^ locBytes w := by
  rw [operandOf, locBytes]
  split
  · exact (x.rd u k (i + 1) ++ x.rd u k i).isLt
  · exact (x.rd u k i).isLt

/-- A group's operation is that of Table 05-10, on operands of the location's width. -/
theorem groupApply_size {w : DWord} (hz : iSize w ≤ 4) {g : AtomGroup} (hg : g.ty = atomTy w) {v : Nat} (hv : v < 256 ^ locBytes w) (m : AtomMember) :
    groupApply g v m = atomValue g.op (iSize w) v (m.b.toNat % 256 ^ locBytes w) (m.c.toNat % 256 ^ locBytes w) ∧
      groupApply g v m < 256 ^ locBytes w := by
  obtain ⟨h4, ty⟩ | ⟨h4, ty⟩ := atomTy_size hz
  · have wide : groupApply g v m = (atom64 g.op (BitVec.ofNat 64 v) m.b m.c).toNat := by rw [groupApply, hg, ty]
    rw [locBytes, if_pos h4, show 256 ^ 8 = 2 ^ 64 from rfl] at hv ⊢
    refine ⟨?_, wide ▸ BitVec.isLt _⟩
    rw [wide, atom64_toNat, h4, BitVec.toNat_ofNat, Nat.mod_eq_of_lt hv, Nat.mod_eq_of_lt m.b.isLt, Nat.mod_eq_of_lt m.c.isLt]
  · have narrow : groupApply g v m = (atom32 g.op (atomTy32 (iSize w)) (BitVec.ofNat 32 v) (m.b.setWidth 32) (m.c.setWidth 32)).toNat := by
      rw [groupApply, hg, ty]
      generalize iSize w = z at h4 ⊢
      interval_cases z <;> rfl
    rw [locBytes, if_neg (by omega), show 256 ^ 4 = 2 ^ 32 from rfl] at hv ⊢
    refine ⟨?_, narrow ▸ BitVec.isLt _⟩
    rw [narrow, atom32_toNat _ h4, BitVec.toNat_ofNat, Nat.mod_eq_of_lt hv, BitVec.toNat_setWidth, BitVec.toNat_setWidth]

/-! ## A group is its threads one by one (R129) -/

/-- The member that thread `k` is in a group. -/
def memberOf (x : Drill) (w : DWord) (op : AtomOp) (k : Nat) : AtomMember :=
  { thread := k, b := x.atomSrc w (iBU w) k (iB w), c := if op = .cas then x.atomSrc w (iCU w) k (iC w) else 0 }

section
variable (x : Drill) (d : DrillRef) {w : DWord} (op : AtomOp) (hz : iSize w ≤ 4)
include hz

theorem groupApply_group (ks : List Nat) (k : Nat) {v : Nat} (hv : v < 256 ^ locBytes w) :
    groupApply (x.group d w op 0 false ks) v (memberOf x w op k) = atomEffect x w op k v := by
  obtain ⟨effect, -⟩ := groupApply_size hz (g := x.group d w op 0 false ks) rfl hv (memberOf x w op k)
  rw [effect, memberOf, atomSrc_toNat, Nat.mod_eq_of_lt (operandOf_lt x w _ k _)]
  by_cases cas : op = .cas
  · rw [if_pos cas, atomSrc_toNat, Nat.mod_eq_of_lt (operandOf_lt x w _ k _)]
    rfl
  · exact atomValue_operandC cas ..

theorem atomEffect_lt (k : Nat) {v : Nat} (hv : v < 256 ^ locBytes w) : atomEffect x w op k v < 256 ^ locBytes w := by
  obtain ⟨-, bounded⟩ := groupApply_size hz (g := x.group ⟨0, 0, 0⟩ w op 0 false []) rfl hv (memberOf x w op k)
  rwa [groupApply_group x ⟨0, 0, 0⟩ op hz [] k hv] at bounded

omit hz in
theorem locBytes_le (w : DWord) : 256 ^ locBytes w ≤ 2 ^ 64 := by rw [locBytes]; split <;> decide

/-- A group performed at once leaves, and answers to each member, what its threads do one by one. -/
theorem groupRun_chain (all ks : List Nat) {v : Nat} (hv : v < 256 ^ locBytes w) :
    (groupRun (x.group d w op 0 false all) v (ks.map (memberOf x w op))).1 = (chain (atomEffect x w op) ks v).1 ∧
      (ks.zip (groupRun (x.group d w op 0 false all) v (ks.map (memberOf x w op))).2).map (fun e => (e.1, e.2.toNat)) =
        (chain (atomEffect x w op) ks v).2 := by
  induction ks generalizing v with
  | nil => exact ⟨rfl, rfl⟩
  | cons k ks ih =>
    obtain ⟨last, found⟩ := ih (atomEffect_lt x op hz k hv)
    have fits : v < 2 ^ 64 := lt_of_lt_of_le hv (locBytes_le w)
    rw [List.map_cons, groupRun, groupApply_group x d op hz all k hv, chain]
    refine ⟨last, ?_⟩
    rw [List.zip_cons_cons, List.map_cons, found, BitVec.toNat_ofNat, Nat.mod_eq_of_lt fits]

end

/-! ## What a seedbed atomic does (R173) -/

/-- Write the values that threads found to their destinations. -/
def writeFound (x : Drill) (w : DWord) (es : List (Nat × Nat)) : Drill :=
  es.foldl (fun y e => y.wrN (iDU w) e.1 (iDst w) (typeRegs (iSize w)) e.2) x

theorem writeFound_append (x : Drill) (w : DWord) (es fs : List (Nat × Nat)) :
    writeFound x w (es ++ fs) = writeFound (writeFound x w es) w fs := List.foldl_append

/-- One group at the bank: the core and the drill's registers. -/
def atomStep (x : Drill) (d : DrillRef) (w : DWord) (op : AtomOp) (returns : Bool) (r : Core × Drill) (g : Nat × List Nat) : Core × Drill :=
  let grp := x.group d w op 0 false g.2
  let (v, olds) := groupRun grp (leNat (readBytes r.1.seedbed g.1 (atomBytes (atomTy w)))) grp.members
  (r.1.sbPut g.1 (natLe (atomBytes (atomTy w)) v),
    if returns then (g.2.zip olds).foldl (fun (z : Drill) e => z.wrN (iDU w) e.1 (iDst w) (typeRegs (iSize w)) e.2.toNat) r.2 else r.2)

section
variable (x : Drill) (d : DrillRef) {w : DWord} (op : AtomOp) (returns : Bool) (hz : iSize w ≤ 4)
include hz

theorem atomStep_eq (c : Core) (y : Drill) (g : Nat × List Nat) : ∃ mark, atomStep x d w op returns (c, y) g =
    (withSeedbed c (writeBytes c.seedbed g.1 (natLe (locBytes w) (chain (atomEffect x w op) g.2 (valueAt c.seedbed (locBytes w) g.1)).1)) c.sbPoison mark,
      if returns then writeFound y w (chain (atomEffect x w op) g.2 (valueAt c.seedbed (locBytes w) g.1)).2 else y) := by
  obtain ⟨last, found⟩ := groupRun_chain x d op hz g.2 g.2 (valueAt_lt c.seedbed (locBytes w) g.1)
  rw [← last, ← found, writeFound, List.foldl_map, ← atomBytes_atomTy hz]
  exact ⟨_, rfl⟩

theorem foldl_atomStep (gs : List (Nat × List Nat)) (c : Core) (y : Drill) : ∃ mark, gs.foldl (atomStep x d w op returns) (c, y) =
    (withSeedbed c (runGroups (locBytes w) (atomEffect x w op) gs c.seedbed).1 c.sbPoison mark,
      if returns then writeFound y w (runGroups (locBytes w) (atomEffect x w op) gs c.seedbed).2 else y) := by
  induction gs generalizing c y with
  | nil => exact ⟨c.liveMark, by cases returns <;> rfl⟩
  | cons g gs ih =>
    obtain ⟨mark, first⟩ := atomStep_eq x d op returns hz c y g
    rw [List.foldl_cons, first]
    obtain ⟨mark', rest⟩ := ih (withSeedbed c _ c.sbPoison mark) _
    refine ⟨mark', rest.trans ?_⟩
    cases returns with
    | true => rw [runGroups, if_pos rfl, if_pos rfl, writeFound_append]; rfl
    | false => rfl

end

/-- A seedbed atomic that traps in no thread: its groups in the seedbed, and the drill. -/
theorem seedbedAtomic_fine {s : State} {d : DrillRef} {x : Drill} {w act : DWord} (op : AtomOp) (returns : Bool) (hz : iSize w ≤ 4)
    (h : SeedbedFine s d x w (execThreads w act) (locBytes w) true) (ht : s.tracked d.slice [] (x.sbSpans w (execThreads w act) (locBytes w)) = false) :
    ∃ gs mark, GroupsBy (fun k => (x.seedbedAddr w k).toNat) (execThreads w act) gs ∧ s.seedbedAtomic d x w act op returns =
      some ((s.setCore d.slice (withSeedbed (s.core d.slice) (runGroups (locBytes w) (atomEffect x w op) gs (s.core d.slice).seedbed).1
        (s.core d.slice).sbPoison mark)).setDrill d
          (if returns then writeFound x w (runGroups (locBytes w) (atomEffect x w op) gs (s.core d.slice).seedbed).2 else x).retire) := by
  have groups := groupsBy_atomGroupsOf (fun k => (x.seedbedAddr w k).toNat) (execThreads w act)
  obtain ⟨mark, run⟩ := foldl_atomStep x d op returns hz
    (atomGroupsOf ((execThreads w act).map fun k => ((x.seedbedAddr w k).toNat, k))) (s.core d.slice) x
  refine ⟨_, mark, groups, ?_⟩
  rw [← atomBytes_atomTy hz] at h ht
  have bank : s.seedbedAtomic d x w act op returns =
      match pickTrap (s.sbTraps d x w (execThreads w act) (atomBytes (atomTy w)) true) with
      | some (t, mask, a) => some (s.park d t (if iDU w then act else mask) a w)
      | none =>
        if s.tracked d.slice [] (x.sbSpans w (execThreads w act) (atomBytes (atomTy w))) then none
        else
          let r := (atomGroupsOf ((execThreads w act).map fun k => ((x.seedbedAddr w k).toNat, k))).foldl (atomStep x d w op returns) (s.core d.slice, x)
          some ((s.setCore d.slice r.1).setDrill d r.2.retire) := rfl
  rw [bank, sbTraps_of_fine h, ht, run]
  rfl

end Sys2Proof.SeedbedAtomic
end

section
/-! SUPPORT. Seedbed atomics (O6): the rows of the atomic class and the statement (R128, R129, R160, Table 05-10). -/

namespace Sys2Proof.SeedbedAtomic

open Sys2Proof Sys2Proof.Machine Sys2Proof.Claim Sys2Proof.Tokens Sys2Proof.ArrayEnd Sys2Proof.DrillPaths Sys2Proof.DrillIssue Sys2Proof.AnswerEnds
open Sys2Proof.Seedbed

/-! ## The rows (R143) -/

/-- A row of the atomic class: where its result goes and its greatest TYPE. -/
def AtomRow (op : Nat) (dst : Nat → Opd) (most : Nat) : Prop :=
  ∀ w, iCls w = 6 → iOp w = op → ∃ sp, opSpec w = some sp ∧ sp.dst = dst (iSize w) ∧ (sp.modOk = true → iSize w ≤ most)

theorem le_of_listed {free : Bool} {types : List Nat} {z most : Nat} (ht : ∀ z ∈ types, z ≤ most) (h : (free && types.contains z) = true) : z ≤ most :=
  ht z (List.contains_iff_mem.1 (Bool.and_eq_true_iff.1 h).2)

/-- A row of the atomic class by the number of its operation. -/
theorem atomRow_of_spec {op : Nat} {dst : Nat → Opd} {most : Nat} (types : List Nat) (ht : ∀ z ∈ types, z ≤ most)
    (h : ∀ w, iCls w = 6 → iOp w = op → ∃ free b c,
      opSpec w = some (mkSpec true false (dst (iSize w)) (.reg 1) b c (free && types.contains (iSize w)))) :
    AtomRow op dst most := fun w hc ho => by
  obtain ⟨free, b, c, spec⟩ := h w hc ho
  exact ⟨_, spec, rfl, le_of_listed ht⟩

theorem atomRow_returns : ∀ r ∈ atomRows, AtomRow r.2.1 (fun z => .reg (typeRegs z)) 4 := by
  simp only [atomRows, List.forall_mem_cons]
  refine ⟨atomRow_of_spec [0, 1, 2, 3, 4] (by decide) ?_, atomRow_of_spec [0, 1, 2] (by decide) ?_, atomRow_of_spec [0, 1, 2] (by decide) ?_,
    atomRow_of_spec [0, 4] (by decide) ?_, atomRow_of_spec [0, 4] (by decide) ?_, atomRow_of_spec [0, 4] (by decide) ?_,
    atomRow_of_spec [0, 4] (by decide) ?_, atomRow_of_spec [0, 4] (by decide) ?_, fun _ hr => absurd hr List.not_mem_nil⟩
  all_goals
    intro w hc ho
    unfold opSpec
    rw [hc, ho]
    exact ⟨_, _, _, rfl⟩

theorem atomRow_radd : AtomRow 8 (fun _ => .unused) 3 := by
  refine atomRow_of_spec [0, 1, 2, 3] (by decide) fun w hc ho => ?_
  unfold opSpec
  rw [hc, ho]
  exact ⟨_, _, _, rfl⟩

theorem legal_modOk {w : DWord} {sp : OpSpec} (hl : legalWord w = true) (hs : opSpec w = some sp) : sp.modOk = true := by
  simp only [legalWord, hs, Bool.and_eq_true] at hl
  tauto

theorem legal_noDst {w : DWord} {sp : OpSpec} (hl : legalWord w = true) (hs : opSpec w = some sp) (hd : sp.dst = .unused) : iDU w = false := by
  simp only [legalWord, hs, hd, opdOk, Bool.and_eq_true, Bool.not_eq_true'] at hl
  tauto

theorem typeRegs_dvd (z : Nat) : typeRegs z ∣ 64 := by
  unfold typeRegs
  split <;> decide

/-! ## The rows' effect -/

theorem execThreads_nodup (w act : DWord) : (execThreads w act).Nodup := by
  rw [execThreads]
  split
  · exact List.nodup_singleton 0
  · exact List.nodup_range.filter _

theorem exec_atomRows (d : DrillRef) (f : Fetched) (s : State) :
    ∀ r ∈ atomRows, Machine.exec (r.1 d f) s = .next (s.atomic d f r.2.1 r.2.2 true) := by
  simp only [atomRows, List.forall_mem_cons]
  exact ⟨rfl, rfl, rfl, rfl, rfl, rfl, rfl, rfl, fun _ hr => absurd hr List.not_mem_nil⟩

/-- All that a seedbed atomic leaves (R129, R173). -/
theorem seedbedAtomic_effect {s : State} {d : DrillRef} {f : Fetched} {code : Nat} {x : Drill} {p : Path} {act : DWord} {i : Instr} (op : AtomOp)
    (returns : Bool) (h : Ready s d f 6 code x p act) (hz : iSize f.word ≤ 4)
    (fine : SeedbedFine s d x f.word (execThreads f.word act) (locBytes f.word) true)
    (ht : s.tracked d.slice [] (x.sbSpans f.word (execThreads f.word act) (locBytes f.word)) = false)
    (exec : Machine.exec i s = .next (s.atomic d f code op returns)) :
    ∃ gs t z, GroupsBy (fun k => (x.seedbedAddr f.word k).toNat) (execThreads f.word act) gs ∧
      z = (if returns then writeFound x f.word (runGroups (locBytes f.word) (atomEffect x f.word op) gs (s.core d.slice).seedbed).2 else x).retire ∧
      Machine.exec i s = .next t ∧ t.drill? d = some z ∧ SeedbedOnly s t d ∧
      ∀ a, readByte (t.core d.slice).seedbed a =
        readByte (seedbedAtomics x f.word op (execThreads f.word act) (s.core d.slice).seedbed).1 a := by
  obtain ⟨hx, -, -, -, hm, -⟩ := id h
  obtain ⟨gs, mark, groups, bank⟩ := seedbedAtomic_fine op returns hz fine ht
  have he := exec_of_body (coll := false) h nofun (exec.trans (congrArg Host.Outcome.next (memIssue_idle hx hm f _ _ _)))
    ((if_pos fine.1).trans bank)
  obtain ⟨t, run, drill, only, seedbed, -⟩ := seedbed_effect s d _ _ (s.core d.slice).sbPoison mark
  rw [run] at he
  refine ⟨gs, t, _, groups, rfl, he, drill, only, fun a => ?_⟩
  rw [seedbed, seedbedAtomics_eq]
  exact readByte_runGroups groups (fun k hk => (fine.2 k hk).2.1) (fun k _ => atomEffect_lt x op hz k) _ a

/-- The drill after every thread has written what it found. -/
theorem writeFound_wrote (x : Drill) {w act : DWord} {m : Memory} (op : AtomOp) {gs : List (Nat × List Nat)} (hz : iSize w ≤ 4)
    (hd : iDst w + typeRegs (iSize w) ≤ 64) (ha : ∀ k ∈ execThreads w act, (x.seedbedAddr w k).toNat % locBytes w = 0)
    (hgs : GroupsBy (fun k => (x.seedbedAddr w k).toNat) (execThreads w act) gs) :
    writeFound x w (runGroups (locBytes w) (atomEffect x w op) gs m).2 =
        { x with g := (writeFound x w (runGroups (locBytes w) (atomEffect x w op) gs m).2).g,
                 u := (writeFound x w (runGroups (locBytes w) (atomEffect x w op) gs m).2).u } ∧
      Wrote w act (typeRegs (iSize w)) x (writeFound x w (runGroups (locBytes w) (atomEffect x w op) gs m).2) fun k j =>
        wordAt (getD 0 (seedbedAtomics x w op (execThreads w act) m).2 k) j := by
  have keys := runGroups_keys (locBytes w) (atomEffect x w op) gs m
  have once : ((runGroups (locBytes w) (atomEffect x w op) gs m).2.map (·.1)).Nodup := keys ▸ members_nodup hgs (execThreads_nodup w act)
  have members (k : Nat) : k ∈ (runGroups (locBytes w) (atomEffect x w op) gs m).2.map (·.1) ↔ k ∈ execThreads w act := keys ▸ mem_members hgs
  have inOrder : ((seedbedAtomics x w op (execThreads w act) m).2.map (·.1)).Nodup := by
    rw [seedbedAtomics_eq, atomSequence_keys]; exact execThreads_nodup w act
  have single (hu : iDU w = true) : (runGroups (locBytes w) (atomEffect x w op) gs m).2.map (·.1) = [0] := by
    have uniform : execThreads w act = [0] := by rw [execThreads, hu]; rfl
    refine List.perm_singleton.1 ((List.perm_ext_iff_of_nodup once (List.nodup_singleton 0)).2 fun k => ?_)
    rw [members, uniform]
  have written : writeFound x w (runGroups (locBytes w) (atomEffect x w op) gs m).2 = _ := foldl_wrN_pairs (iDU w) (iDst w) (typeRegs (iSize w)) _ once x
  rw [written]
  refine ⟨writeWords_regs .., wrote_congr (writeWords_wrote_of_mem x w act hd _ single members) fun k hk j _ => ?_⟩
  obtain ⟨e, he, rfl⟩ := List.mem_map.1 ((members k).2 hk)
  have found : e ∈ (seedbedAtomics x w op (execThreads w act) m).2 :=
    (mem_runGroups hgs ha (fun k _ => atomEffect_lt x op hz k) m hk).1 he
  rw [getD_of_mem_nodup once he, getD_of_mem_nodup inOrder found]

theorem seedbedAtomicsTakeEffectInThreadOrder : Claim.SeedbedAtomicsTakeEffectInThreadOrder := by
  refine ⟨fun r hr s d f x p act h fine ht => ?_, fun s d f x p act h fine ht => ?_⟩
  · obtain ⟨hx, hcur, -, -, -, -, hcls, hop, -, -, hlegal, -⟩ := id h
    obtain ⟨sp, hs, hdst, hsize⟩ := atomRow_returns r hr f.word hcls hop
    have hz := hsize (legal_modOk hlegal hs)
    obtain ⟨gs, t, z, groups, rfl, he, drill, only, seedbed⟩ := seedbedAtomic_effect r.2.2 true h hz fine ht (exec_atomRows d f s r hr)
    obtain ⟨regs, wrote⟩ := writeFound_wrote x (m := (s.core d.slice).seedbed) r.2.2 hz (iDst_add_le hlegal hs (.inl hdst) (typeRegs_dvd _))
      (fun k hk => (fine.2 k hk).2.1) groups
    obtain ⟨goes, -⟩ := Drill.retire_goes (writeFound x f.word (runGroups (locBytes f.word) (atomEffect x f.word r.2.2) gs (s.core d.slice).seedbed).2) p
      (by rw [regs]; exact hcur)
    exact ⟨t, _, he, drill, only, goes, seedbed, wrote_retire wrote⟩
  · obtain ⟨hx, hcur, -, -, -, -, hcls, hop, -, -, hlegal, -⟩ := id h
    obtain ⟨sp, hs, hdst, hsize⟩ := atomRow_radd f.word hcls hop
    have hz := hsize (legal_modOk hlegal hs)
    have each : threads act = execThreads f.word act := by rw [execThreads, legal_noDst hlegal hs hdst]; rfl
    have four : locBytes f.word = 4 := if_neg (by omega)
    rw [each, ← four] at fine ht
    obtain ⟨gs, t, z, -, rfl, he, drill, only, seedbed⟩ := seedbedAtomic_effect (i := .radd d f) .add false h (by omega) fine ht rfl
    obtain ⟨goes, kept⟩ := x.retire_goes p hcur
    rw [each]
    exact ⟨t, _, he, drill, only, goes, kept, seedbed⟩

/-- Settles O6: a seedbed access that traps in no thread writes its bytes at the bank, and groups of equal addresses, being apart, leave what their
threads leave one by one. -/
theorem seedbedAccessesComplete : Obligations.SeedbedAccessesComplete := by
  unfold Obligations.SeedbedAccessesComplete
  exact ⟨seedbedLoadReadsItsBytes, seedbedStoreWritesItsBytes, seedbedAtomicsTakeEffectInThreadOrder⟩

end Sys2Proof.SeedbedAtomic
end

section
/-! SUPPORT. A home's own steps (O18): what each does to the sector, the transactions and all else, and the course of a transaction that nothing
holds up (Table 09-4, R259, R268, R270). -/

namespace Sys2Proof.HomeSteps

open Sys2Proof Sys2Proof.Machine Sys2Proof.Claim Sys2Proof.ArrayEnd

/-! ## A home at which one sector is at work -/

/-- The sector, the transactions and the empty buffers of a home. -/
structure Home (s : State) (n : Nat) (o : Option GSec) (tr : List (Nat × Trans)) : Prop where
  sec : s.gsec? n = o
  trans : (s.die (homeOf n)).trans = tr
  pend : (s.die (homeOf n)).pend = []
  sweep : (s.die (homeOf n)).sweep = []

theorem gsec?_congr {s t : State} {n : Nat} (h : (t.die (homeOf n)).gran = (s.die (homeOf n)).gran) : t.gsec? n = s.gsec? n := by
  rw [State.gsec?, State.gsec?, State.gline?, State.gline?, h]

theorem gline_of_gsec {s : State} {n : Nat} {g : GSec} (h : s.gsec? n = some g) :
    ∃ l, find? (s.die (homeOf n)).gran (n / 4) = some l ∧ find? l.secs (n % 4) = some g := Option.bind_eq_some_iff.1 h

section
variable {s : State} {n : Nat} {o : Option GSec} {tr : List (Nat × Trans)} (h : Home s n o tr)
include h

theorem home_of_dies {t : State} (hd : t.dies = s.dies) : Home t n o tr := by
  have same := State.die_congr hd (homeOf n)
  obtain ⟨sec, trans, pend, sweep⟩ := h
  exact ⟨(gsec?_congr (by rw [same])).trans sec, by rw [same, trans], by rw [same, pend], by rw [same, sweep]⟩

/-- A change of the home that leaves the sectors, the buffer and the sweep. -/
theorem home_modDie {f : Die → Die} {tr' : List (Nat × Trans)} (gran : (f (s.die (homeOf n))).gran = (s.die (homeOf n)).gran)
    (trans : (f (s.die (homeOf n))).trans = tr') (pend : (f (s.die (homeOf n))).pend = (s.die (homeOf n)).pend)
    (sweep : (f (s.die (homeOf n))).sweep = (s.die (homeOf n)).sweep) : Home (s.modDie (homeOf n) f) n o tr' := by
  obtain ⟨sec, -, empty, still⟩ := h
  refine ⟨(gsec?_congr ?_).trans sec, ?_, ?_, ?_⟩
  all_goals rw [State.die_modDie]
  · exact gran
  · exact trans
  · exact pend.trans empty
  · exact sweep.trans still

theorem home_prune : Home (s.prune (homeOf n)) n o tr :=
  home_modDie h rfl h.trans (by rw [h.pend]; rfl) rfl

theorem home_count (r : Reg) (b i k : Nat) : Home (s.count r b i k) n o tr := home_of_dies h rfl

theorem home_send (x : Nat) (m : CohMsg) : Home (s.send n x m) n o tr :=
  home_of_dies h (by rw [State.send, State.meterFlits]; split <;> simp)

/-- A transaction is put in the table of a home that has none. -/
theorem home_begin (t : Trans) (htr : tr = []) : Home (s.modDie (homeOf n) fun x => { x with trans := insert x.trans n t }) n o [(n, t)] :=
  home_modDie h rfl (by rw [h.trans, htr]; rfl) rfl rfl

/-- The home's only transaction changes. -/
theorem home_modTrans {t : Trans} (htr : tr = [(n, t)]) (f : Trans → Trans) : Home (s.modTrans n f) n o [(n, f t)] := by
  have found : find? (s.die (homeOf n)).trans n = some t := by rw [h.trans, htr]; exact if_pos rfl
  refine home_modDie h ?_ ?_ ?_ ?_
  all_goals rw [found]
  · rw [h.trans, htr]
    simp [Machine.insert]

end

/-! ## Changes of a sector that is present -/

theorem insert_isEmpty {α : Type} (m : List (Nat × α)) (k : Nat) (a : α) : (insert m k a).isEmpty = false := by
  cases he : insert m k a with
  | nil => have := find?_insert_same m k a; rw [he] at this; cases this
  | cons b l => rfl

section
variable {s : State} {n : Nat} {g : GSec} {tr : List (Nat × Trans)} (h : Home s n (some g) tr)
include h

/-- A change of the home that puts the sector's line back. -/
theorem home_putLine {f : Die → Die} {l : GLine} {g' : GSec} (gran : (f (s.die (homeOf n))).gran = insert (s.die (homeOf n)).gran (n / 4) l)
    (sec : find? l.secs (n % 4) = some g') (trans : (f (s.die (homeOf n))).trans = (s.die (homeOf n)).trans)
    (pend : (f (s.die (homeOf n))).pend = (s.die (homeOf n)).pend) (sweep : (f (s.die (homeOf n))).sweep = (s.die (homeOf n)).sweep) :
    Home (s.modDie (homeOf n) f) n (some g') tr := by
  obtain ⟨-, tr', empty, still⟩ := h
  refine ⟨?_, ?_, ?_, ?_⟩
  · rw [State.gsec?, State.gline?, State.die_modDie, gran, find?_insert_same]
    exact sec
  all_goals rw [State.die_modDie]
  · exact trans.trans tr'
  · exact pend.trans empty
  · exact sweep.trans still

theorem home_modGsec (f : GSec → GSec) : Home (s.modGsec n f) n (some (f g)) tr := by
  obtain ⟨l, line, sec⟩ := gline_of_gsec h.sec
  have put : s.modGsec n f = s.putGline n { l with secs := insert l.secs (n % 4) (f g) } := by
    rw [State.modGsec, State.gline?, line]
    simp only [sec]
  rw [put]
  exact home_putLine h (if_neg (by simp [insert_isEmpty])) (find?_insert_same _ _ _) rfl rfl rfl

theorem home_touch (hint : Option Nat) (miss : Bool) : Home (s.touch n hint miss) n (some g) tr := by
  obtain ⟨l, line, sec⟩ := gline_of_gsec h.sec
  rw [State.touch, State.touchLine]
  refine home_putLine (l := { l with lru := (s.die (homeOf n)).lru + 1, cls := match hint with
    | some h => l.cls.hinted h
    | none => l.cls }) h ?_ sec ?_ ?_ ?_
  all_goals rw [line]; dsimp only; split <;> rfl

end

/-! ## All else -/

theorem metered_of_cores {s t : State} (h : t.cores = s.cores) : Metered s t := fun k => by rw [State.core_congr h]

theorem metered_trans {s t u : State} (h : Metered s t) (h' : Metered t u) : Metered s u := fun k => (h' k).trans (by rw [h k])

theorem homeOnly_of_cores {s t : State} (mem : t.mem = s.mem) (cores : t.cores = s.cores) (time : t.time = s.time) (nv : t.nv = s.nv) : HomeOnly s t :=
  ⟨mem, metered_of_cores cores, time, nv⟩

theorem homeOnly_trans {s t u : State} (h : HomeOnly s t) (h' : HomeOnly t u) : HomeOnly s u := by
  obtain ⟨mem, cores, time, nv⟩ := h
  obtain ⟨mem', cores', time', nv'⟩ := h'
  exact ⟨mem'.trans mem, metered_trans cores cores', time'.trans time, nv'.trans nv⟩

theorem homeOnly_modDie (s : State) (d : Nat) (f : Die → Die) : HomeOnly s (s.modDie d f) := homeOnly_of_cores rfl rfl rfl rfl

theorem homeOnly_meter (s : State) (k i n : Nat) : HomeOnly s (s.meter k i n) := by
  refine ⟨s.meter_mem k i n, fun j => ?_, s.meter_time k i n, s.meter_nv k i n⟩
  obtain ⟨m, hm⟩ := meter_core s k i n j
  rw [hm]

theorem homeOnly_send (s : State) (n x : Nat) (m : CohMsg) : HomeOnly s (s.send n x m) := by
  refine homeOnly_trans (t := { s with net := s.net ++ [{ sector := n, cache := x, msg := m }] }) (homeOnly_of_cores rfl rfl rfl rfl) ?_
  rw [State.send, State.meterFlits]
  split
  · exact homeOnly_of_cores rfl rfl rfl rfl
  · exact homeOnly_meter _ _ _ _

theorem homeOnly_modGsec (s : State) (n : Nat) (f : GSec → GSec) : HomeOnly s (s.modGsec n f) := by
  rw [State.modGsec]
  split
  · exact homeOnly_of_cores rfl rfl rfl rfl
  · split
    · exact homeOnly_of_cores rfl rfl rfl rfl
    · exact homeOnly_modDie _ _ _

theorem sent_send (s : State) (n x : Nat) (m : CohMsg) : Sent (s.send n x m) n x m := by
  have net : (s.send n x m).net = s.net ++ [{ sector := n, cache := x, msg := m }] := by
    rw [State.send, State.meterFlits]; split <;> simp
  rw [Sent, net]
  exact List.mem_append_right _ (List.mem_singleton.2 rfl)

/-! ## Requests and answers at a home (R259, R268, R270) -/

theorem atSector_next {s : State} {n d : Nat} (hn : n < dramBytes / 256) (hin : s.inService = true) (hup : s.dieUp d = true) (body : State) :
    s.atSector n d body = .next body := by
  rw [State.atSector, if_neg (Nat.not_le.2 hn), if_pos (by rw [hin, hup]; rfl)]

theorem pumpAll_empty {s : State} {n : Nat} {o : Option GSec} {tr : List (Nat × Trans)} (h : Home s n o tr) :
    s.pumpAll (homeOf n) = s.prune (homeOf n) := by
  have pruned := home_prune h
  rw [State.pumpAll, h.pend, State.pump]
  simp only [pruned.sweep, pruned.pend, State.startable]
  rfl

/-- An answer arrives: the transaction settles, and nothing else is at the home. -/
theorem advance_eq {s : State} {n : Nat} {o : Option GSec} {tr : List (Nat × Trans)} (h : Home (s.settleTrans n) n o tr) (only : ∀ e ∈ tr, e.1 = n) :
    s.advance n = (s.settleTrans n).prune (homeOf n) := by
  have others : (keys (((s.settleTrans n).die (homeOf n)).trans)).filter (fun m => decide (m ≠ n)) = [] := by
    refine List.filter_eq_nil_iff.2 fun m hm => ?_
    obtain ⟨e, he, rfl⟩ := List.mem_map.1 hm
    rw [h.trans] at he
    simp [only e he]
  rw [State.advance]
  simp only [others, List.foldl_nil]
  exact pumpAll_empty h

/-- A transaction that has just started or been answered, of a request and with what it awaits. -/
def waiting (req : HomeReq) (acks : List Nat) (owner : Option (Nat × Bool)) (fill : Bool) : Trans :=
  { req := req, acks := acks, owner := owner, fill := fill, memOp := false, byPutM := false }

theorem settleTrans_done {s : State} {n : Nat} {o : Option GSec} {req : HomeReq} (h : Home s n o [(n, waiting req [] none false)]) :
    s.settleTrans n = (s.finishTrans n (waiting req [] none false)).1 := by
  have found : find? (s.die (homeOf n)).trans n = some (waiting req [] none false) := by rw [h.trans]; exact if_pos rfl
  rw [State.settleTrans, found]
  rfl

/-- A transaction that awaits a cache stays. -/
theorem settleTrans_waits {s : State} {n : Nat} {t : Trans} (found : find? (s.die (homeOf n)).trans n = some t) (hacks : t.acks ≠ []) :
    s.settleTrans n = s := by
  rw [State.settleTrans, found]
  exact if_neg fun h => hacks (List.isEmpty_iff.1 h.1)

/-- The transaction leaves the table. -/
def endTrans (s : State) (n : Nat) : State := s.modDie (homeOf n) fun x =>
  { x with trans := erase x.trans n, segDone := setD 0 x.segDone (segmentOf n) (getD 0 x.segDone (segmentOf n) + 1) }

theorem home_endTrans {s : State} {n : Nat} {o : Option GSec} {t : Trans} (h : Home s n o [(n, t)]) : Home (endTrans s n) n o [] :=
  home_modDie h rfl (by rw [h.trans]; simp [erase]) rfl rfl

/-- Ending and pruning leave the messages and all but the die. -/
theorem end_kept (s : State) (n : Nat) : HomeOnly s ((endTrans s n).prune (homeOf n)) ∧ ((endTrans s n).prune (homeOf n)).net = s.net :=
  ⟨homeOnly_of_cores rfl rfl rfl rfl, rfl⟩

/-- A transaction whose completion leaves the sector as `g'` before it ends. -/
theorem advance_done {s u : State} {n : Nat} {o o' : Option GSec} {req : HomeReq} (h : Home s n o [(n, waiting req [] none false)])
    (done : (s.finishTrans n (waiting req [] none false)).1 = endTrans u n) (left : Home u n o' [(n, waiting req [] none false)]) :
    s.advance n = (endTrans u n).prune (homeOf n) ∧ Home (s.advance n) n o' [] := by
  have settled := (settleTrans_done h).trans done
  have ended := home_endTrans left
  rw [← settled] at ended
  have eq := advance_eq ended fun e he => absurd he List.not_mem_nil
  refine ⟨by rw [eq, settled], ?_⟩
  rw [eq]
  exact home_prune ended

/-- The request of a present sector that needs nothing starts. -/
theorem startTrans_present {s : State} {n : Nat} {g : GSec} {tr : List (Nat × Trans)} (h : Home s n (some g) tr) {req : HomeReq}
    (hneeds : needsOf req g.dir true = { invs := [], from_ := none, fill := false, memOp := false }) :
    s.startTrans n req = ((if req.access = true then s.touch n req.hint false else s).count .grnCohInv (homeOf n) 0 0).modDie (homeOf n) fun x =>
      { x with trans := insert x.trans n (waiting req [] none false) } := by
  have dir : s.dirOf n = g.dir := by rw [State.dirOf, h.sec]; rfl
  rw [State.startTrans]
  simp only [h.sec, dir, hneeds, Option.isSome_some]
  rfl

/-- A request that needs nothing of an idle home is at once a transaction that awaits nothing. -/
theorem request_idle {s : State} {n : Nat} {g : GSec} (h : HomeIdle s n) (hg : s.gsec? n = some g) {req : HomeReq} {take : State → State}
    (hneeds : needsOf req g.dir true = { invs := [], from_ := none, fill := false, memOp := false }) (hdies : ∀ t, (take t).dies = t.dies)
    (hmem : ∀ t, (take t).mem = t.mem) :
    ∃ u, s.request n req take = u.advance n ∧ Home u n (some g) [(n, waiting req [] none false)] ∧ u.mem = s.mem := by
  obtain ⟨-, -, -, idle, empty, still⟩ := h
  have start : Home s n (some g) [] := ⟨hg, idle, empty, still⟩
  have pruned := home_prune start
  have taken : Home (take (s.prune (homeOf n))) n (some g) [] := home_of_dies pruned (hdies _)
  refine ⟨(take (s.prune (homeOf n))).startTrans n req, ?_, ?_, ?_⟩
  · rw [State.request, State.request?]
    simp [pruned.trans, pruned.pend, pruned.sweep, Die.withholds, Die.segTrans, find?]
  · rw [startTrans_present taken hneeds]
    have touched : Home (if req.access = true then (take (s.prune (homeOf n))).touch n req.hint false else take (s.prune (homeOf n))) n (some g) [] := by
      split
      · exact home_touch taken _ _
      · exact taken
    exact home_begin (home_count touched _ _ _ _) _ rfl
  · rw [startTrans_present taken hneeds]
    change State.mem (if _ then _ else _) = _
    split <;> exact hmem _

end Sys2Proof.HomeSteps
end

section
/-! SUPPORT. What a home's transactions leave when nothing is awaited any more, and the statement (O18; Table 09-4, R129, R268, R270, R272, R273). -/

namespace Sys2Proof.HomeAnswers

open Sys2Proof Sys2Proof.Machine Sys2Proof.Claim Sys2Proof.ArrayEnd Sys2Proof.HomeSteps

/-! ## A group's members (R129) -/

theorem groupRun_last (g : AtomGroup) (ms : List AtomMember) (v : Nat) : (groupRun g v ms).1 = ms.foldl (groupApply g) v := by
  induction ms generalizing v with
  | nil => rfl
  | cons m ms ih => exact ih (groupApply g v m)

theorem groupRun_length (g : AtomGroup) (ms : List AtomMember) (v : Nat) : (groupRun g v ms).2.length = ms.length := by
  induction ms generalizing v with
  | nil => rfl
  | cons m ms ih => exact congrArg (· + 1) (ih (groupApply g v m))

theorem groupMembersTakeEffectInOrder : Claim.GroupMembersTakeEffectInOrder := fun g v m ms =>
  ⟨rfl, rfl, groupRun_last g (m :: ms) v, groupRun_length g (m :: ms) v⟩

/-! ## Completions of a present sector (Table 09-4) -/

section
variable {s : State} {n : Nat} {g : GSec}

/-- An atomic or add-to-line at the home: its members' changes, and that the sector was written. -/
def performed (s : State) (n : Nat) (a : AtomGroup) (g : GSec) : State :=
  ((s.modGsec n fun y => { y with dir := .un }).modGsec n fun y => { y with data := (groupOnSector a g.data).1, dirty := true }).written n

theorem finish_atom (h : s.gsec? n = some g) (hp : g.poison = false) (x : Nat) (a : AtomGroup) :
    (s.finishTrans n (waiting (.atom x a) [] none false)).1 =
      endTrans ((performed s n a g).send n x (.atomResp a (groupOnSector a g.data).2 false)) n := by
  simp only [State.finishTrans, waiting, h, hp, Option.isNone_some, Bool.false_eq_true, and_false, if_false]
  rfl

theorem finish_radd (h : s.gsec? n = some g) (hp : g.poison = false) (x : Nat) (a : AtomGroup) :
    (s.finishTrans n (waiting (.radd x a) [] none false)).1 = endTrans ((performed s n a g).send n x (.raddAck a false)) n := by
  simp only [State.finishTrans, waiting, h, hp, Option.isNone_some, Bool.false_eq_true, and_false, if_false]
  rfl

theorem finish_getM (h : s.gsec? n = some g) (x hint : Nat) :
    (s.finishTrans n (waiting (.getM x hint false) [] none false)).1 =
      endTrans (((s.modGsec n fun y => { y with dir := .ex x }).markMove n).send n x (.dataM g.data g.poison)) n := by
  simp only [State.finishTrans, waiting, h]
  rfl

theorem finish_getS (h : s.gsec? n = some g) {o : Nat} (ho : g.dir = .ex o) (x hint : Nat) :
    (s.finishTrans n (waiting (.getS x hint) [] none false)).1 =
      endTrans ((s.modGsec n fun y => { y with dir := .sh [o, x] }).send n x (.dataS g.data g.poison)) n := by
  have dir : s.dirOf n = .ex o := by rw [State.dirOf, h, ← ho]; rfl
  simp only [State.finishTrans, waiting, h, dir]
  rfl

theorem home_performed {tr : List (Nat × Trans)} (h : Home s n (some g) tr) (hd : g.dir = .un) (a : AtomGroup) :
    Home (performed s n a g) n (some { g with data := (groupOnSector a g.data).1, dirty := true }) tr := by
  have changed := home_of_dies (t := performed s n a g)
    (home_modGsec (home_modGsec h fun y => { y with dir := .un }) fun y => { y with data := (groupOnSector a g.data).1, dirty := true }) rfl
  rw [← hd] at changed
  exact changed

theorem performed_mem (s : State) (n : Nat) (a : AtomGroup) (g : GSec) : (performed s n a g).mem = s.mem := by
  obtain ⟨first, -⟩ := homeOnly_modGsec s n fun y => { y with dir := .un }
  obtain ⟨second, -⟩ := homeOnly_modGsec (s.modGsec n fun y => { y with dir := .un }) n fun y =>
    { y with data := (groupOnSector a g.data).1, dirty := true }
  exact second.trans first

end

/-! ## Atomic groups (R272, R273) -/

/-- What a transaction leaves whose completion sends the answer `m` and ends it. -/
theorem answered {s u : State} {n x : Nat} {m : CohMsg} {o o' : Option GSec} {req : HomeReq} (h : Home s n o [(n, waiting req [] none false)])
    (done : (s.finishTrans n (waiting req [] none false)).1 = endTrans (u.send n x m) n) (left : Home u n o' [(n, waiting req [] none false)]) :
    HomeOnly u (s.advance n) ∧ Sent (s.advance n) n x m ∧ Home (s.advance n) n o' [] := by
  obtain ⟨eq, after⟩ := advance_done h done (home_send left x m)
  obtain ⟨kept, net⟩ := end_kept (u.send n x m) n
  rw [← eq] at kept net
  exact ⟨homeOnly_trans (homeOnly_send u n x m) kept, by rw [Sent, net]; exact sent_send u n x m, after⟩

/-- A group at the idle home of a present, unshared, sound sector. -/
theorem atomGroup_answered {s : State} {n x : Nat} {g : GSec} {a : AtomGroup} {req : HomeReq} {m : CohMsg} {take : State → State} (h : HomeIdle s n)
    (hg : s.gsec? n = some g) (hd : g.dir = .un) (hneeds : needsOf req .un true = { invs := [], from_ := none, fill := false, memOp := false })
    (hdies : ∀ t, (take t).dies = t.dies) (hmem : ∀ t, (take t).mem = t.mem) (finish : ∀ u : State, u.gsec? n = some g →
      (u.finishTrans n (waiting req [] none false)).1 = endTrans ((performed u n a g).send n x m) n) :
    (s.request n req take).mem = s.mem ∧ Sent (s.request n req take) n x m ∧
      (s.request n req take).gsec? n = some { g with data := (groupOnSector a g.data).1, dirty := true } := by
  obtain ⟨u, eq, begun, mem⟩ := request_idle h hg (by rw [hd, hneeds]) hdies hmem
  obtain ⟨⟨kept, -⟩, sent, after⟩ := answered begun (finish u begun.sec) (home_performed begun hd a)
  rw [eq]
  exact ⟨(kept.trans (performed_mem u n a g)).trans mem, sent, after.sec⟩

theorem homePerformsAtomics : Claim.HomePerformsAtomics := by
  intro s n x a g h hg hd hp
  obtain ⟨exists_, service, up, -⟩ := id h
  exact ⟨⟨_, atSector_next exists_ service up _, atomGroup_answered h hg hd rfl (fun _ => rfl) (fun _ => rfl) fun u hu => finish_atom hu hp x a⟩,
    ⟨_, atSector_next exists_ service up _, atomGroup_answered h hg hd rfl (fun _ => rfl) (fun _ => rfl) fun u hu => finish_radd hu hp x a⟩⟩

/-! ## Acknowledgements and the owner's data (R268, R270) -/

/-- The acknowledgement of cache `k` is counted. -/
def ackCounted (s : State) (n k : Nat) : State :=
  (s.arrived n k fun m => decide (m = .invAck)).modTrans n fun t => { t with acks := removeFirst (fun j => decide (j = k)) t.acks }

/-- The data of owner `o` is taken. -/
def ownerTaken (s : State) (n o : Nat) (v : Sector) (p : Bool) : State :=
  ((s.arrived n o fun m => decide (m = .recallData v p)).takeData n v p).modTrans n fun t => { t with owner := none }

theorem homeOnly_ackCounted (s : State) (n k : Nat) : HomeOnly s (ackCounted s n k) := homeOnly_of_cores rfl rfl rfl rfl

theorem homeOnly_ownerTaken (s : State) (n o : Nat) (v : Sector) (p : Bool) : HomeOnly s (ownerTaken s n o v p) := by
  have came : HomeOnly s (s.arrived n o fun m => decide (m = .recallData v p)) := homeOnly_of_cores rfl rfl rfl rfl
  exact homeOnly_trans came (homeOnly_trans (homeOnly_modGsec _ n _) (homeOnly_modDie _ _ _))

section
variable {s : State} {n : Nat} {tr : Trans} (h : HomeBusy s n tr)
include h

theorem home_busy (c : Nat) (p : CohMsg → Bool) : Home (s.arrived n c p) n (s.gsec? n) [(n, tr)] := by
  obtain ⟨-, -, -, trans, pend, sweep⟩ := h
  exact ⟨rfl, trans, pend, sweep⟩

theorem home_ackCounted {k : Nat} {rest : List Nat} (hacks : tr.acks = k :: rest) :
    Home (ackCounted s n k) n (s.gsec? n) [(n, { tr with acks := rest })] := by
  have counted := home_modTrans (home_busy h k fun m => decide (m = .invAck)) rfl fun t => { t with acks := removeFirst (fun j => decide (j = k)) t.acks }
  have first : removeFirst (fun j => decide (j = k)) tr.acks = rest := by rw [hacks]; exact if_pos (decide_eq_true rfl)
  rw [first] at counted
  exact counted

/-- The acknowledgement of a cache that it awaits is counted. -/
theorem exec_invAck {k : Nat} {rest : List Nat} (hacks : tr.acks = k :: rest) :
    Machine.exec (.invAck n k) s = .next ((ackCounted s n k).advance n) := by
  obtain ⟨exists_, service, up, -⟩ := id h
  refine (atSector_next exists_ service up _).trans (congrArg Host.Outcome.next (if_pos ?_))
  have found : find? ((s.arrived n k fun m => decide (m = .invAck)).die (homeOf n)).trans n = some tr := by
    rw [(home_busy h _ _).trans]; exact if_pos rfl
  rw [found]
  simp [hacks]

theorem home_ownerTaken {o : Nat} {g : GSec} (hg : s.gsec? n = some g) (v : Sector) (p : Bool) :
    Home (ownerTaken s n o v p) n (some { g with data := v, poison := p, dirty := true }) [(n, { tr with owner := none })] := by
  have came := home_busy h o fun m => decide (m = .recallData v p)
  rw [hg] at came
  exact home_modTrans (home_modGsec came _) rfl _

/-- The data of the owner that it awaits is taken. -/
theorem exec_recallData {o : Nat} {toI : Bool} (howner : tr.owner = some (o, toI)) (v : Sector) (p : Bool) :
    Machine.exec (.recallData n o v p) s = .next ((ownerTaken s n o v p).advance n) := by
  obtain ⟨exists_, service, up, -⟩ := id h
  have awaited : (s.arrived n o fun m => decide (m = .recallData v p)).awaited n = some o := by
    rw [State.awaited, (home_busy h _ _).trans, find?, if_pos rfl, Option.bind_some, howner]; rfl
  exact (atSector_next exists_ service up _).trans (congrArg Host.Outcome.next (if_pos awaited))

end

theorem lastInvAck {s : State} {n x k hint : Nat} {g : GSec} (h : HomeBusy s n (waiting (.getM x hint false) [k] none false)) (hg : s.gsec? n = some g) :
    ∃ t, Machine.exec (.invAck n k) s = .next t ∧ t.mem = s.mem ∧ Metered s t ∧ Sent t n x (.dataM g.data g.poison) ∧
      t.gsec? n = some { g with dir := .ex x } ∧ (t.die (homeOf n)).trans = [] := by
  have counted := home_ackCounted h rfl
  rw [hg] at counted
  obtain ⟨kept, sent, after⟩ := answered (req := .getM x hint false) counted (finish_getM counted.sec x hint) (home_of_dies (home_modGsec counted _) rfl)
  obtain ⟨mem', cores', -⟩ := homeOnly_trans (homeOnly_ackCounted s n k) (homeOnly_modGsec (ackCounted s n k) n fun y => { y with dir := .ex x })
  obtain ⟨mem, cores, -⟩ := kept
  exact ⟨_, exec_invAck h rfl, mem.trans mem', metered_trans cores' cores, sent, after.sec, after.trans⟩

theorem earlierInvAck {s : State} {n k j : Nat} {rest : List Nat} {tr : Trans} (h : HomeBusy s n tr) (hacks : tr.acks = k :: j :: rest) :
    ∃ t, Machine.exec (.invAck n k) s = .next t ∧ t.mem = s.mem ∧ t.cores = s.cores ∧
      find? (t.die (homeOf n)).trans n = some { tr with acks := j :: rest } := by
  have counted := home_ackCounted h hacks
  have found : find? ((ackCounted s n k).die (homeOf n)).trans n = some { tr with acks := j :: rest } := by rw [counted.trans]; exact if_pos rfl
  have stays := settleTrans_waits found (List.cons_ne_nil j rest)
  have eq := advance_eq (stays.symm ▸ counted) fun e he => by rw [List.mem_singleton.1 he]
  refine ⟨_, exec_invAck h hacks, ?_⟩
  rw [eq, stays]
  exact ⟨rfl, rfl, by rw [(home_prune counted).trans]; exact if_pos rfl⟩

theorem ownersData {s : State} {n x o hint : Nat} {v : Sector} {p : Bool} {g : GSec} (h : HomeBusy s n (waiting (.getS x hint) [] (some (o, false)) false))
    (hg : s.gsec? n = some g) (ho : g.dir = .ex o) : ∃ t, Machine.exec (.recallData n o v p) s = .next t ∧ HomeOnly s t ∧ Sent t n x (.dataS v p) ∧
      t.gsec? n = some { g with data := v, poison := p, dirty := true, dir := .sh [o, x] } ∧ (t.die (homeOf n)).trans = [] := by
  have taken := home_ownerTaken h (o := o) hg v p
  obtain ⟨kept, sent, after⟩ := answered (req := .getS x hint) taken (finish_getS taken.sec ho x hint) (home_modGsec taken _)
  refine ⟨_, exec_recallData h rfl v p, ?_, sent, after.sec, after.trans⟩
  exact homeOnly_trans (homeOnly_trans (homeOnly_ownerTaken s n o v p) (homeOnly_modGsec _ n _)) kept

/-! ## A clean fill (R268) -/

/-- A new line with one sector in a way of slice `w`. -/
def placed (s : State) (n hint w : Nat) (g : GSec) : State := s.modDie (homeOf n) fun x =>
  { x with lru := x.lru + 1,
           gran := insert x.gran (n / 4) { cls := hintClass hint, lru := x.lru + 1, way := w, pinAt := [], secs := [(n % 4, g)] } }

theorem allocSector_placed {s : State} {n hint w : Nat} (hline : s.gline? n = none)
    (hway : freeWay ((s.die (homeOf n)).setLines (granIndex (256 * n))) (s.wayGroup n) = some w) (g : GSec) :
    s.allocSector n hint g = (placed s n hint w g, true) := by
  rw [State.allocSector, hline]
  simp only [State.makeRoom, hway]
  rfl

theorem home_placed {s : State} {n hint w : Nat} {o : Option GSec} {tr : List (Nat × Trans)} (h : Home s n o tr) (g : GSec) :
    Home (placed s n hint w g) n (some g) tr := by
  obtain ⟨-, trans, pend, sweep⟩ := h
  refine ⟨?_, ?_, ?_, ?_⟩
  · rw [State.gsec?, State.gline?, placed, State.die_modDie, find?_insert_same]
    exact if_pos rfl
  all_goals rw [placed, State.die_modDie]
  · exact trans
  · exact pend
  · exact sweep

theorem finish_fill {s : State} {n x hint w : Nat} {tr : List (Nat × Trans)} (h : Home s n none tr) (hline : s.gline? n = none)
    (hway : freeWay ((s.die (homeOf n)).setLines (granIndex (256 * n))) (s.wayGroup n) = some w) :
    (s.finishTrans n (waiting (.getS x hint) [] none false)).1 = endTrans
      (((placed s n hint w { data := (s.dramSector n).1, dirty := false, poison := (s.dramSector n).2, pins := [], dir := .un }).modGsec n fun y =>
        { y with dir := .sh [x] }).send n x (.dataS (s.dramSector n).1 (s.dramSector n).2)) n := by
  have dir : (placed s n hint w { data := (s.dramSector n).1, dirty := false, poison := (s.dramSector n).2, pins := [], dir := .un }).dirOf n = .un := by
    rw [State.dirOf, (home_placed h _).sec]; rfl
  simp only [State.finishTrans, waiting, h.sec, allocSector_placed hline hway, dir]
  rfl

/-- A read of a sector without parity failures or errors changes nothing. -/
theorem dramRead_clean {s : State} {n : Nat} (hpar : getD 0 s.mem.parity (channelOf n) = 0) (herr : ∀ e ∈ s.mem.errs, e.1 / 4 ≠ n)
    (hpoison : s.mem.poison.contains n = false) : s.dramRead n = s := by
  have try_ : s.dramTry n = s := if_pos hpar
  have none : s.mem.errs.filter (fun e => decide (e.1 / 4 = n)) = [] := List.filter_eq_nil_iff.2 fun e he hd => herr e he (of_decide_eq_true hd)
  have all : s.mem.errs.filter (fun e => !decide (e.1 / 4 = n)) = s.mem.errs := List.filter_eq_self.2 fun e he => by simp [herr e he]
  rw [State.dramRead]
  simp only [try_, hpoison, none, Bool.false_eq_true, if_false, List.foldl_nil, State.clearErrs, all]

/-- The controller's read for cache `x` has ended. -/
def fillEnded (s : State) (n x : Nat) : State := (s.meter x 3 1).modTrans n fun t => { t with fill := false, memOp := false }

theorem exec_homeFillDone {s : State} {n x hint : Nat} (h : HomeBusy s n (waiting (.getS x hint) [] none true))
    (hpar : getD 0 s.mem.parity (channelOf n) = 0) (herr : ∀ e ∈ s.mem.errs, e.1 / 4 ≠ n) (hpoison : s.mem.poison.contains n = false) :
    Machine.exec (.homeFillDone n) s = .next ((fillEnded s n x).advance n) := by
  obtain ⟨exists_, service, up, trans, -⟩ := id h
  refine (atSector_next exists_ service up _).trans (congrArg Host.Outcome.next ?_)
  have found : find? (s.die (homeOf n)).trans n = some (waiting (.getS x hint) [] none true) := by rw [trans]; exact if_pos rfl
  have good : s.channelBad n = false := by rw [State.channelBad, hpar]; rfl
  simp only [found, waiting, good, dramRead_clean hpar herr hpoison, Bool.false_and, Bool.false_eq_true, if_false, State.meter_mem, hpoison,
    Bool.not_false, Bool.true_and]
  exact if_neg (by simp)

theorem fillEnded_mem (s : State) (n x : Nat) : (fillEnded s n x).mem = s.mem := s.meter_mem x 3 1

/-- Of the home, the table of transactions alone changes. -/
theorem fillEnded_die (s : State) (n x : Nat) :
    (fillEnded s n x).die (homeOf n) = { s.die (homeOf n) with trans := ((fillEnded s n x).die (homeOf n)).trans } := by
  rw [fillEnded, State.modTrans, State.die_modDie, State.die_congr (s.meter_dies x 3 1)]
  split <;> rfl

theorem fillEnded_gline (s : State) (n x : Nat) : (fillEnded s n x).gline? n = s.gline? n := by
  rw [State.gline?, fillEnded_die]; rfl

theorem fillEnded_dramSector (s : State) (n x : Nat) : (fillEnded s n x).dramSector n = s.dramSector n := by
  rw [State.dramSector, State.dramSector, fillEnded_mem, fillEnded_die]

/-- Finding a way reads the lines and the compositions alone. -/
theorem fillEnded_freeWay (s : State) (n x : Nat) :
    freeWay (((fillEnded s n x).die (homeOf n)).setLines (granIndex (256 * n))) ((fillEnded s n x).wayGroup n) =
      freeWay ((s.die (homeOf n)).setLines (granIndex (256 * n))) (s.wayGroup n) := by
  have yoke : (fillEnded s n x).yoke = s.yoke := s.meter_yoke x 3 1
  have group : (fillEnded s n x).wayGroup n = s.wayGroup n := by
    simp only [State.wayGroup, State.comp?_congr yoke, State.owner?, yoke]
  rw [group, fillEnded_die]
  rfl

theorem cleanFill {s : State} {n x hint w : Nat} (h : HomeBusy s n (waiting (.getS x hint) [] none true)) (hline : s.gline? n = none)
    (hpar : getD 0 s.mem.parity (channelOf n) = 0) (herr : ∀ e ∈ s.mem.errs, e.1 / 4 ≠ n) (hpoison : s.mem.poison.contains n = false)
    (hway : freeWay ((s.die (homeOf n)).setLines (granIndex (256 * n))) (s.wayGroup n) = some w) :
    ∃ t, Machine.exec (.homeFillDone n) s = .next t ∧ t.mem = s.mem ∧ Sent t n x (.dataS (s.dramSector n).1 false) ∧
      t.gsec? n = some { data := (s.dramSector n).1, dirty := false, poison := false, pins := [], dir := .sh [x] } ∧
      (t.die (homeOf n)).trans = [] := by
  have absent : s.gsec? n = none := by rw [State.gsec?, hline]; rfl
  obtain ⟨-, -, -, trans, pend, sweep⟩ := id h
  have filled : Home (fillEnded s n x) n none [(n, waiting (.getS x hint) [] none false)] :=
    home_modTrans (home_of_dies ⟨absent, trans, pend, sweep⟩ (s.meter_dies x 3 1)) rfl _
  have sector : (fillEnded s n x).dramSector n = ((s.dramSector n).1, false) := by
    rw [fillEnded_dramSector]
    exact Prod.ext rfl hpoison
  have done := finish_fill (x := x) (hint := hint) filled ((fillEnded_gline s n x).trans hline) ((fillEnded_freeWay s n x).trans hway)
  rw [sector] at done
  obtain ⟨⟨mem, -⟩, sent, after⟩ := answered (req := .getS x hint) filled done (home_modGsec (home_placed filled _) _)
  refine ⟨_, exec_homeFillDone h hpar herr hpoison, ?_, sent, after.sec, after.trans⟩
  obtain ⟨mem', -⟩ := homeOnly_modGsec (placed (fillEnded s n x) n hint w _) n fun y => { y with dir := .sh [x] }
  exact (mem.trans mem').trans (fillEnded_mem s n x)

theorem homeAnswersComplete : Claim.HomeAnswersComplete := by
  refine ⟨fun s n x k hint g tr h htr hg _ => ?_, fun s n k j rest tr h hacks => earlierInvAck h hacks, fun s n x o hint v p g tr h htr hg ho => ?_,
    fun s n x hint w tr h htr hline hpar herr hpoison hway => ?_⟩
  · exact lastInvAck (htr ▸ h) hg
  · exact ownersData (htr ▸ h) hg ho
  · exact cleanFill (htr ▸ h) hline hpar herr hpoison hway

/-- Settles O18: an answer that ends a transaction finds nothing else at the home, which completes the row that started it. -/
theorem homePerformsAndAnswers : Obligations.HomePerformsAndAnswers := by
  unfold Obligations.HomePerformsAndAnswers
  exact ⟨homePerformsAtomics, groupMembersTakeEffectInOrder, homeAnswersComplete⟩

end Sys2Proof.HomeAnswers
end

section
/-! SUPPORT. Transfers of a core's queue (O16): an idle engine takes one, a chunk moves within the seedbed and is counted, and the transfer completes
(R174, R180, R181, R184, R185, R190, R192, R193). -/

namespace Sys2Proof.Transfers

open Sys2Proof Sys2Proof.Machine Sys2Proof.Claim Sys2Proof.ArrayEnd Sys2Proof.Seedbed

/-! ## The queue of a core (R174) -/

theorem xfer?_token {s : State} {q : XQueue} {tok : Word} {x : Xfer} (h : s.xfer? q tok = some x) : x.token = tok :=
  of_decide_eq_true (List.find?_some (p := fun y : Xfer => decide (y.token = tok)) h)

section
variable {s : State} {q : XQueue} (hq : q.q < 8)
include hq

theorem xfers_of_core : s.xfers q = (s.core (XQueue.slice q)).xfers := if_pos hq

theorem setXfers_of_core (xs : List Xfer) : s.setXfers q xs = s.modCore (XQueue.slice q) fun c => { c with xfers := xs } := if_pos hq

theorem xfer?_congr {t : State} (h : (t.core (XQueue.slice q)).xfers = (s.core (XQueue.slice q)).xfers) (tok : Word) :
    t.xfer? q tok = s.xfer? q tok := by
  rw [State.xfer?, State.xfer?, xfers_of_core hq, xfers_of_core hq, h]

theorem dieOf_slice : dieOf (XQueue.slice q) = q.die := by
  unfold dieOf XQueue.slice
  omega

theorem modXfer_of_core (tok : Word) (f : Xfer → Xfer) : s.modXfer q tok f = s.modCore (XQueue.slice q) fun c =>
    { c with xfers := (s.xfers q).map fun y => if y.token = tok then f y else y } := setXfers_of_core hq _

theorem modXfer_mem (tok : Word) (f : Xfer → Xfer) : (s.modXfer q tok f).mem = s.mem := by rw [modXfer_of_core hq, State.modCore_mem]

theorem modXfer_dies (tok : Word) (f : Xfer → Xfer) : (s.modXfer q tok f).dies = s.dies := by rw [modXfer_of_core hq, State.modCore_dies]

/-- Only the queue of the core changes. -/
theorem modXfer_core (tok : Word) (f : Xfer → Xfer) (k : Nat) :
    (s.modXfer q tok f).core k = { s.core k with xfers := ((s.modXfer q tok f).core k).xfers } := by
  rw [modXfer_of_core hq]
  by_cases hk : k = XQueue.slice q
  · rw [hk, State.core_modCore]
  · rw [State.core_modCore_other _ _ hk]

theorem xfer?_meter (tok : Word) (k i n : Nat) : (s.meter k i n).xfer? q tok = s.xfer? q tok := by
  obtain ⟨m, metered⟩ := meter_core s k i n (XQueue.slice q)
  exact xfer?_congr hq (by rw [metered]) tok

/-- A transfer whose token stays is found as it has become. -/
theorem xfer?_modXfer (tok : Word) (f : Xfer → Xfer) (hf : ∀ y, (f y).token = y.token) :
    (s.modXfer q tok f).xfer? q tok = (s.xfer? q tok).map f := by
  have same : ((fun y : Xfer => decide (y.token = tok)) ∘ fun y => if y.token = tok then f y else y) = fun y => decide (y.token = tok) := by
    funext y
    by_cases hy : y.token = tok
    · simp [hy, hf]
    · simp [hy]
  rw [State.xfer?, xfers_of_core hq, modXfer_of_core hq, State.core_modCore, List.find?_map, same]
  exact Option.map_congr fun y hy => if_pos (xfer?_token hy)

/-- A transfer that has left the queue is found no more. -/
theorem xfer?_setXfers_filter (tok : Word) : (s.setXfers q ((s.xfers q).filter fun y => decide (y.token ≠ tok))).xfer? q tok = none := by
  rw [State.xfer?, xfers_of_core hq, setXfers_of_core hq, State.core_modCore, List.find?_eq_none]
  intro y hy
  simpa using (List.mem_filter.1 hy).2

end

/-! ## An engine takes a transfer (R174, R180) -/

/-- What queue `i` of a die offers an idle engine. -/
def offer (s : State) (die i : Nat) : Option (XQueue × Xfer) :=
  if s.xferCap ⟨die, i⟩ ≤ (s.die die).working i then none else (s.takeable ⟨die, i⟩).map fun t => (⟨die, i⟩, t)

/-- Queues with nothing to take are passed over. -/
theorem findSome?_offer {s : State} {die i : Nat} {pre post : List Nat} {x : Xfer} (hpre : ∀ j ∈ pre, s.takeable ⟨die, j⟩ = none)
    (hx : s.takeable ⟨die, i⟩ = some x) (hcap : (s.die die).working i < s.xferCap ⟨die, i⟩) :
    (pre ++ i :: post).findSome? (offer s die) = some (⟨die, i⟩, x) := by
  have passed : pre.findSome? (offer s die) = none := List.findSome?_eq_none_iff.2 fun j hj => by
    rw [offer, hpre j hj, Option.map_none, ite_self]
  have taken : offer s die i = some (⟨die, i⟩, x) := by rw [offer, if_neg (Nat.not_le.2 hcap), hx, Option.map_some]
  rw [List.findSome?_append, passed, Option.none_or, List.findSome?_cons, taken]

/-- The status that the checks of R180 give. -/
def checked (s : State) (q : XQueue) (x : Xfer) : List Nat :=
  if x.oddDesc = true ∨ (xferDesc x.desc).valid x.desc = false ∨ (xferDesc x.desc).panelsOk s x.comp (XQueue.slice q) = false then [1] else []

/-- The engine works for the queue, whose successor is visited next. -/
def engaged (s : State) (q : XQueue) (e : Nat) : State :=
  s.modDie q.die fun y => { y with engines := setD none y.engines e (some q.q), rotation := ((if q.q = 8 then 0 else q.q + 1) + 1) % 9 }

/-- The transfer runs, with the statuses `bad` besides those it had. -/
def started (s : State) (q : XQueue) (x : Xfer) (e : Nat) (bad : List Nat) : State :=
  (engaged s q e).modXfer q x.token fun y => { y with phase := .running e, bad := y.bad ++ bad }

/-- The panel that an address names depends on the compositions and the panel's own address alone. -/
theorem panelField_congr {s t : State} (hy : t.yoke = s.yoke) (hl : t.link = s.link) (c : Nat) (a : DWord) : t.panelField c a = s.panelField c a := by
  rw [State.panelField, State.panelField, State.comp?_congr hy, hl]

/-- Whether a transfer crosses panels depends on no more. -/
theorem remote_congr {s t : State} (hy : t.yoke = s.yoke) (hl : t.link = s.link) (x : Xfer) : x.remote t = x.remote s := by
  have panel : XferDesc.dpanel t x.comp (xferDesc x.desc) = XferDesc.dpanel s x.comp (xferDesc x.desc) := panelField_congr hy hl _ _
  rw [Xfer.remote, Xfer.remote, XferDesc.toRemote, XferDesc.toRemote, panel]

theorem remote_started {s : State} {q : XQueue} (hq : q.q < 8) (x : Xfer) (e : Nat) (bad : List Nat) :
    x.remote (started s q x e bad) = x.remote s := by
  rw [started, modXfer_of_core hq]
  exact remote_congr rfl rfl x

/-- The first queue in rotation that may have another engine gives its oldest transfer that is free to start. -/
theorem exec_transferStart {s : State} {die e i : Nat} {pre post : List Nat} {x : Xfer} (hs : s.inService = true) (hu : s.dieUp die = true)
    (he : e < 16) (hidle : getD none (s.die die).engines e = none) (hvisit : visitOrder (s.die die).rotation = pre ++ i :: post)
    (hpre : ∀ j ∈ pre, s.takeable ⟨die, j⟩ = none) (hi : i < 8) (hx : s.takeable ⟨die, i⟩ = some x)
    (hcap : (s.die die).working i < s.xferCap ⟨die, i⟩) (hlocal : x.remote s = false) (hclean : x.descPoisoned = false) (hnew : x.issued = 0) :
    Machine.exec (.transferStart die e) s = .next (started s ⟨die, i⟩ x e (checked s ⟨die, i⟩ x)) := by
  have free : ¬ ((!s.inService) = true ∨ (!s.dieUp die) = true ∨ 16 ≤ e ∨ (getD none (s.die die).engines e).isSome = true) := by
    simp [hs, hu, hidle, he]
  have found := findSome?_offer (post := post) hpre hx hcap
  rw [← hvisit] at found
  have status : (if x.descPoisoned = true then [3] else if (x.oddDesc || !((xferDesc x.desc).valid x.desc) ||
      !((xferDesc x.desc).panelsOk s x.comp (XQueue.slice ⟨die, i⟩))) = true ∧ x.issued = 0 ∧ i < 8 then [1] else []) = checked s ⟨die, i⟩ x :=
    (if_neg (by simp [hclean])).trans (if_congr (by simp [hnew, hi, or_assoc]) rfl rfl)
  refine congrArg Host.Outcome.next ((if_neg free).trans ?_)
  change (match (visitOrder (s.die die).rotation).findSome? (offer s die) with
    | none => s
    | some (q, t) => _) = _
  rw [found]
  refine (if_neg ?_).trans (congrArg (started s ⟨die, i⟩ x e) status)
  exact Bool.eq_false_iff.1 ((remote_started (q := ⟨die, i⟩) hi x e _).trans hlocal)

/-- What a start leaves: the engine and the rotation, the transfer, the memory. -/
theorem started_effect {s : State} {q : XQueue} (hq : q.q < 8) {x : Xfer} (h : s.xfer? q x.token = some x) (e : Nat) (bad : List Nat) :
    let t := started s q x e bad
    getD none (t.die q.die).engines e = some q.q ∧ (t.die q.die).rotation = (q.q + 2) % 9 ∧
      t.xfer? q x.token = some { x with phase := .running e, bad := x.bad ++ bad } ∧ t.mem = s.mem := by
  have onDie : (started s q x e bad).die q.die = (engaged s q e).die q.die := State.die_congr (modXfer_dies hq _ _) _
  have notReeve : q.q ≠ 8 := by omega
  have found : (engaged s q e).xfer? q x.token = some x := (xfer?_congr (s := s) (t := engaged s q e) hq rfl _).trans h
  refine ⟨?_, ?_, ?_, modXfer_mem hq _ _⟩
  · rw [onDie, engaged, State.die_modDie, getD_setD_same]
  · rw [onDie, engaged, State.die_modDie, if_neg notReeve]
  · rw [started, xfer?_modXfer hq, found]
    · rfl
    · exact fun _ => rfl

theorem transferEngineTakesATransfer : Claim.TransferEngineTakesATransfer := by
  intro s die e pre i post x hs hu he hidle hvisit hpre hi hx hcap hlocal hclean hnew hfound
  obtain ⟨engine, rotation, xfer, mem⟩ := started_effect (q := ⟨die, i⟩) hi hfound e (checked s ⟨die, i⟩ x)
  exact ⟨_, _, exec_transferStart hs hu he hidle hvisit hpre hi hx hcap hlocal hclean hnew, engine, rotation, xfer, rfl, mem, rfl⟩

/-! ## A chunk moves within the seedbed (R181, R190, R192, R193) -/

/-- `n` bytes of the seedbed with their poison marks. -/
def markedAt (c : Core) (a n : Nat) : Marked := (upto n).map fun i => (readByte c.seedbed (a + i), c.sbPoisoned (a + i) 1)

theorem length_markedAt (c : Core) (a n : Nat) : (markedAt c a n).length = n := by
  rw [markedAt, List.length_map, upto, List.length_range]

theorem getD_markedAt (c : Core) (a : Nat) {n j : Nat} (h : j < n) : ((markedAt c a n).map (·.1)).getD j 0 = readByte c.seedbed (a + j) := by
  simp [markedAt, upto, h]

@[simp] theorem sbWrite_xfers (c : Core) (a : Nat) (bs : List Byte) (bad : Bool) : (c.sbWrite a bs bad).xfers = c.xfers := by
  unfold Core.sbWrite; dsimp only; split <;> rfl

@[simp] theorem sbWrite_tallies (c : Core) (a : Nat) (bs : List Byte) (bad : Bool) : (c.sbWrite a bs bad).tallies = c.tallies := by
  unfold Core.sbWrite; dsimp only; split <;> rfl

theorem sbMarked_seedbed (c : Core) (a : Nat) (bs : Marked) : (c.sbMarked a bs).seedbed = writeBytes c.seedbed a (bs.map (·.1)) :=
  sbWrite_seedbed c a (bs.map Prod.fst) false
theorem sbMarked_xfers (c : Core) (a : Nat) (bs : Marked) : (c.sbMarked a bs).xfers = c.xfers := sbWrite_xfers c a (bs.map Prod.fst) false
theorem sbMarked_tallies (c : Core) (a : Nat) (bs : Marked) : (c.sbMarked a bs).tallies = c.tallies := sbWrite_tallies c a (bs.map Prod.fst) false

/-- Counter `i` of slice `k` gains `n`, and the waits that this ends are over (R192, R196). -/
def countOn (s : State) (k i n : Nat) : State :=
  s.modCore k fun c =>
    ({ c with tallies := insert c.tallies i { (s.core k).tally i with value := ((s.core k).tally i).value + BitVec.ofNat 32 n } } : Core).releaseWaits

/-- Of the cores, counters and waiting drills alone change. -/
theorem countOn_core (s : State) (k i n j : Nat) :
    (countOn s k i n).core j = { s.core j with tallies := ((countOn s k i n).core j).tallies, drills := ((countOn s k i n).core j).drills } := by
  rw [countOn]
  by_cases hj : j = k
  · rw [hj, State.core_modCore]
    rfl
  · rw [State.core_modCore_other _ _ hj]

theorem countOn_value (s : State) (k i n : Nat) :
    (((countOn s k i n).core k).tally i).value = ((s.core k).tally i).value + BitVec.ofNat 32 n := by
  rw [countOn, State.core_modCore]
  exact congrArg (fun y : Option Tally => (y.getD ⟨0, none, false⟩).value) (find?_insert_same _ _ _)

/-- A counter of the context's own that no teardown has frozen counts. -/
theorem tallyChunk_owned {s : State} {k : Nat} (hu : s.dieUp (dieOf k) = true) {i : Nat} {ctx : Half} (ho : ((s.core k).tally i).owner = some ctx)
    (hf : ((s.core k).tally i).frozen = false) (n : Nat) : s.tallyChunk k i n ctx = (countOn s k i n, 0) := by
  have up : ¬ (!s.dieUp (dieOf k)) = true := by simp [hu]
  have thawed : ¬ ((s.core k).tally i).frozen = true := by simp [hf]
  rw [State.tallyChunk, if_neg up, if_neg (not_not_intro ho), if_neg thawed]
  rfl

/-- No die has a failed channel, so none starts its reset. -/
theorem resetFaulties_sound {s : State} (h : Sound s) : s.resetFaulties = s := by
  refine List.foldl_fixed' (fun d => if_neg ?_) _
  rw [Bool.and_eq_true]
  rintro ⟨fault, up⟩
  rw [h d up] at fault
  cases fault

/-- What a chunk from seedbed to seedbed takes along. -/
def taken (s : State) (q : XQueue) (x : Xfer) (r o n : Nat) : Marked :=
  markedAt (s.core (XQueue.slice q)) ((xferDesc x.desc).srow r + o).toNat n

/-- The bytes are in place. -/
def placed (s : State) (q : XQueue) (x : Xfer) (r o n : Nat) : State :=
  s.modCore (XQueue.slice q) fun c => c.sbMarked ((xferDesc x.desc).drow r + o).toNat (taken s q x r o n)

/-- With TALLY they are counted. -/
def counted (s : State) (x : Xfer) (n : Nat) : State :=
  if (xferDesc x.desc).tally then countOn s (xferDesc x.desc).tslice (xferDesc x.desc).tctr n else s

/-- The chunk is done, and metered. -/
def landed (s : State) (q : XQueue) (x : Xfer) (i r o n : Nat) : State :=
  ((counted (placed s q x r o n) x n).chunkDone q x.token [i] [0, if anyPoison (taken s q x r o n) then 3 else 0]).meter (XQueue.payer q) 9 n

/-- The counter of a chunk with TALLY is one of the core's own, and the context's (R193). -/
def OwnCounter (s : State) (q : XQueue) (x : Xfer) : Prop :=
  (xferDesc x.desc).tslice = XQueue.slice q ∧ ((s.core (xferDesc x.desc).tslice).tally (xferDesc x.desc).tctr).owner = some x.context ∧
    ((s.core (xferDesc x.desc).tslice).tally (xferDesc x.desc).tctr).frozen = false

/-- Placing bytes leaves the core's counters alone. -/
theorem placed_tally {s : State} {q : XQueue} {x : Xfer} (r o n : Nat) (hk : (xferDesc x.desc).tslice = XQueue.slice q) (j : Nat) :
    ((placed s q x r o n).core (xferDesc x.desc).tslice).tally j = (s.core (xferDesc x.desc).tslice).tally j := by
  rw [placed, hk, State.core_modCore, Core.tally, Core.tally, sbMarked_tallies]

section
variable {s : State} {q : XQueue} {tok : Word} {i : Nat} {x : Xfer} {r o n : Nat} (h : SeedbedChunk s q tok i x r o n)
include h

theorem readChunk_seedbed (later : List Nat) (w : Waiter) : s.readChunk q x later w r o n = .ok (s, taken s q x r o n) := by
  obtain ⟨-, -, -, -, -, -, -, -, -, copies, source, -⟩ := h
  simp only [State.readChunk, copies, source]
  rfl

/-- A drill's transfer waits for no refetch. -/
theorem writeChunk_seedbed (w : Waiter) : s.writeChunk q x w r o (taken s q x r o n) = .ok (placed s q x r o n) := by
  obtain ⟨-, -, -, -, -, -, -, -, -, -, -, dest, -, use⟩ := h
  have held : s.loadHeld q x ((xferDesc x.desc).drow r + o) = false := by
    unfold State.loadHeld
    split
    · rfl
    · next hu => rw [hu] at use; exact use.elim
  simp only [State.writeChunk, held, dest]
  rfl

theorem chunk_local : x.remote s = false := by
  obtain ⟨-, -, -, -, -, -, -, -, -, -, source, dest, -⟩ := h
  simp [Xfer.remote, XferDesc.fromRemote, XferDesc.toRemote, source, dest]

/-- The chunk is written and, with TALLY, counted at a counter that takes it. -/
theorem landChunk_seedbed (w : Waiter) (howned : (xferDesc x.desc).tally = true → OwnCounter s q x) :
    s.landChunk q x w i r o (taken s q x r o n) = .ok (landed s q x i r o n) := by
  rw [State.landChunk, writeChunk_seedbed h]
  have length : (taken s q x r o n).length = n := length_markedAt _ _ _
  cases ht : (xferDesc x.desc).tally with
  | false =>
    simp only [Moved.bind, landed, counted, ht, length]
    rfl
  | true =>
    obtain ⟨hk, owner, thawed⟩ := howned ht
    rw [← placed_tally r o n hk] at owner thawed
    obtain ⟨hq, -, up, -⟩ := h
    have up : (placed s q x r o n).dieUp (dieOf (xferDesc x.desc).tslice) = true := by
      rw [hk, dieOf_slice hq]; exact up
    have tally := tallyChunk_owned up owner thawed n
    simp only [Moved.bind, landed, counted, ht, length, tally]
    rfl

/-- Marking chunks done leaves the dies alone, so none starts its reset. -/
theorem landed_sound : Sound (landed s q x i r o n) := by
  obtain ⟨hq, -, -, -, -, -, -, -, sound, -⟩ := h
  have dies : (landed s q x i r o n).dies = s.dies := by
    rw [landed, State.meter_dies, State.chunkDone, modXfer_dies hq, counted]
    split <;> rfl
  intro d up
  rw [State.dieUp, State.die_congr dies] at up
  rw [State.die_congr dies]
  exact sound d up

/-- The chunk of a running transfer is read, lands, and no reset follows. -/
theorem exec_chunkArrive (howned : (xferDesc x.desc).tally = true → OwnCounter s q x) :
    Machine.exec (.transferChunkArrive q tok i) s = .next (landed s q x i r o n) := by
  have crossing : ¬ x.remote s = true := Bool.eq_false_iff.1 (chunk_local h)
  have land := landChunk_seedbed h (.chunk q tok i) howned
  have read := fun later => readChunk_seedbed h later (.chunk q tok i)
  have sound := resetFaulties_sound (landed_sound h)
  obtain ⟨-, hs, hu, found, ⟨e, -, running⟩, unstopped, undone, alive, -, -, -, -, place, -⟩ := h
  have fresh : i ∉ x.done := by simpa using undone
  refine congrArg Host.Outcome.next ((if_neg (by simp [hs, hu])).trans ?_)
  rw [found]
  refine (if_neg (by simp [running, unstopped, fresh, alive])).trans ((if_neg crossing).trans ?_)
  rw [place]
  dsimp only
  rw [read]
  dsimp only
  rw [land]
  exact sound

end

/-! ### What the chunk leaves -/

theorem counted_core (s : State) (x : Xfer) (n k : Nat) : (counted s x n).core k =
    { s.core k with tallies := ((counted s x n).core k).tallies, drills := ((counted s x n).core k).drills } := by
  unfold counted
  split
  · exact countOn_core _ _ _ _ _
  · rfl

theorem counted_mem (s : State) (x : Xfer) (n : Nat) : (counted s x n).mem = s.mem := by
  unfold counted
  split <;> rfl

theorem mem_addOnce (a : Nat) (l : List Nat) : a ∈ addOnce a l := by
  unfold addOnce
  split
  · next h => simpa using h
  · simp

theorem xfer?_chunkDone {s : State} {q : XQueue} (hq : q.q < 8) {tok : Word} {x : Xfer} (h : s.xfer? q tok = some x) (i : Nat) (sts : List Nat) :
    ∃ x', (s.chunkDone q tok [i] sts).xfer? q tok = some x' ∧ i ∈ x'.done := by
  rw [State.chunkDone, xfer?_modXfer hq, h]
  · exact ⟨_, rfl, mem_addOnce i x.done⟩
  · exact fun _ => rfl

section
variable {s : State} {q : XQueue} (hq : q.q < 8) (x : Xfer) (i r o n : Nat)
include hq

/-- Noting the chunk changes the queue of the core, metering it the meters. -/
theorem landed_core (k : Nat) : ∃ xs m, (landed s q x i r o n).core k = { (counted (placed s q x r o n) x n).core k with xfers := xs, meters := m } := by
  obtain ⟨m, metered⟩ := meter_core ((counted (placed s q x r o n) x n).chunkDone q x.token [i]
    [0, if anyPoison (taken s q x r o n) then 3 else 0]) (XQueue.payer q) 9 n k
  rw [landed, metered, State.chunkDone, modXfer_core hq]
  exact ⟨_, m, rfl⟩

theorem landed_mem : (landed s q x i r o n).mem = s.mem := by
  rw [landed, State.meter_mem, State.chunkDone, modXfer_mem hq, counted_mem]
  rfl

theorem landed_seedbed : ((landed s q x i r o n).core (XQueue.slice q)).seedbed =
    writeBytes (s.core (XQueue.slice q)).seedbed ((xferDesc x.desc).drow r + o).toNat ((taken s q x r o n).map (·.1)) := by
  obtain ⟨xs, m, core⟩ := landed_core (s := s) hq x i r o n (XQueue.slice q)
  rw [core, counted_core, placed, State.core_modCore]
  exact sbMarked_seedbed _ _ _

theorem landed_tally (ht : (xferDesc x.desc).tally = true) (hk : (xferDesc x.desc).tslice = XQueue.slice q) :
    (((landed s q x i r o n).core (xferDesc x.desc).tslice).tally (xferDesc x.desc).tctr).value =
      ((s.core (xferDesc x.desc).tslice).tally (xferDesc x.desc).tctr).value + BitVec.ofNat 32 n := by
  obtain ⟨xs, m, core⟩ := landed_core (s := s) hq x i r o n (xferDesc x.desc).tslice
  rw [core, ← placed_tally r o n hk, ← countOn_value, counted, if_pos ht]
  rfl

theorem landed_xfer {tok : Word} (found : s.xfer? q tok = some x) : ∃ x', (landed s q x i r o n).xfer? q tok = some x' ∧ i ∈ x'.done := by
  have queue : ((counted (placed s q x r o n) x n).core (XQueue.slice q)).xfers = (s.core (XQueue.slice q)).xfers := by
    rw [counted_core, placed, State.core_modCore]
    exact sbMarked_xfers _ ((xferDesc x.desc).drow r + o).toNat (taken s q x r o n)
  rw [landed, xfer?_token found, xfer?_meter hq]
  exact xfer?_chunkDone hq ((xfer?_congr hq queue tok).trans found) i _

end

theorem transferChunkCopiesAndCounts : Claim.TransferChunkCopiesAndCounts := by
  intro s q tok i x r o n h d src dst _ howned
  obtain ⟨hq, -, -, found, -⟩ := id h
  obtain ⟨x', xfer, isDone⟩ := landed_xfer hq x i r o n found
  have seedbed : ((landed s q x i r o n).core (8 * q.die + q.q)).seedbed =
    writeBytes (s.core (8 * q.die + q.q)).seedbed dst ((taken s q x r o n).map (·.1)) := landed_seedbed hq x i r o n
  have length : ((taken s q x r o n).map (·.1)).length = n := by rw [List.length_map, taken, length_markedAt]
  refine ⟨_, x', exec_chunkArrive h howned, xfer, isDone, landed_mem hq x i r o n, fun j hj => ?_, fun a ha => ?_,
    fun ht => landed_tally hq x i r o n ht (howned ht).1⟩
  · rw [seedbed, readByte_writeBytes, length, if_pos (by omega), Nat.add_sub_cancel_left]
    exact getD_markedAt _ _ hj
  · rw [seedbed, readByte_writeBytes, length, if_neg (by omega)]

/-! ## A transfer completes in token order (R184, R185, R189) -/

/-- With CREC the completion record of status 0 stands in its granule. -/
def recorded (s : State) (q : XQueue) (d : XferDesc) (tok : Word) : State :=
  if d.crec then s.modCore (XQueue.slice q) fun c => c.sbPut (32 * d.caddr) (natLe 8 tok.toNat) else s

/-- The engine is idle again, and the transfer has left its queue. -/
def released (s : State) (q : XQueue) (e : Nat) (tok : Word) : State :=
  let t := s.modDie q.die fun y => { y with engines := setD none y.engines e none }
  t.setXfers q ((t.xfers q).filter fun y => decide (y.token ≠ tok))

/-- The latest complete token moves on over the transfers that are complete in turn, and the waits that this ends are over. -/
def completed (s : State) (q : XQueue) (tok : Word) : State :=
  s.modCore (XQueue.slice q) fun c =>
    let (done, early) := advanceTokens (c.early.length + 1) c.xferDone (c.early ++ [{ token := tok, status := 0 }])
    ({ c with xferDone := done, early := early } : Core).releaseWaits

/-- A running transfer whose chunks are all done, none with a failure, completes with status 0. -/
theorem exec_transferComplete {s : State} {q : XQueue} {tok : Word} {x : Xfer} {e : Nat} (hq : q.q < 8) (hs : s.inService = true)
    (hu : s.dieUp q.die = true) (found : s.xfer? q tok = some x) (running : x.phase = .running e) (hbad : x.bad = [])
    (hclean : x.descPoisoned = false) (hall : x.done.length = (xferDesc x.desc).total) (hconns : s.link.conns = []) :
    Machine.exec (.transferComplete q tok) s = .next (completed (released (recorded s q (xferDesc x.desc) tok) q e tok) q tok) := by
  have finished : s.xferFinished q x = true := by simp [State.xferFinished, State.framesOut, hconns, hall]
  have record : (if (xferDesc x.desc).crec = true ∧ (!x.descPoisoned) = true ∧ q.q < 8 then
      s.modCore (XQueue.slice q) fun c => c.sbPut (32 * (xferDesc x.desc).caddr) (natLe 8 (lowestStatus [] * 2 ^ 60 + tok.toNat)) else s) =
      recorded s q (xferDesc x.desc) tok := if_congr (by simp [hclean, hq]) (by simp [lowestStatus]) rfl
  refine congrArg Host.Outcome.next ((if_neg (by simp [hs, hu])).trans ?_)
  rw [found]
  refine (if_neg (by simp [running, finished])).trans ?_
  rw [running, hbad]
  exact (if_pos hq).trans ((if_pos (.inl rfl)).trans (congrArg (fun t => completed (released t q e tok) q tok) record))

/-! ### What the completion leaves -/

theorem recorded_core (s : State) (q : XQueue) (d : XferDesc) (tok : Word) : ∃ mark, (recorded s q d tok).core (XQueue.slice q) =
    { s.core (XQueue.slice q) with
      seedbed := if d.crec then writeBytes (s.core (XQueue.slice q)).seedbed (32 * d.caddr) (natLe 8 tok.toNat) else (s.core (XQueue.slice q)).seedbed
      liveMark := mark } := by
  unfold recorded
  split
  · exact ⟨_, State.core_modCore _ _ _⟩
  · exact ⟨_, rfl⟩

theorem recorded_mem (s : State) (q : XQueue) (d : XferDesc) (tok : Word) : (recorded s q d tok).mem = s.mem := by
  unfold recorded
  split <;> rfl

/-- Of the core, the queue alone changes. -/
theorem released_core {s : State} {q : XQueue} (hq : q.q < 8) (e : Nat) (tok : Word) : ∃ xs, (released s q e tok).core (XQueue.slice q) =
    { s.core (XQueue.slice q) with xfers := xs } := by
  rw [released, setXfers_of_core hq, State.core_modCore]
  exact ⟨_, rfl⟩

theorem released_mem {s : State} {q : XQueue} (hq : q.q < 8) (e : Nat) (tok : Word) : (released s q e tok).mem = s.mem := by
  rw [released, setXfers_of_core hq]
  rfl

theorem released_xfer {s : State} {q : XQueue} (hq : q.q < 8) (e : Nat) (tok : Word) : (released s q e tok).xfer? q tok = none :=
  xfer?_setXfers_filter hq tok

theorem released_engine {s : State} {q : XQueue} (hq : q.q < 8) (e : Nat) (tok : Word) :
    getD none ((released s q e tok).die q.die).engines e = none := by
  rw [released, setXfers_of_core hq, State.die_congr (State.modCore_dies _ _ _), State.die_modDie, getD_setD_same]

/-- The next token in order completes at once where no later one is complete yet. -/
theorem completed_core {s : State} {q : XQueue} {tok : Word} (hearly : (s.core (XQueue.slice q)).early = [])
    (hnext : tok = (s.core (XQueue.slice q)).xferDone + 1) : (completed s q tok).core (XQueue.slice q) =
      ({ s.core (XQueue.slice q) with xferDone := tok, early := [] } : Core).releaseWaits := by
  have advanced : advanceTokens 1 (s.core (XQueue.slice q)).xferDone [{ token := tok, status := 0 }] = (tok, []) := by
    simp [advanceTokens, hnext]
  rw [completed, State.core_modCore, hearly]
  dsimp only [List.length_nil, List.nil_append]
  rw [advanced]

/-- The bytes of a record that is written or not. -/
theorem readByte_record (m : Memory) (written : Bool) (b v a : Nat) : readByte (if written then writeBytes m b (natLe 8 v) else m) a =
    if written = true ∧ b ≤ a ∧ a < b + 8 then (natLe 8 v).getD (a - b) 0 else readByte m a := by
  cases written with
  | false => simp
  | true => simp [readByte_writeBytes, length_natLe]

theorem transferCompletesInTokenOrder : Claim.TransferCompletesInTokenOrder := by
  intro s q tok x e hq hs hu found running hbad hclean hall hconns hearly hnext
  obtain ⟨mark, record⟩ := recorded_core s q (xferDesc x.desc) tok
  obtain ⟨xs, release⟩ := released_core (s := recorded s q (xferDesc x.desc) tok) hq e tok
  rw [record] at release
  have complete := completed_core (s := released (recorded s q (xferDesc x.desc) tok) q e tok) (q := q) (tok := tok)
    (by rw [release]; exact hearly) (by rw [release]; exact hnext)
  have queue := congrArg Core.xfers complete
  have seedbed := congrArg Core.seedbed complete
  rw [release] at seedbed
  refine ⟨_, exec_transferComplete hq hs hu found running hbad hclean hall hconns, congrArg Core.xferDone complete,
    (xfer?_congr hq queue tok).trans (released_xfer hq e tok), released_engine hq e tok,
    (released_mem hq e tok).trans (recorded_mem s q _ tok), fun a => (congrArg (readByte · a) seedbed).trans (readByte_record _ _ _ _ a)⟩

/-- Settles O16: a start is `started`, a chunk within the seedbed lands as `landed`, and a completion records, releases and advances the token. -/
theorem transfersRunToTheirEnd : Obligations.TransfersRunToTheirEnd := by
  unfold Obligations.TransfersRunToTheirEnd
  exact ⟨transferEngineTakesATransfer, transferChunkCopiesAndCounts, transferCompletesInTokenOrder⟩

end Sys2Proof.Transfers
end

section
/-! SUPPORT. The queues of a function (O30, O33): reading one after writing it, what delivering entries and reports leaves of the submission queues
(R362-R364), and interrupts (R365). -/

namespace Sys2Proof.Queues

open Sys2Proof Sys2Proof.Machine Sys2Proof.Claim Sys2Proof.ArrayEnd Sys2Proof.Answers Sys2Proof.HostPort

/-! ## Queues after writing them -/

@[simp] theorem sq?_setSq (s : State) (f q : Nat) (x : Sq) : (s.setSq f q x).sq? f q = some x := by
  rw [State.sq?, State.setSq, State.fn_modFn, find?_insert_same]

@[simp] theorem cq?_setCq (s : State) (f q : Nat) (x : Cq) : (s.setCq f q x).cq? f q = some x := by
  rw [State.cq?, State.setCq, State.fn_modFn, find?_insert_same]

theorem sq?_of_fn {s t : State} {f : Nat} (h : (t.fn f).sqs = (s.fn f).sqs) (q : Nat) : t.sq? f q = s.sq? f q := by rw [State.sq?, State.sq?, h]

theorem aside_modFn (s : State) (f : Nat) (g : Fn → Fn) : Aside s (s.modFn f g) := ⟨rfl, rfl, rfl⟩

theorem aside_trans {s t u : State} (h : Aside s t) (k : Aside t u) : Aside s u := by
  obtain ⟨mem, cores, yoke⟩ := h
  obtain ⟨mem', cores', yoke'⟩ := k
  exact ⟨mem'.trans mem, cores'.trans cores, yoke'.trans yoke⟩

theorem hostOnly_of_hostSide {s t : State} (h : HostSide s t) : HostOnly s t := ⟨h.dram, h.cores, h.yoke⟩

/-! ## What completing, reporting and settling leave of the submission queues -/

/-- Every function keeps its submission queues. -/
def SqsKept (s t : State) : Prop := ∀ f, (t.fn f).sqs = (s.fn f).sqs

theorem SqsKept.refl (s : State) : SqsKept s s := fun _ => rfl

theorem SqsKept.trans {s t u : State} (h : SqsKept s t) (k : SqsKept t u) : SqsKept s u := fun f => (k f).trans (h f)

theorem sqsKept_of_fns {s t : State} (h : t.host.fns = s.host.fns) : SqsKept s t := fun f => by rw [State.fn, h, State.fn]

theorem sqsKept_modFn (s : State) (f : Nat) {g : Fn → Fn} (h : ∀ x, (g x).sqs = x.sqs) : SqsKept s (s.modFn f g) := fun e => by
  by_cases he : e = f
  · subst he; rw [State.fn_modFn, h]
  · rw [State.fn_modFn_other _ _ he]

theorem SqsKept.ite {s t u : State} {p : Prop} [Decidable p] (h : SqsKept s t) (k : SqsKept s u) : SqsKept s (if p then t else u) := by
  split
  · exact h
  · exact k

theorem hostSend_fns (s : State) (write : Bool) (pasid : Option Nat) (iova n : Nat) : (s.hostSend write pasid iova n).host.fns = s.host.fns :=
  List.foldlRecOn (pagesOf iova n) _ (motive := fun (h : HostIf) => h.fns = s.host.fns) rfl fun _ h _ _ => h

theorem sqsKept_hostWrite {s t : State} {f : Nat} {pasid : Option Nat} {iova : Nat} {bs : List Byte} {due : Bool}
    (h : s.hostWrite f pasid iova bs = some (t, due)) : SqsKept s t := by
  unfold State.hostWrite at h
  split at h
  · cases h
  · next u put =>
    have kept : SqsKept s u := by
      unfold State.hostPut at put
      split at put
      · cases put; exact sqsKept_of_fns (hostSend_fns _ _ _ _ _)
      · cases put
    split at h
    · cases h; exact kept.trans (sqsKept_modFn _ _ fun _ => rfl)
    · cases h; exact kept

theorem record_host (s : State) (c type : Nat) (bs : List Byte) : (s.record c type bs).host = s.host := by
  unfold State.record
  split
  · rfl
  · split
    · rfl
    · dsimp only; split <;> rfl

theorem record_mem (s : State) (c type : Nat) (bs : List Byte) : (s.record c type bs).mem = s.mem := by
  unfold State.record
  split
  · rfl
  · split
    · rfl
    · dsimp only; split <;> rfl

theorem sqsKept_record (s : State) (c type : Nat) (bs : List Byte) : SqsKept s (s.record c type bs) := sqsKept_of_fns (by rw [record_host])

theorem sqsKept_setCq (s : State) (f q : Nat) (c : Cq) : SqsKept s (s.setCq f q c) := sqsKept_modFn s f fun _ => rfl

theorem sqsKept_aqErr (s : State) (f : Nat) : SqsKept s (s.modFn f fun x => { x with aqErr := true }) := sqsKept_modFn s f fun _ => rfl

theorem sqsKept_pendingVec (s : State) (f v : Nat) : SqsKept s (s.modFn f fun x => { x with pendingVec := addOnce v x.pendingVec }) :=
  sqsKept_modFn s f fun _ => rfl

theorem sqsKept_signal (s : State) (f q : Nat) : SqsKept s (s.signal f q) := by
  unfold State.signal
  split
  · exact .refl s
  · exact .ite ((sqsKept_setCq s f q _).trans (sqsKept_pendingVec _ _ _)) ((sqsKept_setCq s f q _).trans (sqsKept_of_fns rfl))

theorem sqsKept_ringWrite (s : State) (f q : Nat) (e : Cqe) : SqsKept s (s.ringWrite f q e).1 := by
  unfold State.ringWrite
  split
  · exact .refl s
  · dsimp only
    split
    · exact .ite ((sqsKept_setCq s f q _).trans (sqsKept_aqErr _ _)) (sqsKept_setCq s f q _)
    · next s1 _ hrec =>
      have recorded : SqsKept s s1 := by
        revert hrec
        split
        · split
          · exact sqsKept_hostWrite
          · rintro ⟨⟩; exact .refl s
        · rintro ⟨⟩; exact .refl s
      split
      · exact .ite ((sqsKept_setCq s f q _).trans (sqsKept_aqErr _ _)) (sqsKept_setCq s f q _)
      · next s2 _ hput =>
        have put (c : Cq) : SqsKept s (s2.setCq f q c) := (recorded.trans (sqsKept_hostWrite hput)).trans (sqsKept_setCq _ _ _ _)
        refine .ite (SqsKept.trans ?captured (sqsKept_signal _ _ _)) ?captured
        split
        · exact (SqsKept.ite ((put _).trans (sqsKept_record _ _ _ _)) (put _)).trans (sqsKept_record _ _ _ _)
        · exact put _

theorem sqsKept_cqPush (s : State) (f q : Nat) (e : Cqe) : SqsKept s (s.cqPush f q e).1 := by
  unfold State.cqPush
  split
  · exact .refl s
  · split
    · exact .refl s
    · split
      · exact sqsKept_ringWrite s f q e
      · split
        · exact sqsKept_setCq s f q _
        · exact (sqsKept_setCq s f q _).trans (sqsKept_of_fns rfl)

theorem sqsKept_replayOut (s : State) (c : Nat) (e : Cqe) : SqsKept s (s.replayOut c e) := by
  unfold State.replayOut
  split
  · exact .refl s
  · exact sqsKept_of_fns rfl

theorem sqsKept_logCode (s : State) (c : Code) : SqsKept s (s.logCode c) := sqsKept_of_fns (by rw [logCode_host])

theorem sqsKept_deliver (n : Nat) (s : State) (ds : List Due) : SqsKept s (State.deliver n s ds) := by
  induction n generalizing s ds with
  | zero => exact .refl s
  | succ n ih =>
    unfold State.deliver
    generalize hp : ds.foldl _ (s, ([] : List (Nat × Code))) = p
    have sent : SqsKept s p.1 := by
      rw [← hp]
      refine List.foldlRecOn ds _ (motive := fun (a : State × List (Nat × Code)) => SqsKept s a.1) (.refl s) fun a ha d _ => ?_
      dsimp only
      split
      · split
        · exact ha.trans (sqsKept_replayOut _ _ _)
        · exact ha.trans (sqsKept_cqPush _ _ _ _)
      · exact ha.trans (sqsKept_cqPush _ _ _ _)
    dsimp only
    split
    · exact sent
    · refine SqsKept.trans ?_ (ih _ _)
      exact List.foldlRecOn p.2 _ (motive := fun (a : State × List Due) => SqsKept s a.1) sent fun a ha fc _ =>
        (ha.trans (sqsKept_logCode _ _)).trans (sqsKept_of_fns rfl)

theorem sqsKept_reportFn (s : State) (f : Nat) (c : Code) : SqsKept s (s.reportFn f c) :=
  ((sqsKept_logCode s c).trans (sqsKept_of_fns rfl)).trans (sqsKept_deliver _ _ _)

theorem hostSide_reportFn (s : State) (f : Nat) (c : Code) : HostSide s (s.reportFn f c) := by
  unfold State.reportFn
  exact hostSide_logged_deliver s c _ _

theorem sqsKept_noteAqErr (s : State) (f q : Nat) : SqsKept s (s.noteAqErr f q) := by
  unfold State.noteAqErr
  split
  · exact sqsKept_modFn s f fun _ => rfl
  · exact .refl s

theorem hostSide_noteAqErr (s : State) (f q : Nat) : HostSide s (s.noteAqErr f q) := by
  unfold State.noteAqErr
  split
  · exact hostSide_modFn s f _
  · exact .refl s

/-- No submission queue is being deleted, and AQ_EN has not been cleared: nothing settles. -/
theorem settleSq_idle {s : State} {f : Nat} (hd : ∀ y ∈ (s.fn f).sqs, y.2.deleting = none) (ha : (s.fn f).aqRemoving = false) (q : Nat) :
    s.settleSq f q = s := by
  unfold State.settleSq
  split
  · rfl
  · split
    · rfl
    · next sq found =>
      rw [hd _ (mem_of_find? found)]
      simp [ha]

theorem cqDrain_empty {s : State} {f q : Nat} {c : Cq} (hc : find? (s.fn f).cqs q = some c) (he : c.buffer = []) (n : Nat) :
    State.cqDrain n s f q = (s, []) := by
  cases n with
  | zero => rfl
  | succ n => rw [State.cqDrain, hc]; simp [he]

/-! ## Interrupts (R365) -/

theorem signal_cq? {s : State} {f q : Nat} {c : Cq} (hc : s.cq? f q = some c) : (s.signal f q).cq? f q = some { c with unsignalled := 0 } := by
  rw [State.cq?] at hc
  rw [State.signal, hc]
  dsimp only
  split
  · rw [State.cq?, State.fn_modFn]
    exact cq?_setCq s f q _
  · exact cq?_setCq s f q _

theorem signal_sends {s : State} {f q : Nat} {c : Cq} (hc : s.cq? f q = some c) :
    if bit (s.regs.get (msixCtrl f c.vector)) 0 then c.vector ∈ ((s.signal f q).fn f).pendingVec ∧ (s.signal f q).host.outs = s.host.outs
    else (s.signal f q).host.outs = s.host.outs ++ [.msix f c.vector] := by
  rw [State.cq?] at hc
  rw [State.signal, hc]
  dsimp only
  by_cases masked : bit (s.regs.get (msixCtrl f c.vector)) 0 = true
  · rw [if_pos masked, if_pos (by exact masked)]
    refine ⟨?_, rfl⟩
    rw [State.fn_modFn, addOnce]
    split
    · next h => exact List.contains_iff_mem.1 h
    · exact List.mem_append_right _ (List.mem_singleton.2 rfl)
  · rw [if_neg masked, if_neg (by exact masked)]
    rfl

theorem aside_signal (s : State) (f q : Nat) : Aside s (s.signal f q) := by
  unfold State.signal
  split
  · exact ⟨rfl, rfl, rfl⟩
  · dsimp only; split <;> exact ⟨rfl, rfl, rfl⟩

end Sys2Proof.Queues
end

section
/-! SUPPORT. Doorbells, entry fetches, interrupts and ATS invalidations (O30): R215, R359-R361, R365, R368. -/

namespace Sys2Proof.Doorbells

open Sys2Proof Sys2Proof.Machine Sys2Proof.Claim Sys2Proof.HostPort Sys2Proof.Queues

/-! ## Doorbells (R215, R359, R360) -/

section
variable {s : State} {f q : Nat} (v : Word) (hr : s.fnReady f = true) (hq : q < queueIds f)
include hr hq

theorem exec_sqTail : Machine.exec (.sqTail f q v) s = .next (if s.host.barQ.isEmpty then s.sqTail f q v else s.barWait (.sqTail f q v)) :=
  congrArg Host.Outcome.next (if_neg (by simp [hr, Nat.not_le.2 hq]))

theorem exec_cqHead : Machine.exec (.cqHead f q v) s = .next (if s.host.barQ.isEmpty then s.cqHead f q v else s.barWait (.cqHead f q v)) :=
  congrArg Host.Outcome.next (if_neg (by simp [hr, Nat.not_le.2 hq]))

end

section
variable {s : State} {f q : Nat} {v : Word}

/-- The doorbell of a queue that is neither deleted nor stopped. -/
theorem sqTail_eq {x : Sq} (hx : s.sq? f q = some x) (hd : x.deleting = none) (hdel : s.deletingSq f q = false) (hs : x.stopped = false) :
    s.sqTail f q v = if x.tailError (bits v 15 0) = true then
      ((s.setSq f q { x with stopped := true }).noteAqErr f q).reportFn f (mkCode 0x40D000F0 f) else s.setSq f q { x with tail := bits v 15 0 } := by
  rw [State.sqTail, hx]
  simp [hd, hdel, hs]

theorem sqTail_beyond {x : Sq} (hx : s.sq? f q = some x) (hd : x.deleting = none) (hdel : s.deletingSq f q = false) (hs : x.stopped = false)
    (he : x.tailError (bits v 15 0) = true) : HostOnly s (s.sqTail f q v) ∧ (s.sqTail f q v).sq? f q = some { x with stopped := true } := by
  rw [sqTail_eq hx hd hdel hs, if_pos he]
  have stopped : HostSide s (s.setSq f q { x with stopped := true }) := hostSide_modFn s f _
  have reported := (sqsKept_noteAqErr (s.setSq f q { x with stopped := true }) f q).trans (sqsKept_reportFn _ f (mkCode 0x40D000F0 f))
  exact ⟨hostOnly_of_hostSide ((stopped.trans (hostSide_noteAqErr _ f q)).trans (hostSide_reportFn _ f _)),
    (sq?_of_fn (reported f) q).trans (sq?_setSq s f q _)⟩

/-- The doorbell of a completion queue on which nothing waits, of a function none of whose queues is about to go. -/
theorem cqHead_moves {x : Cq} (hx : s.cq? f q = some x) (hs : x.stopped = false) (hb : x.buffer = []) (he : x.headError (bits v 15 0) = false)
    (ha : (s.fn f).aqRemoving = false) (hd : ∀ y ∈ (s.fn f).sqs, y.2.deleting = none) :
    s.cqHead f q v = s.setCq f q { x with head := bits v 15 0 } := by
  have found : find? ((s.setCq f q { x with head := bits v 15 0 }).fn f).cqs q = some { x with head := bits v 15 0 } := cq?_setCq s f q _
  have same : (s.setCq f q { x with head := bits v 15 0 }).fn f = { s.fn f with cqs := insert (s.fn f).cqs q { x with head := bits v 15 0 } } :=
    State.fn_modFn s f _
  have idle : (s.setCq f q { x with head := bits v 15 0 }).settleSq f 0 = s.setCq f q { x with head := bits v 15 0 } :=
    settleSq_idle (by rw [same]; exact hd) (by rw [same]; exact ha) 0
  rw [State.cqHead, hx]
  dsimp only
  rw [if_neg (by simp [hs]), if_neg (by simp [he]), cqDrain_empty found hb]
  exact idle

end

/-! ## Fetching (R361) -/

/-- The entry that a fetch from slot `head` of queue `q` makes. -/
def fetched (s : State) (f q : Nat) (x : Sq) (w : List DWord) : Entry :=
  { ref := { fn := f, sq := q, num := (s.fn f).nextOrder }, w := w, cq := x.cq, at_ := s.time.now, started := false, seq := s.host.fetches }

/-- The read of the entry goes out and is counted, and the head moves past it. -/
def readOut (s : State) (f q : Nat) (x : Sq) : State :=
  (({ s with host := { s.host with fetches := s.host.fetches + 1 } }).hostSend false x.pasid (x.base.toNat + 64 * x.head) 64).setSq f q
    { x with head := (x.head + 1) % x.size }

/-- The entry joins those of its function and reserves a completion slot of queue `c`. -/
def joined (s : State) (f : Nat) (e : Entry) (c : Cq) : State :=
  s.modFn f fun y => { y with entries := y.entries ++ [e], nextOrder := y.nextOrder + 1, cqs := insert y.cqs e.cq { c with reserved := c.reserved + 1 } }

theorem fn_readOut (s : State) (f q : Nat) (x : Sq) :
    (readOut s f q x).fn f = { s.fn f with sqs := insert (s.fn f).sqs q { x with head := (x.head + 1) % x.size } } := by
  have sent : (({ s with host := { s.host with fetches := s.host.fetches + 1 } }).hostSend false x.pasid (x.base.toNat + 64 * x.head) 64).fn f = s.fn f := by
    rw [State.fn, hostSend_fns]; rfl
  rw [readOut, State.setSq, State.fn_modFn, sent]

theorem recordEntry_host (s : State) (x : Entry) : (s.recordEntry x).host = s.host := by
  unfold State.recordEntry
  split
  · exact record_host _ _ _ _
  · rfl

theorem aside_recordEntry (s : State) (x : Entry) : Aside s (s.recordEntry x) := by
  unfold State.recordEntry
  split
  · have side := hostSide_record s x.comp 1
    exact ⟨record_mem _ _ _ _, (side _).cores, (side _).yoke⟩
  · exact ⟨rfl, rfl, rfl⟩

theorem exec_sqEntryFetch {s : State} {f q : Nat} {x : Sq} {c : Cq} {w : List DWord} (hr : s.fnReady f = true) (hx : s.sq? f q = some x)
    (hs : x.stopped = false) (hd : x.deleting = none) (hne : x.head ≠ x.tail) (hc : s.cq? f x.cq = some c) (hcs : c.stopped = false)
    (hslot : c.slotFree = true) (ha : q = 0 → (s.fn f).aqRemoving = false)
    (hqu : q ≠ 0 → (s.fn f).quiesced = false ∧ (s.fn f).quiescing = none)
    (hw : s.hostWords x.pasid (x.base.toNat + 64 * x.head) 8 = some w) (hop : reservedOp (bits (w.getD 0 0) 63 56) = false)
    (hbit : bit (w.getD 0 0) 48 = false) :
    Machine.exec (.sqEntryFetch f q) s = .next ((joined (readOut s f q x) f (fetched s f q x w) c).recordEntry (fetched s f q x w)) := by
  have takes : ¬ (x.stopped = true ∨ x.deleting.isSome = true ∨ x.head = x.tail ∨ (!(s.cq? f x.cq).any fun c => !c.stopped && c.slotFree) = true ∨
      (q = 0 ∧ (s.fn f).aqRemoving = true) ∨ (q ≠ 0 ∧ ((s.fn f).quiesced = true ∨ (s.fn f).quiescing.isSome = true))) := by
    by_cases h0 : q = 0
    · simp [hs, hd, hne, hc, hcs, hslot, h0, ha h0]
    · obtain ⟨running, still⟩ := hqu h0
      simp [hs, hd, hne, hc, hcs, hslot, h0, running, still]
  have kept : (fetched s f q x w).reserved = false := by
    rw [Entry.reserved, Bool.or_eq_false_iff]
    exact ⟨hop, hbit⟩
  have slot : find? ((readOut s f q x).fn f).cqs x.cq = some c := by rw [fn_readOut]; exact hc
  have step : (readOut s f q x).modFn f (fun y => { y with
      entries := y.entries ++ [fetched s f q x w], nextOrder := y.nextOrder + 1,
      cqs := (match find? y.cqs x.cq with
        | some c => insert y.cqs x.cq { c with reserved := c.reserved + 1 }
        | none => y.cqs) }) = joined (readOut s f q x) f (fetched s f q x w) c := by
    rw [joined, State.modFn, State.modFn, slot]
    rfl
  refine congrArg Host.Outcome.next ?_
  rw [if_neg (by simp [hr]), hx]
  dsimp only
  rw [if_neg takes, hw]
  exact (if_neg fun ⟨reserved, _⟩ => Bool.false_ne_true (kept.symm.trans reserved)).trans (congrArg (State.recordEntry · (fetched s f q x w)) step)

/-- What a fetch leaves: the entry after those of its function, the head moved and the slot reserved. -/
theorem fetch_leaves (s : State) (f q : Nat) (x : Sq) (c : Cq) (w : List DWord) :
    ∃ t, t = (joined (readOut s f q x) f (fetched s f q x w) c).recordEntry (fetched s f q x w) ∧ Aside s t ∧
      (t.fn f).entries = (s.fn f).entries ++ [fetched s f q x w] ∧ t.sq? f q = some { x with head := (x.head + 1) % x.size } ∧
      t.cq? f x.cq = some { c with reserved := c.reserved + 1 } := by
  have same := State.fn_congr (recordEntry_host (joined (readOut s f q x) f (fetched s f q x w) c) (fetched s f q x w)) f
  rw [joined, State.fn_modFn, fn_readOut] at same
  refine ⟨_, rfl, aside_trans ⟨rfl, rfl, rfl⟩ (aside_recordEntry _ _), ?_, ?_, ?_⟩
  · rw [joined, same]
  · rw [State.sq?, joined, same]
    exact find?_insert_same _ _ _
  · rw [State.cq?, joined, same]
    exact find?_insert_same _ _ _

/-! ## Interrupts and translation (R365, R368) -/

theorem exec_interruptHoldTimeout {s : State} {f q : Nat} {c : Cq} (hr : s.fnReady f = true) (hc : s.cq? f q = some c) (hu : c.unsignalled ≠ 0)
    (hh : c.hold ≠ 0) (ht : c.oldestAt + c.hold * 1000 ≤ s.time.now) : Machine.exec (.interruptHoldTimeout f q) s = .next (s.signal f q) := by
  refine congrArg Host.Outcome.next ?_
  rw [hc]
  exact if_neg (by simp [hr, hu, hh, Nat.not_lt.2 ht])

theorem exec_msixUnmask {s : State} {f v : Nat} (hr : s.fnReady f = true) (hv : v < vectors f) :
    Machine.exec (.msixUnmask f v) s = .next (s.unmaskVec f v) :=
  congrArg Host.Outcome.next (if_neg (by simp [hr, Nat.not_le.2 hv]))

theorem unmaskVec_regs (s : State) (f v : Nat) : (s.unmaskVec f v).regs = s.regs.set (msixCtrl f v) (s.regs.get (msixCtrl f v) &&& ~~~ 1) := by
  unfold State.unmaskVec
  dsimp only
  split <;> rfl

theorem unmaskVec_unmasked (s : State) (f v : Nat) : bit ((s.unmaskVec f v).regs.get (msixCtrl f v)) 0 = false := by
  rw [unmaskVec_regs, RegFile.get_set, if_pos rfl, bit, BitVec.getLsbD_and]
  simp

theorem unmaskVec_outs (s : State) (f v : Nat) :
    (s.unmaskVec f v).host.outs = s.host.outs ++ if (s.fn f).pendingVec.contains v then [.msix f v] else [] := by
  unfold State.unmaskVec
  dsimp only
  by_cases pending : (s.fn f).pendingVec.contains v = true
  · rw [if_pos pending, if_pos (by exact pending)]; rfl
  · rw [if_neg pending, if_neg (by exact pending), List.append_nil]

theorem aside_unmaskVec (s : State) (f v : Nat) : Aside s (s.unmaskVec f v) := by
  unfold State.unmaskVec
  dsimp only
  split <;> exact ⟨rfl, rfl, rfl⟩

/-- An invalidation keeps the translations of pages below or above its range alone. -/
theorem atsInvalidate_completes {s : State} (p lo hi : Nat) (hs : s.inService = true) :
    ∃ t, Machine.exec (.atsInvalidate p lo hi) s = .next t ∧ Aside s t ∧ t.host.outs = s.host.outs ++ [.atsDone p lo hi] ∧
      ∀ a, lo ≤ a → a < hi → hostKey (some p) 0 / 4096 + a / 4096 ∉ t.host.atc := by
  refine ⟨_, congrArg Host.Outcome.next (if_neg (by simp [hs])), ⟨rfl, rfl, rfl⟩, rfl, fun a hlo hhi kept => ?_⟩
  obtain ⟨-, outside⟩ := List.mem_filter.1 kept
  have above : a / 4096 < ceilDiv hi 4096 := by unfold ceilDiv; omega
  have below : lo / 4096 ≤ a / 4096 := Nat.div_le_div_right hlo
  simp only [Bool.or_eq_true, decide_eq_true_eq] at outside
  omega

/-! ## The statement -/

/-- Settles O30: a doorbell by `State.sqTail` and `State.cqHead` where no BAR4 request waits, a fetch by the entry that joins its function's, an
interrupt by the vector's mask, an invalidation by the pages that the cache keeps. -/
theorem doorbellsFetchesAndInterrupts : Obligations.DoorbellsFetchesAndInterrupts := by
  unfold Obligations.DoorbellsFetchesAndInterrupts
  refine ⟨fun s f q v x hr hq hx hd hdel hs hb => ⟨fun he => ?moves, fun he => ?stops⟩, fun s f q v x hr hq hx hs hbuf he hb ha hd => ?head,
    fun s f q v hr hq hb => ?waits, fun s f q x c w hr hx hs hd hne hc hcs hslot ha hqu hw hop hbit => ?fetch, fun s f q c hr hc hu hh ht => ?hold,
    fun s f v hr hv => ?unmask, fun s p lo hi hs => atsInvalidate_completes p lo hi hs⟩
  case moves =>
    refine ⟨_, exec_sqTail v hr hq, ?_⟩
    rw [hb, if_pos List.isEmpty_nil, sqTail_eq hx hd hdel hs, if_neg (by simp [he])]
    exact ⟨aside_modFn s f _, sq?_setSq s f q _⟩
  case stops =>
    obtain ⟨kept, stopped⟩ := sqTail_beyond hx hd hdel hs he
    refine ⟨_, { x with stopped := true }, exec_sqTail v hr hq, ?_⟩
    rw [hb, if_pos List.isEmpty_nil]
    exact ⟨kept, stopped, rfl, rfl⟩
  case head =>
    refine ⟨_, exec_cqHead v hr hq, ?_⟩
    rw [hb, if_pos List.isEmpty_nil, cqHead_moves hx hs hbuf he ha hd]
    exact ⟨aside_modFn s f _, cq?_setCq s f q _⟩
  case waits =>
    have busy : ¬ s.host.barQ.isEmpty = true := by simpa using hb
    exact ⟨(exec_sqTail v hr hq).trans (congrArg Host.Outcome.next (if_neg busy)), (exec_cqHead v hr hq).trans (congrArg Host.Outcome.next (if_neg busy))⟩
  case fetch =>
    obtain ⟨t, rfl, aside, entries, sq, cq⟩ := fetch_leaves s f q x c w
    exact ⟨_, _, exec_sqEntryFetch hr hx hs hd hne hc hcs hslot ha hqu hw hop hbit, aside, entries, rfl, rfl, rfl, rfl, rfl, sq, cq⟩
  case hold => exact ⟨_, exec_interruptHoldTimeout hr hc hu hh ht, aside_signal s f q, signal_cq? hc, signal_sends hc⟩
  case unmask => exact ⟨_, exec_msixUnmask hr hv, aside_unmaskVec s f v, unmaskVec_unmasked s f v, unmaskVec_outs s f v⟩

end Sys2Proof.Doorbells
end

section
/-! SUPPORT. The bytes of a sector (O33): reading them after writing some, as for a memory's. -/

namespace Sys2Proof.SectorBytes

open Sys2Proof Sys2Proof.Machine

/-- Bit `k` of byte `i`. -/
theorem getLsbD_sectorByte (d : Sector) (i : Nat) {k : Nat} (hk : k < 8) : (sectorByte d i).getLsbD k = d.getLsbD (8 * i + k) := by
  rw [sectorByte, BitVec.getLsbD_ofNat, decide_eq_true hk, Bool.true_and, Nat.testBit_shiftRight, BitVec.getLsbD]

theorem getLsbD_byteAt (b : Byte) {i j : Nat} (hj : j < 2048) :
    (BitVec.ofNat 2048 (b.toNat <<< (8 * i))).getLsbD j = (decide (8 * i ≤ j) && b.getLsbD (j - 8 * i)) := by
  rw [BitVec.getLsbD_ofNat, decide_eq_true hj, Bool.true_and, Nat.testBit_shiftLeft]
  rfl

/-- A write of byte `i` gives that byte its bits, and every other bit stays. -/
theorem getLsbD_setSectorByte (d : Sector) (b : Byte) {i j : Nat} (hj : j < 2048) :
    (setSectorByte d i b).getLsbD j = if 8 * i ≤ j ∧ j < 8 * i + 8 then b.getLsbD (j - 8 * i) else d.getLsbD j := by
  have mask := getLsbD_byteAt (255#8) (i := i) hj
  have ones (k : Nat) : (255#8).getLsbD k = decide (k < 8) := by
    by_cases hk : k < 8
    · rw [decide_eq_true hk]; revert k; decide
    · rw [decide_eq_false hk]; exact BitVec.getLsbD_of_ge _ _ (Nat.le_of_not_lt hk)
  rw [ones] at mask
  change (BitVec.ofNat 2048 (255 <<< (8 * i))).getLsbD j = _ at mask
  rw [setSectorByte, BitVec.getLsbD_or, BitVec.getLsbD_and, BitVec.getLsbD_not, mask, getLsbD_byteAt b hj, decide_eq_true hj]
  by_cases low : 8 * i ≤ j
  · by_cases high : j < 8 * i + 8
    · have : j - 8 * i < 8 := by omega
      simp [low, high, this]
    · have : ¬ j - 8 * i < 8 := by omega
      simp [low, high, this, BitVec.getLsbD_of_ge b _ (Nat.le_of_not_lt this)]
  · simp [low]

theorem sectorByte_setSectorByte (d : Sector) (b : Byte) {i j : Nat} (hj : j < 256) :
    sectorByte (setSectorByte d i b) j = if j = i then b else sectorByte d j := by
  refine BitVec.eq_of_getLsbD_eq fun k hk => ?_
  rw [getLsbD_sectorByte _ _ hk, getLsbD_setSectorByte d b (by omega)]
  by_cases same : j = i
  · subst same
    rw [if_pos ⟨by omega, by omega⟩, if_pos rfl, Nat.add_sub_cancel_left]
  · rw [if_neg (by omega), if_neg same, getLsbD_sectorByte _ _ hk]

/-- Everything that a write of bytes does to a sector: each written byte reads back, every other byte reads as before. -/
theorem sectorByte_setSectorBytes (d : Sector) (i : Nat) (bs : List Byte) {j : Nat} (hj : j < 256) :
    sectorByte (setSectorBytes d i bs) j = if i ≤ j ∧ j < i + bs.length then bs.getD (j - i) 0 else sectorByte d j := by
  induction bs generalizing d i with
  | nil => rw [setSectorBytes, if_neg (by simp)]
  | cons b bs ih =>
    rw [setSectorBytes, ih, sectorByte_setSectorByte d b hj, List.length_cons]
    by_cases first : j = i
    · subst first
      rw [if_neg (by omega), if_pos rfl, if_pos (by omega), Nat.sub_self]
      rfl
    · rw [if_neg first]
      by_cases rest : i + 1 ≤ j ∧ j < i + 1 + bs.length
      · rw [if_pos rest, if_pos (by omega), show j - i = j - (i + 1) + 1 by omega, List.getD_cons_succ]
      · rw [if_neg rest, if_neg (by omega)]

theorem length_sectorBytes (d : Sector) (i n : Nat) : (sectorBytes d i n).length = n := by
  induction n generalizing i with
  | zero => rfl
  | succ n ih => rw [sectorBytes, List.length_cons, ih]

/-- A read of what was just written. -/
theorem sectorBytes_setSectorBytes_same (d : Sector) (i : Nat) (bs : List Byte) (h : i + bs.length ≤ 256) :
    sectorBytes (setSectorBytes d i bs) i bs.length = bs := by
  induction bs generalizing d i with
  | nil => rfl
  | cons b bs ih =>
    rw [List.length_cons] at h
    rw [setSectorBytes, List.length_cons, sectorBytes, ih _ _ (by omega), sectorByte_setSectorBytes _ _ _ (by omega), if_neg (by omega),
      sectorByte_setSectorByte _ _ (by omega), if_pos rfl]

end Sys2Proof.SectorBytes
end

section
/-! SUPPORT. BAR4 requests (O33): a request that finds no other waiting is performed whole, at the home of a sector that is present (R215, R241, R273,
R357). -/

namespace Sys2Proof.BarAccess

open Sys2Proof Sys2Proof.Machine Sys2Proof.Claim Sys2Proof.HomeSteps Sys2Proof.SectorBytes Sys2Proof.Seedbed

/-! ## A present sector at its home (R257) -/

theorem home_of_present {s : State} {n : Nat} {g : GSec} (h : Present s n g) : Home s n (some g) (s.die (homeOf n)).trans := by
  obtain ⟨quiet, pend, -, -, -, sec, -⟩ := h
  rw [State.quiet, Bool.and_eq_true, Bool.and_eq_true] at quiet
  exact ⟨sec, rfl, pend, List.isEmpty_iff.1 quiet.1.2⟩

/-- Nothing stands in the way of an access to it. -/
theorem ready_of_present {s : State} {n : Nat} {g : GSec} (h : Present s n g) (w : Waiter) : s.ready n w = true := by
  obtain ⟨quiet, pend, up, fault, free, -⟩ := h
  rw [State.ready, State.firstFor, quiet, up, fault, pend, decide_eq_true free]
  rfl

theorem recallNow_unshared {s : State} {n : Nat} {g : GSec} (h : Present s n g) (toI takeData : Bool) : s.recallNow n toI takeData = s := by
  obtain ⟨-, -, -, -, -, sec, dir⟩ := h
  have unshared : s.dirOf n = .un := by rw [State.dirOf, sec, ← dir]; rfl
  rw [State.recallNow, unshared]

theorem unhold_empty {s : State} {n : Nat} {o : Option GSec} {tr : List (Nat × Trans)} (h : Home s n o tr) (w : Waiter) : s.unhold n w = s := by
  rw [State.unhold, h.pend]
  rfl

/-- An access of BAR4 reaches the sector: its flits are charged, and its line is touched. -/
def visited (s : State) (n : Nat) : State := (s.meterFlits (ownerSlice n) n (accessFlits 256)).touch n (some 0) false

theorem meterFlits_kept (s : State) (k n m : Nat) :
    (s.meterFlits k n m).dies = s.dies ∧ (s.meterFlits k n m).mem = s.mem ∧ (s.meterFlits k n m).host = s.host := by
  rw [State.meterFlits]
  split
  · exact ⟨rfl, rfl, rfl⟩
  · exact ⟨State.meter_dies s k 6 m, State.meter_mem s k 6 m, State.meter_host s k 6 m⟩

theorem visited_mem (s : State) (n : Nat) : (visited s n).mem = s.mem := (meterFlits_kept s _ n _).2.1

theorem visited_host (s : State) (n : Nat) : (visited s n).host = s.host := (meterFlits_kept s _ n _).2.2

section
variable {s : State} {n : Nat} {g : GSec} (h : Present s n g)
include h

theorem home_charged : Home (s.meterFlits (ownerSlice n) n (accessFlits 256)) n (some g) (s.die (homeOf n)).trans :=
  home_of_dies (home_of_present h) (meterFlits_kept s _ n _).1

theorem home_visited : Home (visited s n) n (some g) (s.die (homeOf n)).trans := home_touch (home_charged h) _ _

/-- A read that keeps no copy. -/
theorem ncRead_present : s.ncRead n 0 (ownerSlice n) false none .bar4 = some (visited s n, g.data, g.poison) := by
  have done : (visited s n).unhold n .bar4 = visited s n := unhold_empty (home_visited h) .bar4
  rw [State.ncRead, ready_of_present h, recallNow_unshared h]
  simp only [Bool.not_true, Bool.false_eq_true, if_false, (home_charged h).sec, Option.isSome_none, or_self]
  exact congrArg (fun t => some (t, g.data, g.poison)) done

end

/-- The sector is changed by `f`, and the write is made known. -/
def changed (s : State) (n : Nat) (f : GSec → GSec) : State := ((visited s n).modGsec n f).written n

theorem modGsec_host (s : State) (n : Nat) (f : GSec → GSec) : (s.modGsec n f).host = s.host := by
  rw [State.modGsec]
  split
  · rfl
  · split <;> rfl

theorem written_host (s : State) (n : Nat) : (s.written n).host = s.host := rfl

theorem written_dies (s : State) (n : Nat) : (s.written n).dies = s.dies := rfl

theorem written_mem (s : State) (n : Nat) : (s.written n).mem = s.mem := rfl

theorem changed_host (s : State) (n : Nat) (f : GSec → GSec) : (changed s n f).host = s.host := by
  rw [changed, written_host, modGsec_host, visited_host]

theorem changed_mem (s : State) (n : Nat) (f : GSec → GSec) : (changed s n f).mem = s.mem := by
  obtain ⟨mem, -⟩ := homeOnly_modGsec (visited s n) n f
  rw [changed, written_mem, mem, visited_mem]

section
variable {s : State} {n : Nat} {g : GSec} (h : Present s n g)
include h

theorem home_changed (f : GSec → GSec) : Home (changed s n f) n (some (f g)) (s.die (homeOf n)).trans :=
  home_of_dies (home_modGsec (home_visited h) f) (written_dies _ n)

/-- A cached change of the whole sector at its home. -/
theorem ncModify_present (f : Sector → Sector) (whole poison : Bool) : s.ncModify n f whole poison 0 (ownerSlice n) false .bar4 =
    some (changed s n fun y => { y with data := f g.data, poison := poison || (g.poison && !whole), dirty := true, dir := .un }) := by
  rw [State.ncModify, ready_of_present h, recallNow_unshared h]
  simp only [Bool.not_true, Bool.false_eq_true, if_false, (home_charged h).sec]
  exact congrArg some (unhold_empty (home_changed h _) .bar4)

/-- An atomic group performed whole at the home of a sound sector. -/
theorem ncAtomic_present (hp : g.poison = false) {a : AtomGroup} (ha : a.hint = 0) : s.ncAtomic n a (ownerSlice n) .bar4 =
    some (changed s n fun y => { y with data := (groupOnSector a g.data).1, dirty := true }, (groupOnSector a g.data).2, false) := by
  rw [State.ncAtomic, ready_of_present h, recallNow_unshared h]
  simp only [Bool.not_true, Bool.false_eq_true, if_false, (home_charged h).sec, hp, ha]
  exact congrArg (fun t => some (t, (groupOnSector a g.data).2, false)) (unhold_empty (home_changed h _) .bar4)

end

/-! ## A request that finds no other waiting (R215, R357) -/

/-- Bytes within one sector are one piece. -/
theorem pieces_within {a n : Nat} (h : a % 256 + n ≤ 256) (hn : n ≠ 0) : pieces (a : Int) n (n / 256 + 2) = [((a : Int), n)] := by
  have room : n ≤ 256 - ((a : Int) % 256).toNat := by omega
  rw [pieces]
  simp [hn, room]

/-- The dies of a request that is let through are in service. -/
theorem bar4_up {s : State} {o n a : Nat} (h : s.bar4 o n = .go a) : (slicesAt a n).any (fun k => !s.dieUp (dieOf k)) = false := by
  unfold State.bar4 at h
  dsimp only at h
  split at h
  · cases h
  · split at h
    · cases h
    · split at h
      · cases h
      · next up => cases h; exact Bool.eq_false_iff.2 up

/-- The requests that wait are none again. -/
def cleared (t : State) : State := { t with host := { t.host with barQ := [] } }

theorem gsec?_cleared (t : State) (n : Nat) : (cleared t).gsec? n = t.gsec? n := rfl

theorem gsec?_out (t : State) (o : Out) (n : Nat) : (t.out o).gsec? n = t.gsec? n := rfl

theorem mem_cleared (t : State) : (cleared t).mem = t.mem := rfl

theorem outs_cleared_out (t : State) (o : Out) : (cleared (t.out o)).host.outs = t.host.outs ++ [o] := rfl

theorem barArrive_performed {s t : State} {o : BarOp} (hb : s.host.barQ = []) (done : (s.barWait o).barDo o = .ok t) : s.barArrive o = cleared t := by
  have waiting : (s.barWait o).host.barQ = [o] := by rw [State.barWait, hb]; rfl
  rw [State.barArrive, hb]
  simp only [List.length_nil, State.barServe, waiting, done]
  rfl

theorem exec_bar4 {s t : State} {o n a : Nat} {op : Nat → BarOp} (hr : s.fnReady 0 = true) (hb : s.host.barQ = []) (hgo : s.bar4 o n = .go a)
    (done : (s.barWait (op a)).barDo (op a) = .ok t) : s.bar4Request o n op = cleared t := by
  rw [State.bar4Request, if_neg (by simp [hr]), hgo]
  exact barArrive_performed hb done

/-- Joining those that wait leaves the home as it is. -/
theorem present_barWait {s : State} {n : Nat} {g : GSec} (h : Present s n g) (o : BarOp) : Present (s.barWait o) n g := h

/-! ## Reads and writes -/

theorem map_mark (bs : List Byte) (p : Bool) : (bs.map fun b => (b, p)).map (·.1) = bs := by
  rw [List.map_map]
  exact List.map_id bs

theorem any_mark {bs : List Byte} (p : Bool) (h : bs ≠ []) : (bs.map fun b => (b, p)).any (·.2) = p := by
  cases bs with
  | nil => exact absurd rfl h
  | cons b bs => cases p <;> simp

theorem barDo_read {s : State} {a n : Nat} {g : GSec} (hup : (slicesAt a n).any (fun k => !s.dieUp (dieOf k)) = false)
    (h : Present s (a / 256) g) (hin : a % 256 + n ≤ 256) (hn : n ≠ 0) :
    s.barDo (.read a n) = .ok ((visited s (a / 256)).out (.bar4 (sectorBytes g.data (a % 256) n) g.poison)) := by
  have some_ : sectorBytes g.data (a % 256) n ≠ [] := fun he => hn (by rw [← length_sectorBytes g.data (a % 256) n, he]; rfl)
  simp only [State.barDo, hup, Bool.false_eq_true, if_false, pieces_within hin hn, State.bar4Bytes, Int.toNat_natCast, ncRead_present h, Moved.bind,
    List.append_nil, map_mark, any_mark g.poison some_]

theorem ncOnSector_write (d : Sector) (i : Nat) (bs : List Byte) (h : i + bs.length ≤ 256) :
    ncOnSector .write d i bs.length (setSectorBytes 0 i bs) = setSectorBytes d i bs := by
  rw [ncOnSector]
  exact congrArg (setSectorBytes d i) (sectorBytes_setSectorBytes_same 0 i bs h)

/-- The sector with the bytes of a write. -/
def overwritten (g : GSec) (i : Nat) (bs : List Byte) (y : GSec) : GSec :=
  { y with data := setSectorBytes g.data i bs, poison := g.poison && !(decide (i = 0) && decide (bs.length = 256)), dirty := true, dir := .un }

theorem barDo_write {s : State} {a : Nat} {bs : List Byte} {g : GSec} (hup : (slicesAt a bs.length).any (fun k => !s.dieUp (dieOf k)) = false)
    (h : Present s (a / 256) g) (hin : a % 256 + bs.length ≤ 256) (hn : bs ≠ []) :
    s.barDo (.write a bs) = .ok (changed s (a / 256) (overwritten g (a % 256) bs)) := by
  have written : s.ncWrite (a / 256) (a % 256) bs .write false 0 (ownerSlice (a / 256)) false .bar4 =
      some (changed s (a / 256) (overwritten g (a % 256) bs)) := by
    rw [State.ncWrite, ncModify_present h, ncOnSector_write _ _ _ hin]
    rfl
  simp only [State.barDo, hup, Bool.false_eq_true, if_false, pieces_within hin (fun h0 => hn (List.length_eq_zero_iff.1 h0)), State.bar4Put,
    Int.toNat_natCast, List.take_length, written]

/-! ## AtomicOps (R273) -/

/-- The new value of a location of `n` bytes, which is the group's one member's. -/
def newValue (n : Nat) (op : BarAtomic) (u v : DWord) (old : Nat) : Nat :=
  match op with
  | .fetchAdd => (old + u.toNat) % 2 ^ (8 * n)
  | .swap => u.toNat
  | .cas => if old = u.toNat then v.toNat else old

theorem ofNat_eq_iff {w old : Nat} (u : BitVec w) (h : old < 2 ^ w) : BitVec.ofNat w old = u ↔ old = u.toNat := by
  rw [← BitVec.toNat_inj, BitVec.toNat_ofNat, Nat.mod_eq_of_lt h]

/-- A 32-bit AtomicOp. -/
theorem atom32_barGroup (s : State) (p : Nat) (op : BarAtomic) {u v : DWord} {old : Nat} (ho : old < 2 ^ 32) (hu : u.toNat < 2 ^ 32)
    (hv : v.toNat < 2 ^ 32) :
    groupApply (s.barGroup p op 4 u v) old { thread := 0, b := u, c := v } = newValue 4 op u v old := by
  have ub : (u.setWidth 32).toNat = u.toNat := by rw [BitVec.toNat_setWidth, Nat.mod_eq_of_lt hu]
  have vb : (v.setWidth 32).toNat = v.toNat := by rw [BitVec.toNat_setWidth, Nat.mod_eq_of_lt hv]
  cases op with
  | fetchAdd =>
    change (BitVec.ofNat 32 old + u.setWidth 32).toNat = (old + u.toNat) % 2 ^ 32
    rw [BitVec.toNat_add, BitVec.toNat_ofNat, Nat.mod_eq_of_lt ho, ub]
  | swap => exact ub
  | cas =>
    change (if BitVec.ofNat 32 old = u.setWidth 32 then v.setWidth 32 else BitVec.ofNat 32 old).toNat = if old = u.toNat then v.toNat else old
    rw [apply_ite BitVec.toNat, BitVec.toNat_ofNat, Nat.mod_eq_of_lt ho, vb]
    simp only [ofNat_eq_iff _ ho, ub]

/-- A 64-bit AtomicOp. -/
theorem atom64_barGroup (s : State) (p : Nat) (op : BarAtomic) (u v : DWord) {old : Nat} (ho : old < 2 ^ 64) :
    groupApply (s.barGroup p op 8 u v) old { thread := 0, b := u, c := v } = newValue 8 op u v old := by
  cases op with
  | fetchAdd =>
    change (BitVec.ofNat 64 old + u).toNat = (old + u.toNat) % 2 ^ 64
    rw [BitVec.toNat_add, BitVec.toNat_ofNat, Nat.mod_eq_of_lt ho]
  | swap => rfl
  | cas =>
    change (if BitVec.ofNat 64 old = u then v else BitVec.ofNat 64 old).toNat = if old = u.toNat then v.toNat else old
    rw [apply_ite BitVec.toNat, BitVec.toNat_ofNat, Nat.mod_eq_of_lt ho]
    simp only [ofNat_eq_iff _ ho]

theorem newValue_lt {n : Nat} (op : BarAtomic) {u v : DWord} {old : Nat} (ho : old < 256 ^ n) (hu : u.toNat < 2 ^ (8 * n)) (hv : v.toNat < 2 ^ (8 * n)) :
    newValue n op u v old < 256 ^ n := by
  have width : 256 ^ n = 2 ^ (8 * n) := (Nat.pow_mul 2 8 n).symm
  rw [width] at ho ⊢
  cases op with
  | fetchAdd => exact Nat.mod_lt _ (Nat.two_pow_pos _)
  | swap => exact hu
  | cas =>
    rw [newValue]
    split
    · exact hv
    · exact ho

section
variable {n : Nat} (hn : n = 4 ∨ n = 8)
include hn

/-- The group of an AtomicOp is its one member: the bytes of the new value, and the old value. -/
theorem groupOnSector_barGroup (s : State) (p : Nat) (op : BarAtomic) {u v : DWord} (hu : u.toNat < 2 ^ (8 * n)) (hv : v.toNat < 2 ^ (8 * n)) (d : Sector) :
    groupOnSector (s.barGroup p op n u v) d =
      (setSectorBytes d (p % 256) (natLe n (newValue n op u v (leNat (sectorBytes d (p % 256) n)))),
        [BitVec.ofNat 64 (leNat (sectorBytes d (p % 256) n))]) := by
  have old := leNat_lt (sectorBytes d (p % 256) n)
  rw [length_sectorBytes] at old
  obtain rfl | rfl := hn
  · exact congrArg (fun w => (setSectorBytes d (p % 256) (natLe 4 w), [BitVec.ofNat 64 (leNat (sectorBytes d (p % 256) 4))]))
      (atom32_barGroup s p op old hu hv)
  · exact congrArg (fun w => (setSectorBytes d (p % 256) (natLe 8 w), [BitVec.ofNat 64 (leNat (sectorBytes d (p % 256) 8))]))
      (atom64_barGroup s p op u v old)

/-- The sector with the new value in place. -/
def exchanged (g : GSec) (i n : Nat) (op : BarAtomic) (u v : DWord) (y : GSec) : GSec :=
  { y with data := setSectorBytes g.data i (natLe n (newValue n op u v (leNat (sectorBytes g.data i n)))), dirty := true }

theorem barDo_atomic {s : State} {a : Nat} (op : BarAtomic) {u v : DWord} {g : GSec} (hup : (slicesAt a n).any (fun k => !s.dieUp (dieOf k)) = false)
    (h : Present s (a / 256) g) (hp : g.poison = false) (hu : u.toNat < 2 ^ (8 * n)) (hv : v.toNat < 2 ^ (8 * n)) :
    s.barDo (.atomic a op n u v) = .ok ((changed s (a / 256) (exchanged g (a % 256) n op u v)).out
      (.bar4 (natLe n (leNat (sectorBytes g.data (a % 256) n))) false)) := by
  have old : leNat (sectorBytes g.data (a % 256) n) < 2 ^ 64 := by
    have below := leNat_lt (sectorBytes g.data (a % 256) n)
    rw [length_sectorBytes] at below
    exact Nat.lt_of_lt_of_le below (by obtain rfl | rfl := hn <;> decide)
  have performed := ncAtomic_present h hp (a := s.barGroup a op n u v) rfl
  rw [groupOnSector_barGroup hn s a op hu hv] at performed
  simp only [State.barDo, hup, Bool.false_eq_true, if_false, performed, List.headD_cons, BitVec.toNat_ofNat, Nat.mod_eq_of_lt old]
  rfl

end

/-- The new value reads back. -/
theorem leNat_exchanged {g : GSec} {i n : Nat} (hi : i + n ≤ 256) (op : BarAtomic) {u v : DWord} (hu : u.toNat < 2 ^ (8 * n)) (hv : v.toNat < 2 ^ (8 * n))
    (y : GSec) : leNat (sectorBytes (exchanged g i n op u v y).data i n) = newValue n op u v (leNat (sectorBytes g.data i n)) := by
  have old := leNat_lt (sectorBytes g.data i n)
  rw [length_sectorBytes] at old
  have read := sectorBytes_setSectorBytes_same g.data i (natLe n (newValue n op u v (leNat (sectorBytes g.data i n)))) (by rw [length_natLe]; exact hi)
  rw [length_natLe] at read
  rw [exchanged, read, leNat_natLe, Nat.mod_eq_of_lt (newValue_lt op old hu hv)]

/-! ## What each request leaves (R215, R241, R273) -/

section
variable {s : State} {o n a : Nat} {g : GSec} (hr : s.fnReady 0 = true) (hb : s.host.barQ = [])
include hr hb

theorem bar4Read_answered (hgo : s.bar4 o n = .go a) (h : Present s (a / 256) g) (hin : a % 256 + n ≤ 256) (hn : n ≠ 0) :
    ∃ t, Machine.exec (.bar4Read o n) s = .next t ∧ t.mem = s.mem ∧ t.gsec? (a / 256) = some g ∧
      t.host.outs = s.host.outs ++ [.bar4 (sectorBytes g.data (a % 256) n) g.poison] := by
  have here := present_barWait h (.read a n)
  refine ⟨_, congrArg Host.Outcome.next (exec_bar4 (op := fun a => .read a n) hr hb hgo (barDo_read (bar4_up hgo) here hin hn)), ?_, ?_, ?_⟩
  · rw [mem_cleared, State.out_mem, visited_mem]; rfl
  · rw [gsec?_cleared, gsec?_out, (home_visited here).sec]
  · rw [outs_cleared_out, visited_host]; rfl

theorem bar4Write_performed {v : List Byte} (hgo : s.bar4 o v.length = .go a) (h : Present s (a / 256) g) (hin : a % 256 + v.length ≤ 256) (hn : v ≠ []) :
    ∃ t g', Machine.exec (.bar4Write o v) s = .next t ∧ t.mem = s.mem ∧ t.gsec? (a / 256) = some g' ∧ g'.dirty = true ∧
      ∀ i, i < 256 → sectorByte g'.data i =
        if a % 256 ≤ i ∧ i < a % 256 + v.length then v.getD (i - a % 256) 0 else sectorByte g.data i := by
  have here := present_barWait h (.write a v)
  refine ⟨_, overwritten g (a % 256) v g,
    congrArg Host.Outcome.next (exec_bar4 (op := fun a => .write a v) hr hb hgo (barDo_write (bar4_up hgo) here hin hn)), ?_, ?_, rfl, fun i hi => ?_⟩
  · rw [mem_cleared, changed_mem]; rfl
  · rw [gsec?_cleared, (home_changed here _).sec]
  · exact sectorByte_setSectorBytes g.data (a % 256) v hi

theorem bar4Atomicop_performed (op : BarAtomic) {u v : DWord} (hn : n = 4 ∨ n = 8) (ho : o % n = 0) (hgo : s.bar4 o n = .go a) (ha : a % n = 0)
    (h : Present s (a / 256) g) (hp : g.poison = false) (hu : u.toNat < 2 ^ (8 * n)) (hv : v.toNat < 2 ^ (8 * n)) :
    ∃ t g', Machine.exec (.bar4Atomicop o op n u v) s = .next t ∧ t.mem = s.mem ∧ t.gsec? (a / 256) = some g' ∧
      t.host.outs = s.host.outs ++ [.bar4 (natLe n (leNat (sectorBytes g.data (a % 256) n))) false] ∧
      leNat (sectorBytes g'.data (a % 256) n) = newValue n op u v (leNat (sectorBytes g.data (a % 256) n)) := by
  have here := present_barWait h (.atomic a op n u v)
  have request : Machine.exec (.bar4Atomicop o op n u v) s = .next (s.bar4Request o n fun p => .atomic p op n u v) := by
    refine congrArg Host.Outcome.next ?_
    rw [if_neg (by simp [hr]), if_neg (by omega)]
  have within : a % 256 + n ≤ 256 := by obtain rfl | rfl := hn <;> omega
  refine ⟨_, exchanged g (a % 256) n op u v g, request.trans (congrArg Host.Outcome.next
    (exec_bar4 (op := fun p => .atomic p op n u v) hr hb hgo (barDo_atomic hn op (bar4_up hgo) here hp hu hv))), ?_, ?_, ?_, ?_⟩
  · rw [mem_cleared, State.out_mem, changed_mem]; rfl
  · rw [gsec?_cleared, gsec?_out, (home_changed here _).sec]
  · rw [outs_cleared_out, changed_host]; rfl
  · exact leNat_exchanged within op hu hv g

end

end Sys2Proof.BarAccess
end

section
/-! SUPPORT. The completion of an entry whose completion queue takes it into the ring at once (O33): what is written, and what is left (R361-R365,
R371). -/

namespace Sys2Proof.Completions

open Sys2Proof Sys2Proof.Machine Sys2Proof.Claim Sys2Proof.ArrayEnd Sys2Proof.Answers Sys2Proof.HostPort Sys2Proof.Parking Sys2Proof.Seedbed
open Sys2Proof.DrillPaths Sys2Proof.Queues

/-! ## One entry into the ring (R362-R365) -/

/-- Of function `f` its completion queues and its pending vectors alone have changed. -/
def RingsOnly (f : Nat) (s t : State) : Prop := ∃ cqs vecs, t.fn f = { s.fn f with cqs := cqs, pendingVec := vecs }

theorem ringsOnly_setCq {s t : State} {f : Nat} (h : t.fn f = s.fn f) (q : Nat) (c : Cq) : RingsOnly f s (t.setCq f q c) :=
  ⟨_, _, by rw [State.setCq, State.fn_modFn, h]⟩

theorem ringsOnly_out {s t : State} {f : Nat} (h : RingsOnly f s t) (o : Out) : RingsOnly f s (t.out o) := h

theorem ringsOnly_signal {s t : State} {f : Nat} (h : RingsOnly f s t) (q : Nat) : RingsOnly f s (t.signal f q) := by
  obtain ⟨cqs, vecs, same⟩ := h
  unfold State.signal
  split
  · exact ⟨cqs, vecs, same⟩
  · dsimp only
    split
    · exact ⟨_, _, by rw [State.fn_modFn, State.fn_modFn, same]⟩
    · exact ringsOnly_out ⟨_, _, by rw [State.fn_modFn, same]⟩ _

theorem signal_mem (s : State) (f q : Nat) : (s.signal f q).mem = s.mem := (aside_signal s f q).1

/-- No capture runs: nothing is recorded. -/
theorem record_none {s : State} (h : s.tst.captures = []) (c type : Nat) (bs : List Byte) : s.record c type bs = s := by
  rw [State.record, h]
  rfl

/-- A write to host memory under another PASID than the dirty log's. -/
theorem hostWrite_unlogged {s : State} {f : Nat} {pasid : Option Nat} {iova : Nat} {bs : List Byte} (hok : s.hostOk pasid iova bs.length = true)
    (hlog : ∀ l, (s.fn f).log = some l → l.pasid ≠ pasid) : ∃ t, s.hostWrite f pasid iova bs = some (t, false) ∧
      t.mem.host = writeBytes s.mem.host (hostKey pasid iova) bs ∧ t.fn f = s.fn f ∧ t.tst = s.tst := by
  rw [State.hostWrite, State.hostPut, if_pos hok]
  dsimp only
  generalize hu : (({ s with mem := { s.mem with host := writeBytes s.mem.host (hostKey pasid iova) bs } } : State).hostSend true pasid iova bs.length) = u
  have fn : u.fn f = s.fn f := by rw [← hu, State.fn, hostSend_fns]; rfl
  have mem : u.mem.host = writeBytes s.mem.host (hostKey pasid iova) bs := by rw [← hu]; rfl
  have tst : u.tst = s.tst := by rw [← hu]; rfl
  cases hl : (s.fn f).log with
  | none => exact ⟨u, rfl, mem, fn, tst⟩
  | some l =>
    have unmarked : l.mark pasid iova bs.length = (l, false) := if_neg (hlog l hl)
    have kept : (u.modFn f fun x => { x with log := some l }).fn f = s.fn f := by rw [State.fn_modFn, fn, ← hl]
    exact ⟨u.modFn f fun x => { x with log := some l }, by dsimp only; rw [unmarked], mem, kept, tst⟩

/-- The four words of an entry as its ring slot holds them: LOST and PHASE with word 1. -/
def slotBytes (c : Cq) (e : Cqe) : List Byte := dwordBytes [e.w0, BitVec.ofNat 64 (e.w1.toNat + 4 * b2n c.lost + b2n c.phase), e.w2, e.w3]

theorem length_slotBytes (c : Cq) (e : Cqe) : (slotBytes c e).length = 32 := by
  simp [slotBytes, dwordBytes, length_natLe]

/-- The queue with one more entry in its ring, written at `now`. -/
def filled (now : Nat) (c : Cq) : Cq :=
  { c with tail := (c.tail + 1) % c.size, phase := if (c.tail + 1) % c.size = 0 then !c.phase else c.phase, lost := false,
           unsignalled := c.unsignalled + 1, oldestAt := if c.unsignalled = 0 then now else c.oldestAt }

/-- An entry without a record enters the ring, and nothing falls due. -/
theorem ringWrite_enters {s : State} {f q : Nat} {c : Cq} {e : Cqe} (hc : find? (s.fn f).cqs q = some c) (hr : e.record = none)
    (hok : s.hostOk c.pasid (c.base.toNat + 32 * c.tail) 32 = true) (hlog : ∀ l, (s.fn f).log = some l → l.pasid ≠ c.pasid)
    (hcap : s.tst.captures = []) : ∃ t, s.ringWrite f q e = (t, []) ∧ RingsOnly f s t ∧
      t.mem.host = writeBytes s.mem.host (hostKey c.pasid (c.base.toNat + 32 * c.tail)) (slotBytes c e) ∧
      ∃ k, t.cq? f q = some k ∧ k.tail = (c.tail + 1) % c.size := by
  obtain ⟨u, put, mem, fn, tst⟩ := hostWrite_unlogged (bs := slotBytes c e) (by rw [length_slotBytes]; exact hok) hlog
  have entered := ringsOnly_setCq fn q (filled s.time.now c)
  have quiet (k type : Nat) (bs : List Byte) : (u.setCq f q (filled s.time.now c)).record k type bs = u.setCq f q (filled s.time.now c) :=
    record_none (by rw [State.setCq, State.modFn_tst, tst, hcap]) _ _ _
  have written : ∃ now : Bool, s.ringWrite f q e =
      (if now = true then (u.setCq f q (filled s.time.now c)).signal f q else u.setCq f q (filled s.time.now c), []) := by
    rw [State.ringWrite, hc, hr]
    simp only [State.setCq, filled] at quiet
    dsimp only
    split
    · next refused => cases put.symm.trans refused
    · next put' =>
      cases put.symm.trans put'
      simp only [quiet, ite_self]
      cases e.comp <;> exact ⟨_, rfl⟩
  obtain ⟨now, written⟩ := written
  refine ⟨_, written, ?_, ?_, ?_⟩
  · split
    · exact ringsOnly_signal entered q
    · exact entered
  · rw [apply_ite State.mem, signal_mem, ite_self]
    exact mem
  · split
    · exact ⟨_, signal_cq? (cq?_setCq u f q _), rfl⟩
    · exact ⟨_, cq?_setCq u f q _, rfl⟩

/-- A queue with room for it and nothing before it takes the entry into its ring. -/
theorem cqPush_enters {s : State} {f q : Nat} {c : Cq} {e : Cqe} (hc : find? (s.fn f).cqs q = some c) (hs : c.stopped = false) (hb : c.buffer = [])
    (hroom : c.room = true) : s.cqPush f q e = s.ringWrite f q e := by
  rw [State.cqPush, hc]
  dsimp only
  rw [if_neg (by simp [hs]), hb, hroom]
  rfl

/-! ## The entry that is completed -/

theorem filter_removeFirst {α : Type} (p : α → Bool) (l : List α) : (removeFirst p l).filter p = (l.filter p).tail := by
  induction l with
  | nil => rfl
  | cons a l ih =>
    rw [removeFirst, List.filter_cons]
    cases hp : p a with
    | true => rfl
    | false => simp [hp, ih]

/-- The function once the entry is forgotten: its SQ's head is told, and its completion slot is no longer reserved. -/
def forgotten (e : EntryRef) (x : Entry) (f : Fn) : Fn :=
  { f with entries := removeFirst (fun y => decide (y.ref = e)) f.entries,
           sqs := (match find? f.sqs e.sq with
             | some q => insert f.sqs e.sq { q with told := q.head }
             | none => f.sqs),
           cqs := (match find? f.cqs x.cq with
             | some q => insert f.cqs x.cq { q with reserved := q.reserved - 1 }
             | none => f.cqs) }

theorem forgotten_deleting (e : EntryRef) (x : Entry) {f : Fn} (hd : ∀ y ∈ f.sqs, y.2.deleting = none) :
    ∀ y ∈ (forgotten e x f).sqs, y.2.deleting = none := by
  intro y hy
  rw [forgotten] at hy
  dsimp only at hy
  split at hy
  · next q found =>
    obtain rfl | hy := mem_insert hy
    · exact hd (e.sq, q) (mem_of_find? found)
    · exact hd y hy
  · exact hd y hy

theorem forgotten_reserved (e : EntryRef) (x : Entry) {f : Fn} (hr : ∀ y ∈ f.entries, y.reserved = false) :
    ∀ y ∈ (forgotten e x f).entries, y.reserved = false := fun y hy => hr y (mem_of_mem_removeFirst hy)

theorem forgotten_cq {e : EntryRef} {x : Entry} {f : Fn} {c : Cq} (hc : find? f.cqs x.cq = some c) :
    find? (forgotten e x f).cqs x.cq = some { c with reserved := c.reserved - 1 } := by
  rw [forgotten, hc]
  exact find?_insert_same _ _ _

/-- The completion entry of `x` (Table 13-7). -/
def answer (s : State) (e : EntryRef) (x : Entry) (st w2 w3 : Nat) : Cqe :=
  { w0 := BitVec.ofNat 64 (x.tag * 2 ^ 32 + ((s.sq? e.fn e.sq).map (·.head)).getD 0 % 65536 * 2 ^ 16 + e.sq % 65536),
    w1 := cqWord1 0 st 0 s.panelAddr, w2 := BitVec.ofNat 64 w2, w3 := BitVec.ofNat 64 w3, record := none,
    comp := if compOp x.opcode then some x.comp else none }

section
variable {s : State} {e : EntryRef} {x : Entry} {c : Cq} (h : Roomy s e x c)
include h

theorem entry?_of_roomy : s.entry? e = some x := by
  obtain ⟨only, -⟩ := h
  have first : ((s.fn e.fn).entries.filter fun y => decide (y.ref = e)).head? = some x := by rw [only]; rfl
  rwa [List.head?_filter] at first

theorem ref_of_roomy : x.ref = e := by simpa using List.find?_some (entry?_of_roomy h)

/-- No other entry bears its reference. -/
theorem forgotten_entry? : (forgotten e x (s.fn e.fn)).entries.find? (fun y => y.ref = e) = none := by
  obtain ⟨only, -⟩ := h
  have none_left := filter_removeFirst (fun y => decide (y.ref = e)) (s.fn e.fn).entries
  rw [only] at none_left
  rw [← List.head?_filter, forgotten]
  exact congrArg List.head? none_left

/-- The completion enters the ring. -/
theorem completeRaw_enters (st w2 w3 : Nat) : RingsOnly e.fn (s.modFn e.fn (forgotten e x)) (s.completeRaw e st w2 w3 0) ∧
    (s.completeRaw e st w2 w3 0).dies = s.dies ∧ (s.completeRaw e st w2 w3 0).mem.host =
      writeBytes s.mem.host (hostKey c.pasid (c.base.toNat + 32 * c.tail)) (slotBytes c (answer s e x st w2 w3)) ∧
    ∃ k, (s.completeRaw e st w2 w3 0).cq? e.fn x.cq = some k ∧ k.tail = (c.tail + 1) % c.size := by
  have found := entry?_of_roomy h
  obtain ⟨-, small, -, -, -, log, captures, -, hc, running, empty, room, ok⟩ := h
  have left : (s.modFn e.fn (forgotten e x)).fn e.fn = forgotten e x (s.fn e.fn) := State.fn_modFn s e.fn _
  have here : find? ((s.modFn e.fn (forgotten e x)).fn e.fn).cqs x.cq = some { c with reserved := c.reserved - 1 } := by
    rw [left]; exact forgotten_cq hc
  obtain ⟨t, entered, rings, mem, tail⟩ := ringWrite_enters (e := answer s e x st w2 w3) here rfl ok (by rw [left]; exact log) captures
  have pushed := (cqPush_enters (e := answer s e x st w2 w3) here running empty room).trans entered
  have done : s.completeRaw e st w2 w3 0 = t := by
    rw [State.completeRaw, found]
    exact (if_neg (Nat.not_le.2 small)).trans (congrArg (fun p : State × List Code => p.1.dueCodes e.fn p.2) pushed)
  have dies := dies_cqPush (s.modFn e.fn (forgotten e x)) e.fn x.cq (answer s e x st w2 w3)
  rw [pushed] at dies
  rw [done]
  exact ⟨rings, dies, mem, tail⟩

end

/-! ## What a completion settles (R364, R373) -/

theorem settleReserved_none {s : State} {f : Nat} (h : ∀ y ∈ (s.fn f).entries, y.reserved = false) (n q : Nat) : State.settleReserved n s f q = s := by
  cases n with
  | zero => rfl
  | succ n =>
    have none_ : (s.fn f).entries.find? (fun x => decide (x.ref.sq = q) && x.reserved && s.fenced x) = none :=
      List.find?_eq_none.2 fun y hy => by simp [h y hy]
    rw [State.settleReserved, none_]

theorem settleQuiesce_none {s : State} {f : Nat} (h : (s.fn f).quiescing = none) : s.settleQuiesce f = s := by rw [State.settleQuiesce, h]

/-- The completion of an entry ends nothing else. -/
theorem complete_roomy {s : State} {e : EntryRef} {x : Entry} {c : Cq} (h : Roomy s e x c) (hq : (s.fn e.fn).quiescing = none) (st w2 w3 : Nat) :
    Answered s (s.complete e st w2 w3) e x c st w2 w3 ∧ HostOnly s (s.complete e st w2 w3) ∧ (s.complete e st w2 w3).dies = s.dies := by
  obtain ⟨⟨cqs, vecs, fn⟩, dies, mem, tail⟩ := completeRaw_enters h st w2 w3
  have gone := forgotten_entry? h
  obtain ⟨-, -, deleting, reserved, removing, -⟩ := h
  rw [State.fn_modFn] at fn
  have kept : s.complete e st w2 w3 = s.completeRaw e st w2 w3 0 := by
    have quiet : ∀ q, (s.completeRaw e st w2 w3 0).settleSq e.fn q = s.completeRaw e st w2 w3 0 :=
      settleSq_idle (by rw [fn]; exact forgotten_deleting e x deleting) (by rw [fn]; exact removing)
    rw [State.complete, settleReserved_none (by rw [fn]; exact forgotten_reserved e x reserved), quiet, quiet, settleQuiesce_none (by rw [fn]; exact hq)]
  refine ⟨⟨?_, ?_, ?_⟩, hostOnly_of_hostSide (hostSide_complete s e st w2 w3 0), ?_⟩
  · rw [kept, State.entry?, fn]; exact gone
  · rw [kept]; exact tail
  · have read := readBytes_writeBytes_same s.mem.host (hostKey c.pasid (c.base.toNat + 32 * c.tail)) (slotBytes c (answer s e x st w2 w3))
    rw [length_slotBytes] at read
    rw [kept, mem]; exact read
  · rw [kept]; exact dies

end Sys2Proof.Completions
end

section
/-! SUPPORT. PIN and UNPIN of a sector that is present (O33): R241, R242. -/

namespace Sys2Proof.PinCommands

open Sys2Proof Sys2Proof.Machine Sys2Proof.Claim Sys2Proof.HomeSteps Sys2Proof.DrillIssue Sys2Proof.BarAccess Sys2Proof.Completions

/-! ## A command whose entry has been fetched (R361, R374) -/

/-- The entry once it has started. -/
def started (x : Entry) : Entry := { x with started := true }

theorem fn_startEntry (s : State) (e : EntryRef) : (s.startEntry e).fn e.fn =
    { s.fn e.fn with entries := (s.fn e.fn).entries.map fun y => if y.ref = e then started y else y } := State.fn_modFn s e.fn _

/-- An entry that starts keeps its reference and its words. -/
theorem started_ite (p : Prop) [Decidable p] (y : Entry) : (if p then started y else y).ref = y.ref ∧ (if p then started y else y).w = y.w := by
  split <;> exact ⟨rfl, rfl⟩

theorem roomy_startEntry {s : State} {e : EntryRef} {x : Entry} {c : Cq} (h : Roomy s e x c) : Roomy (s.startEntry e) e (started x) c := by
  have ref := ref_of_roomy h
  obtain ⟨only, small, deleting, reserved, removing, log, captures, replays, hc, rest⟩ := h
  have fn := fn_startEntry s e
  refine ⟨?_, small, by rw [fn]; exact deleting, ?_, by rw [fn]; exact removing, by rw [fn]; exact log, captures, replays, ?_, rest⟩
  · have same : ((fun y : Entry => decide (y.ref = e)) ∘ fun y => if y.ref = e then started y else y) = fun y => decide (y.ref = e) :=
      funext fun y => by rw [Function.comp_apply, (started_ite _ y).1]
    rw [fn, List.filter_map, same, only, List.map_singleton, if_pos ref]
  · intro y hy
    rw [fn] at hy
    obtain ⟨z, hz, rfl⟩ := List.mem_map.1 hy
    rw [Entry.reserved, Entry.opcode, Entry.word, (started_ite _ z).2]
    exact reserved z hz
  · rw [State.cq?, fn]; exact hc

/-- What answers the started entry answers the entry. -/
theorem answered_startEntry {s t : State} {e : EntryRef} {x : Entry} {c : Cq} {st w2 w3 : Nat}
    (h : Answered (s.startEntry e) t e (started x) c st w2 w3) : Answered s t e x c st w2 w3 := by
  have sqs : (s.startEntry e).sq? e.fn e.sq = s.sq? e.fn e.sq := by rw [State.sq?, fn_startEntry]; rfl
  rw [Answered, sqs] at h
  exact h

theorem command_asked {s : State} {e : EntryRef} {op : Nat} {x : Entry} {c : Cq} (h : Asked s e op true x c) (body : Entry → State → State) :
    s.command e op (some true) body = body x (s.startEntry e) := by
  obtain ⟨roomy, opcode, fresh, fence, admin, -, running, timed⟩ := h
  have found := entry?_of_roomy roomy
  obtain ⟨-, -, -, -, -, -, -, replays, -⟩ := roomy
  have sq := admin.2 rfl
  have idle : s.replaying x.comp = false := by rw [State.replaying, replays]; rfl
  rw [State.command, found]
  dsimp only
  rw [if_neg (by simp [opcode, fresh, fence, idle]), if_neg (by simp [sq]), if_neg, if_neg]
  · cases ht : timedOp op with
    | true => simp
    | false => simp [timed ht]
  · rw [fn_startEntry]
    rintro ⟨-, quiesced, refused⟩
    obtain running | accepted := running
    · exact Bool.false_ne_true (running.symm.trans quiesced)
    · simp [accepted] at refused

/-- The range and its checks read nothing of the host's side. -/
theorem rangeSectors_startEntry (s : State) (e : EntryRef) (c a n : Nat) : (s.startEntry e).rangeSectors c a n = s.rangeSectors c a n := by
  rw [State.rangeSectors, State.rangeSectors, State.comp?_congr (s := s) (t := s.startEntry e) rfl]
  simp only [translate_congr (s := s) (t := s.startEntry e) rfl]

theorem pinStatus_startEntry (s : State) (e : EntryRef) (x : Entry) : (s.startEntry e).pinStatus e x = s.pinStatus e x := by
  rw [State.pinStatus, rangeSectors_startEntry]
  rfl

/-! ## The home's line -/

/-- A change of a home's granary leaves the host's side. -/
theorem roomy_modDie {s : State} {e : EntryRef} {x : Entry} {c : Cq} (h : Roomy s e x c) (d : Nat) (f : Die → Die) : Roomy (s.modDie d f) e x c := h

/-- The command changes die `d` alone, and completes. -/
theorem complete_modDie {s : State} {e : EntryRef} {op : Nat} {x : Entry} {c : Cq} (h : Asked s e op true x c) (d : Nat) (f : Die → Die) (w2 : Nat) :
    Answered s (((s.startEntry e).modDie d f).complete e 0 w2) e x c 0 w2 0 ∧ HostOnly s (((s.startEntry e).modDie d f).complete e 0 w2) ∧
      (((s.startEntry e).modDie d f).complete e 0 w2).dies = (s.modDie d f).dies := by
  obtain ⟨roomy, -, -, -, -, quiescing, -⟩ := h
  have begun := roomy_modDie (roomy_startEntry roomy) d f
  have quiet : (((s.startEntry e).modDie d f).fn e.fn).quiescing = none := (congrArg Fn.quiescing (fn_startEntry s e)).trans quiescing
  obtain ⟨answered, kept, dies⟩ := complete_roomy begun quiet 0 w2 0
  exact ⟨answered_startEntry answered, kept, dies⟩

theorem find?_of_lines {s : State} {n : Nat} {g : GSec} {l : GLine} (hg : s.gsec? n = some g) (hl : s.gline? n = some l) : find? l.secs (n % 4) = some g := by
  rw [State.gsec?, hl] at hg
  exact hg

/-- A sector's copy in the line that a change of its home puts in. -/
theorem gsec?_of_insert {s t : State} {n : Nat} {f : Die → Die} {l : GLine} (hd : t.dies = (s.modDie (homeOf n) f).dies)
    (hf : (f (s.die (homeOf n))).gran = insert (s.die (homeOf n)).gran (n / 4) l) : t.gsec? n = find? l.secs (n % 4) := by
  rw [State.gsec?, State.gline?, State.die_congr hd, State.die_modDie, hf, find?_insert_same]
  rfl

/-! ## PIN (R241, R242) -/

/-- The line with the sector's pin, and a new turn of pinning where the composition had none in it. -/
def pinnedLine (x : Die) (n c : Nat) (l : GLine) (g : GSec) : GLine :=
  { l with secs := insert l.secs (n % 4) (g.pin c), pinAt := if l.pinnedBy c then l.pinAt else insert l.pinAt c x.lru }

/-- The home with the pinned line. -/
def pinnedDie (n c : Nat) (l : GLine) (g : GSec) (x : Die) : Die :=
  { x with gran := insert x.gran (n / 4) (pinnedLine x n c l g), lru := x.lru + 1 }

section
variable {s : State} {n c : Nat} {g : GSec} {l : GLine} (hg : s.gsec? n = some g) (hl : s.gline? n = some l)
include hg hl

/-- A sector of a line that the composition pins, or may pin. -/
theorem pinSector_pins (hq : l.pinnedBy c = true ∨ ((s.die (homeOf n)).pLines c (granIndex (256 * n))).length < s.pinQuota c (homeOf n)) :
    s.pinSector c n = (s.modDie (homeOf n) (pinnedDie n c l g), true) := by
  rw [State.pinSector, hl]
  dsimp only
  rw [if_pos hq, find?_of_lines hg hl]
  rfl

theorem pinAll_pins {e : EntryRef} (hp : (s.die (homeOf n)).pend.contains (n, .ticket (.pin e)) = false)
    (hq : l.pinnedBy c = true ∨ ((s.die (homeOf n)).pLines c (granIndex (256 * n))).length < s.pinQuota c (homeOf n)) :
    s.pinAll e c ⟨0, 0, 0⟩ [n] = (s.modDie (homeOf n) (pinnedDie n c l g), ⟨1, 1, 0⟩, true) := by
  have free : (s.modDie (homeOf n) (pinnedDie n c l g)).unhold n (.pin e) = s.modDie (homeOf n) (pinnedDie n c l g) := by
    rw [State.unhold, State.die_modDie]
    exact if_neg (by rw [pinnedDie, hp]; exact Bool.false_ne_true)
  rw [State.pinAll, State.fetchPin, hg, pinSector_pins hg hl hq]
  dsimp only
  rw [free, State.pinAll]
  rfl

end

theorem pin_completes {s : State} {e : EntryRef} {x : Entry} {c : Cq} {n : Nat} {g : GSec} {l : GLine} (h : Asked s e 0x18 true x c)
    (hst : s.pinStatus e x = 0) (hhere : s.panelField x.comp (x.word 2) = .here)
    (hns : s.rangeSectors x.comp (bits (x.word 2) 47 0) (x.word 3).toNat = [some n]) (hg : s.gsec? n = some g) (hl : s.gline? n = some l)
    (hpins : x.pins = ⟨0, 0, 0⟩) (hp : (s.die (homeOf n)).pend.contains (n, .ticket (.pin e)) = false)
    (hq : l.pinnedBy x.comp = true ∨ ((s.die (homeOf n)).pLines x.comp (granIndex (256 * n))).length < s.pinQuota x.comp (homeOf n)) :
    ∃ t, Machine.exec (.pin e) s = .next t ∧ Answered s t e x c 0 (2 ^ 32) 0 ∧ t.gsec? n = some (g.pin x.comp) ∧ HostOnly s t := by
  obtain ⟨answered, kept, dies⟩ := complete_modDie h (homeOf n) (pinnedDie n x.comp l g) (2 ^ 32)
  refine ⟨_, congrArg Host.Outcome.next ?_, answered, ?_, kept⟩
  · obtain ⟨roomy, -, fresh, -⟩ := id h
    have status := (pinStatus_startEntry s e x).trans hst
    have place : (s.startEntry e).panelField x.comp (x.word 2) = .here := hhere
    have range := (rangeSectors_startEntry s e x.comp (bits (x.word 2) 47 0) (x.word 3).toNat).trans hns
    rw [entry?_of_roomy roomy]
    dsimp only
    rw [if_neg (by simp [fresh]), command_asked h, State.pinGo]
    dsimp only
    rw [if_neg (by simp [status]), if_neg (by simp [place]), range, hpins]
    have all := pinAll_pins (s := s.startEntry e) (c := x.comp) hg hl hp hq
    simp only [List.filterMap_cons, List.filterMap_nil, id, List.drop_zero, all, if_true, Nat.one_mul, Nat.add_zero]
  · rw [gsec?_of_insert dies rfl]
    exact find?_insert_same _ _ _

/-! ## UNPIN (R241) -/

/-- The line without the sector's pin; one left with none takes class K. -/
def unpinnedLine (n c : Nat) (l : GLine) (g : GSec) : GLine := GLine.settlePin l { l with secs := insert l.secs (n % 4) (g.unpin c) }

theorem unpinnedLine_secs (n c : Nat) (l : GLine) (g : GSec) : (unpinnedLine n c l g).secs = insert l.secs (n % 4) (g.unpin c) := by
  rw [unpinnedLine, GLine.settlePin]
  split <;> rfl

/-- The home with the line put back. -/
def unpinnedDie (n c : Nat) (l : GLine) (g : GSec) (x : Die) : Die := { x with gran := insert x.gran (n / 4) (unpinnedLine n c l g) }

theorem unpinSector_unpins {s : State} {n c : Nat} {g : GSec} {l : GLine} (hg : s.gsec? n = some g) (hl : s.gline? n = some l)
    (hp : g.pins.contains c = true) : s.unpinSector c n = (s.modDie (homeOf n) (unpinnedDie n c l g), true) := by
  have stays : (unpinnedLine n c l g).secs.isEmpty = false := by rw [unpinnedLine_secs]; exact insert_isEmpty _ _ _
  have put : s.putGline n (unpinnedLine n c l g) = s.modDie (homeOf n) (unpinnedDie n c l g) := by
    rw [State.putGline, stays]
    rfl
  rw [State.unpinSector, hl]
  dsimp only
  rw [find?_of_lines hg hl]
  dsimp only
  rw [if_pos hp]
  exact congrArg (·, true) put

theorem unpin_completes {s : State} {e : EntryRef} {x : Entry} {c : Cq} {n : Nat} {g : GSec} {l : GLine} (h : Asked s e 0x19 true x c)
    (hst : s.pinStatus e x = 0) (hns : s.rangeSectors x.comp (bits (x.word 2) 47 0) (x.word 3).toNat = [some n]) (hg : s.gsec? n = some g)
    (hl : s.gline? n = some l) (hp : g.pins.contains x.comp = true) :
    ∃ t, Machine.exec (.unpin e) s = .next t ∧ Answered s t e x c 0 (2 ^ 32) 0 ∧ t.gsec? n = some (g.unpin x.comp) ∧ HostOnly s t := by
  obtain ⟨answered, kept, dies⟩ := complete_modDie h (homeOf n) (unpinnedDie n x.comp l g) (2 ^ 32)
  refine ⟨_, congrArg Host.Outcome.next ?_, answered, ?_, kept⟩
  · have status := (pinStatus_startEntry s e x).trans hst
    have range := (rangeSectors_startEntry s e x.comp (bits (x.word 2) 47 0) (x.word 3).toNat).trans hns
    have one := unpinSector_unpins (s := s.startEntry e) (c := x.comp) hg hl hp
    rw [command_asked h]
    dsimp only
    rw [if_neg (by simp [status]), range]
    simp only [List.filterMap_cons, List.filterMap_nil, id, List.foldl_cons, List.foldl_nil, one, b2n, if_true, Nat.zero_add, Nat.one_mul]
  · rw [gsec?_of_insert dies rfl, unpinnedLine_secs]
    exact find?_insert_same _ _ _

/-! ## The statement -/

/-- Settles O33: a BAR4 request that finds no other waiting is performed at the home of its present sector, and PIN and UNPIN each change one line of
the home before they complete. -/
theorem barAccessesAndPinsActAtTheHome : Obligations.BarAccessesAndPinsActAtTheHome := by
  unfold Obligations.BarAccessesAndPinsActAtTheHome
  refine ⟨fun s o n a g hr hb hgo h hin hn => bar4Read_answered hr hb hgo h hin hn,
    fun s o v a g hr hb hgo h hin hn => bar4Write_performed hr hb hgo h hin hn,
    fun s o op n u v a g hr hb hn ho hgo ha h hp hu hv => bar4Atomicop_performed hr hb op hn ho hgo ha h hp hu hv,
    fun s e x c n g l h hst hhere hns hg hl hpins hp hq => pin_completes h hst hhere hns hg hl hpins hp hq,
    fun s e x c n g l h hst hns hg hl hp => unpin_completes h hst hns hg hl hp⟩

end Sys2Proof.PinCommands
end
